-- ==== Sys2Proof/Word.lean ====
section
/-! DEFINITION. The word types of the machine. -/

namespace Sys2Proof

/-- A byte of memory. -/
abbrev Byte := BitVec 8
/-- A 32-bit lane value, mask or parcel pair. -/
abbrev Word := BitVec 32
/-- A 64-bit scalar, address or state register. -/
abbrev Dword := BitVec 64
/-- A set of lanes: bit l is lane l. -/
abbrev Mask := BitVec 32

end Sys2Proof
end

