-- ==== Sys2Proof/Config.lean ====
section
/-! DEFINITION. What an implementation fixes and the spec leaves open: constants with no body, so that no proof can see a value. -/

namespace Sys2Proof.Config

/-- The n-th free value drawn (State.free counts them): seeds of operators, nonces, remote keys, the physical core of a logical
core (22 R350, R353; 28 R411; 24 R369; assumption log 6, 10). -/
opaque freeWord : Nat → BitVec 64
/-- SHA-384 (28 R400, R407, R408; assumption log 12): 48 bytes. -/
opaque sha384 : List Byte → Vector Byte 48
/-- Byte `i` of SHAKE256 of a message (22 R353). -/
opaque shake256 : List Byte → Nat → Byte
/-- The tag of AES-256-GCM over key, nonce, additional data and plaintext. -/
opaque gcmTag : List Byte → List Byte → List Byte → List Byte → Vector Byte 16
/-- Byte `i` of the key stream of AES-256-GCM under a key and a nonce (28 R404; assumption log 19). -/
opaque gcmByte : List Byte → List Byte → Nat → Byte
/-- RSASSA-PSS verification against the hash of a public key, and SLH-DSA-SHAKE-192s verification (28 R401). -/
opaque verifyPss : List Byte → List Byte → List Byte → Bool
/-- SLH-DSA-SHAKE-192s verification. -/
opaque verifySlh : List Byte → List Byte → List Byte → Bool
/-- The two signatures of the device over a message: 384 bytes. -/
opaque signPss : List Byte → Vector Byte 384
/-- The second signature: 16,224 bytes. -/
opaque signSlh : List Byte → Vector Byte 16224
/-- RSA-OAEP unwrap under the wrap key of this device (28 R403): the tenant key, or none. -/
opaque unwrap : List Byte → Option (List Byte)
/-- The wrap public key that PROVISION generates, by device ID (28 R400). -/
opaque wrapKey : List Byte → List Byte
/-- Security version, trusted part and Registrar part of a firmware image (28 R402). -/
opaque imageVersion : List Byte → Nat
/-- The trusted part of a firmware image. -/
opaque imageTrusted : List Byte → List Byte
/-- The Registrar part of a firmware image. -/
opaque imageRegistrar : List Byte → List Byte
/-- The stepping of the part (28 R407). -/
opaque stepping : BitVec 32
/-- Hops between devices of a domain, by the number drawn when this one joined and the pair: `b` for this device and device `b`, 512 + 512a + b for
`a` and `b` (20 R329, R416; assumption log 14). -/
opaque pathLen : BitVec 64 → Nat → Nat
/-- Logical cores of a desk on another device of the domain (19 R313, R419; assumption log 14). -/
opaque peerCores : Nat → Nat → Nat

end Sys2Proof.Config
end

