-- ==== Sys2Proof/Machine/Float.lean ====
section
/-! DEFINITION. Number formats and exact arithmetic (05_formats.md R75 to R89): decoding, one rounding, the operations on exact
values. Values are dyadic numbers, formed exactly and rounded once. -/

namespace Sys2Proof.Machine

/-- A floating-point format (Table 5-1): exponent and fraction width, bias, greatest finite code, infinities. -/
structure Fmt where
  eb : Nat
  mb : Nat
  bias : Nat
  maxCode : Nat
  hasInf : Bool
  nan : Nat
  deriving DecidableEq, Repr

/-- FP32 (Tables 5-1, 5-2). -/
def fp32 : Fmt := ⟨8, 23, 127, 0x7F7FFFFF, true, 0x7FC00000⟩
/-- FP16. -/
def fp16 : Fmt := ⟨5, 10, 15, 0x7BFF, true, 0x7E00⟩
/-- BF16. -/
def bf16 : Fmt := ⟨8, 7, 127, 0x7F7F, true, 0x7FC0⟩
/-- E4M3: no infinity; the code 0x7F is the NaN. -/
def e4m3 : Fmt := ⟨4, 3, 7, 0x7E, false, 0x7F⟩
/-- E5M2. -/
def e5m2 : Fmt := ⟨5, 2, 15, 0x7B, true, 0x7E⟩
/-- E2M1: no infinity, no NaN. -/
def e2m1 : Fmt := ⟨2, 1, 1, 0x7, false, 0x7⟩

/-- Width of a code in bits. -/
def Fmt.width (f : Fmt) : Nat := 1 + f.eb + f.mb

/-- A value: NaN (signalling or not), infinity, or (-1)^neg × m × 2^e. -/
inductive Val where
  | nan (signalling : Bool)
  | inf (neg : Bool)
  | fin (neg : Bool) (m : Nat) (e : Int)
  deriving DecidableEq, Repr

/-- The %fflags bits of Table 5-5. -/
def flagNX : Word := 1
/-- Underflow. -/
def flagUF : Word := 2
/-- Overflow. -/
def flagOF : Word := 4
/-- Division by zero. -/
def flagDZ : Word := 8
/-- Invalid operation. -/
def flagNV : Word := 16
/-- Integer saturation. -/
def flagSAT : Word := 32

/-- Decodes a code (R75, R76): subnormals as such. -/
def Fmt.decode (f : Fmt) (code : Nat) : Val :=
  let c := code % 2 ^ f.width
  let neg := c / 2 ^ (f.eb + f.mb) = 1
  let mag := c % 2 ^ (f.eb + f.mb)
  let ex := mag / 2 ^ f.mb
  let fr := mag % 2 ^ f.mb
  if mag > f.maxCode then
    if f.hasInf then
      if fr = 0 then .inf neg else .nan (decide (fr < 2 ^ (f.mb - 1)))
    else .nan false
  else if ex = 0 then .fin neg fr (1 - f.bias - f.mb : Int)
  else .fin neg (2 ^ f.mb + fr) ((ex : Int) - f.bias - f.mb)

/-- Rounding modes (Table 5-4); stochastic rounding carries the random word of R91. -/
inductive Rnd where
  | rne | rz | rd | ru
  | sr (v : Word)
  deriving DecidableEq, Repr

/-- Bits of a number: 0 for 0. -/
def bitLen (m : Nat) : Nat := if m = 0 then 0 else Nat.log2 m + 1

/-- `m` × 2^`s`, for `s` of either sign, rounding down. -/
def shiftInt (m : Nat) (s : Int) : Nat := if 0 ≤ s then m * 2 ^ s.toNat else m / 2 ^ (-s).toNat

/-- Whether a magnitude with quotient `n`, remainder `r` of `2^s` parts and a sticky part below goes up (R82). -/
def roundsUp (mode : Rnd) (neg : Bool) (n r s : Nat) (sticky : Bool) : Bool :=
  let inexact := decide (r ≠ 0) || sticky
  match mode with
  | .rne => decide (2 * r > 2 ^ s) || (decide (2 * r = 2 ^ s) && (sticky || decide (n % 2 = 1)))
  | .rz => false
  | .rd => neg && inexact
  | .ru => !neg && inexact
  | .sr v => decide (2 ^ 32 ≤ v.toNat + 2 ^ 32 * r / 2 ^ s)

/-- `m` × 2^`e` (and a part below one unit when `sticky`) as a multiple of 2^`q`: the multiple, and whether it is inexact. -/
def roundTo (mode : Rnd) (neg : Bool) (m : Nat) (e q : Int) (sticky : Bool) : Nat × Bool :=
  if q ≤ e then (m * 2 ^ (e - q).toNat + (if roundsUp mode neg 0 0 0 sticky && sticky then 1 else 0), sticky)
  else
    let s := (q - e).toNat
    let n := m / 2 ^ s
    let r := m % 2 ^ s
    (n + (if roundsUp mode neg n r s sticky then 1 else 0), decide (r ≠ 0) || sticky)

/-- The code with a sign. -/
def Fmt.signed (f : Fmt) (neg : Bool) (mag : Nat) : Nat := (if neg then 2 ^ (f.eb + f.mb) else 0) + mag

/-- The result of an overflow (R83). -/
def Fmt.overflow (f : Fmt) (mode : Rnd) (neg : Bool) : Nat :=
  if !f.hasInf then f.maxCode
  else match mode with
    | .rne => f.maxCode + 1
    | .rz => f.maxCode
    | .rd => if neg then f.maxCode + 1 else f.maxCode
    | .ru => if neg then f.maxCode else f.maxCode + 1
    | .sr _ => f.maxCode + 1

/-- Rounds a finite value into a format (R82 to R84): the code and the flags NX, UF, OF. `sticky` says that the exact value
lies strictly between `m` and `m + 1` units of 2^`e`. -/
def Fmt.round (f : Fmt) (mode : Rnd) (neg : Bool) (m : Nat) (e : Int) (sticky : Bool := false) : Nat × Word :=
  if m = 0 && !sticky then (f.signed neg 0, 0)
  else
    let top : Int := e + (bitLen m : Int) - 1
    let emin : Int := 1 - f.bias
    let q : Int := (if top < emin then emin else top) - f.mb
    let (n, inx) := roundTo mode neg m e q sticky
    let code := (q - (emin - f.mb)).toNat * 2 ^ f.mb + n
    if code > f.maxCode then (f.signed neg (f.overflow mode neg), flagOF ||| flagNX)
    else
      let tiny := decide (top < emin) &&
        !(decide (top + 1 = emin) && decide ((roundTo mode neg m e (top - f.mb) sticky).1 = 2 ^ (f.mb + 1)))
      (f.signed neg code, (if inx then flagNX else 0) ||| (if inx && tiny then flagUF else 0))

/-- A value converted into a format: canonical NaN, NV for a signalling source and for an infinity E4M3 cannot hold (R76, R83). -/
def Fmt.ofVal (f : Fmt) (mode : Rnd) : Val → Nat × Word
  | .nan s => (f.nan, if s then flagNV else 0)
  | .inf neg => if f.hasInf then (f.signed neg (f.maxCode + 1), 0) else (f.nan, flagNV)
  | .fin neg m e => f.round mode neg m e

/-- Signed exact integer of a finite value at exponent `q` (`q` not above its exponent). -/
def signedAt (neg : Bool) (m : Nat) (e q : Int) : Int :=
  let x : Int := (m * 2 ^ (e - q).toNat : Nat)
  if neg then -x else x

/-- Whether a value is a NaN. -/
def Val.isNan : Val → Bool
  | .nan _ => true
  | _ => false

/-- Whether a value is a signalling NaN. -/
def Val.isSnan : Val → Bool
  | .nan s => s
  | _ => false

/-- The sign of a value that is not a NaN. -/
def Val.neg? : Val → Bool
  | .nan _ => false
  | .inf n => n
  | .fin n _ _ => n

/-- The value with the opposite sign. -/
def Val.negate : Val → Val
  | .nan s => .nan s
  | .inf n => .inf (!n)
  | .fin n m e => .fin (!n) m e

/-- NV for an operand that is a signalling NaN (R84). -/
def snanFlag (xs : List Val) : Word := if xs.any Val.isSnan then flagNV else 0

/-- Exact sum with the sign rules of IEEE 754 under RNE (R85): an exact zero sum of opposite signs is +0. -/
def Val.add : Val → Val → Val × Word
  | .nan _, _ => (.nan false, 0)
  | _, .nan _ => (.nan false, 0)
  | .inf a, .inf b => if a = b then (.inf a, 0) else (.nan false, flagNV)
  | .inf a, _ => (.inf a, 0)
  | _, .inf b => (.inf b, 0)
  | .fin a m e, .fin b n g =>
    let q := if e < g then e else g
    let x := signedAt a m e q + signedAt b n g q
    if x = 0 then (.fin (a && b) 0 q, 0) else (.fin (decide (x < 0)) x.natAbs q, 0)

/-- Exact product. -/
def Val.mul : Val → Val → Val × Word
  | .nan _, _ => (.nan false, 0)
  | _, .nan _ => (.nan false, 0)
  | .inf a, .inf b => (.inf (a != b), 0)
  | .inf a, .fin b n _ => if n = 0 then (.nan false, flagNV) else (.inf (a != b), 0)
  | .fin a m _, .inf b => if m = 0 then (.nan false, flagNV) else (.inf (a != b), 0)
  | .fin a m e, .fin b n g => (.fin (a != b) (m * n) (e + g), 0)

/-- Whether `a` is less than `b`; neither is a NaN. Zeros compare equal here. -/
def Val.lt (a b : Val) : Bool :=
  match a, b with
  | .nan _, _ => false
  | _, .nan _ => false
  | .inf n, .inf k => n && !k
  | .inf n, _ => n
  | _, .inf k => !k
  | .fin n m e, .fin k l g =>
    let q := if e < g then e else g
    decide (signedAt n m e q < signedAt k l g q)

/-- Whether two values are equal as numbers. -/
def Val.eq (a b : Val) : Bool := !a.isNan && !b.isNan && !a.lt b && !b.lt a

/-- Whether `a` is less than `b` with -0 below +0 (R86, R87). -/
def Val.ltZ (a b : Val) : Bool := a.lt b || (a.eq b && a.neg? && !b.neg?)

/-- Two operations in one format: operands decoded, the exact result rounded once, the flags of both (R85). -/
def Fmt.finish (f : Fmt) (r : Val × Word) (ops : List Val) : Nat × Word :=
  let (c, g) := f.ofVal .rne r.1
  (c, g ||| r.2 ||| snanFlag ops)

/-- IEEE 754 addition, RNE (R85). -/
def Fmt.fadd (f : Fmt) (a b : Nat) : Nat × Word :=
  let x := f.decode a; let y := f.decode b
  f.finish (x.add y) [x, y]

/-- IEEE 754 subtraction, RNE. -/
def Fmt.fsub (f : Fmt) (a b : Nat) : Nat × Word :=
  let x := f.decode a; let y := f.decode b
  f.finish (x.add y.negate) [x, y]

/-- IEEE 754 multiplication, RNE. -/
def Fmt.fmul (f : Fmt) (a b : Nat) : Nat × Word :=
  let x := f.decode a; let y := f.decode b
  f.finish (x.mul y) [x, y]

/-- ±(a × b) ± d with one rounding (R85): `np` negates the product, `nd` the addend. -/
def Fmt.ffma (f : Fmt) (np nd : Bool) (a b d : Nat) : Nat × Word :=
  let x := f.decode a; let y := f.decode b; let z := f.decode d
  let (p, g) := x.mul y
  let p := if np then p.negate else p
  let z' := if nd then z.negate else z
  let (r, g') := p.add z'
  f.finish (r, g ||| g') [x, y, z]

/-- IEEE 754 division, RNE. -/
def Fmt.fdiv (f : Fmt) (a b : Nat) : Nat × Word :=
  let x := f.decode a; let y := f.decode b
  match x, y with
  | .nan _, _ => f.finish (.nan false, 0) [x, y]
  | _, .nan _ => f.finish (.nan false, 0) [x, y]
  | .inf _, .inf _ => f.finish (.nan false, flagNV) []
  | .inf p, .fin q _ _ => f.finish (.inf (p != q), 0) []
  | .fin p _ _, .inf q => f.finish (.fin (p != q) 0 0, 0) []
  | .fin p m e, .fin q n g =>
    if n = 0 then
      if m = 0 then f.finish (.nan false, flagNV) [] else f.finish (.inf (p != q), flagDZ) []
    else
      let k := 64 + bitLen n
      let t := m * 2 ^ k
      f.round .rne (p != q) (t / n) (e - g - k) (decide (t % n ≠ 0))

/-- Greatest integer whose square is at most `m`, bit by bit from bit `k` down. -/
def isqrtAux (m : Nat) : Nat → Nat → Nat
  | 0, r => r
  | k + 1, r =>
    let c := r + 2 ^ k
    isqrtAux m k (if c * c ≤ m then c else r)

/-- Integer square root. -/
def isqrt (m : Nat) : Nat := isqrtAux m (bitLen m / 2 + 1) 0

/-- IEEE 754 square root, RNE. -/
def Fmt.fsqrt (f : Fmt) (a : Nat) : Nat × Word :=
  let x := f.decode a
  match x with
  | .nan _ => f.finish (.nan false, 0) [x]
  | .inf n => if n then f.finish (.nan false, flagNV) [] else f.finish (.inf false, 0) []
  | .fin n m e =>
    if m = 0 then f.finish (.fin n 0 0, 0) []
    else if n then f.finish (.nan false, flagNV) []
    else
      let odd := decide (e % 2 ≠ 0)
      let m' := (if odd then 2 * m else m) * 2 ^ 128
      let e' := (if odd then e - 1 else e) / 2 - 64
      let r := isqrt m'
      f.round .rne false r e' (decide (r * r ≠ m'))

/-- minimumNumber (`max` false) or maximumNumber (`max` true) of two codes (R86). -/
def Fmt.fminmax (f : Fmt) (max : Bool) (a b : Nat) : Nat × Word :=
  let x := f.decode a; let y := f.decode b
  let g := snanFlag [x, y]
  if x.isNan && y.isNan then (f.nan, g)
  else if x.isNan then (b, g)
  else if y.isNan then (a, g)
  else if max then (if x.ltZ y then b else a, g)
  else (if y.ltZ x then b else a, g)

/-- MaxL (`less` false) and MinL (`less` true) of two value-index words (R87). -/
def maxL (less : Bool) (a b : Word) : Word :=
  let va := fp16.decode (a.toNat / 65536); let vb := fp16.decode (b.toNat / 65536)
  let ia := a.toNat % 65536; let ib := b.toNat % 65536
  if va.isNan && vb.isNan then BitVec.ofNat 32 (0x7E00 * 65536 + (if ia ≤ ib then ia else ib))
  else if va.isNan then b
  else if vb.isNan then a
  else if (if less then va.ltZ vb else vb.ltZ va) then a
  else if (if less then vb.ltZ va else va.ltZ vb) then b
  else if ia ≤ ib then a else b

/-- Nearest integer to a / b. -/
def roundDiv (a b : Nat) : Nat := (2 * a + b) / (2 * b)

/-- Entry j of the reciprocal estimate table (R88). -/
def rcpTable (j : Nat) : Nat := if j = 256 then 2 ^ 23 else roundDiv (2 ^ 32) (256 + j)

/-- Entry j of the reciprocal square-root estimate table (R88): 2^24 / sqrt((1 + i/128) × 2^p), to the nearest integer. -/
def rsqTable (j : Nat) : Nat :=
  if j = 256 then 2 ^ 23
  else
    let p := j / 128; let i := j % 128
    -- the square of twice the value is 2^50 × 128 / ((128 + i) × 2^p); the nearest integer is (floor + 1) / 2
    (isqrt (2 ^ 57 / ((128 + i) * 2 ^ p)) + 1) / 2

/-- Exponent and 23-bit fraction of a finite non-zero value normalised (R88). -/
def normalise (m : Nat) (e : Int) : Nat × Int :=
  let l := bitLen m
  (m * 2 ^ 24 / 2 ^ l % 2 ^ 23, e + (l : Int) - 1)

/-- VFRCP's estimate of an FP32 operand (R88, R89), as an exact value or a special one, with its flags. -/
def rcpEst (a : Nat) : Nat × Word :=
  match fp32.decode a with
  | .nan s => (fp32.nan, if s then flagNV else 0)
  | .inf n => (fp32.signed n 0, 0)
  | .fin n m e =>
    if m = 0 then (fp32.signed n (fp32.maxCode + 1), flagDZ)
    else
      let (f, x) := normalise m e
      let j := f / 2 ^ 15; let d := f % 2 ^ 15
      let y := rcpTable j - (rcpTable j - rcpTable (j + 1)) * d / 2 ^ 15
      fp32.round .rne n y (-24 - x)

/-- VFRSQ's estimate of an FP32 operand (R88, R89). -/
def rsqEst (a : Nat) : Nat × Word :=
  match fp32.decode a with
  | .nan s => (fp32.nan, if s then flagNV else 0)
  | .inf n => if n then (fp32.nan, flagNV) else (0, 0)
  | .fin n m e =>
    if m = 0 then (fp32.signed n (fp32.maxCode + 1), flagDZ)
    else if n then (fp32.nan, flagNV)
    else
      let (f, x) := normalise m e
      let p := (x % 2).toNat
      let j := 128 * p + f / 2 ^ 16; let d := f % 2 ^ 16
      let y := rsqTable j - (rsqTable j - rsqTable (j + 1)) * d / 2 ^ 16
      fp32.round .rne false y (-24 - (x - p) / 2)

/-- A condition of VFCMP (Table 9-11): codes 0 to 7. -/
def fcmp (cnd : Nat) (x y : Val) : Bool :=
  let un := x.isNan || y.isNan
  match cnd with
  | 0 => x.eq y
  | 1 => un || !x.eq y
  | 2 => !un && x.lt y
  | 3 => !un && !y.lt x
  | 4 => !un && y.lt x
  | 5 => !un && !x.lt y
  | 6 => un
  | _ => !un

/-- A finite value rounded to an integer in a mode: the integer and whether it is inexact (R81). -/
def toInt (mode : Rnd) (neg : Bool) (m : Nat) (e : Int) : Int × Bool :=
  let (n, inx) := roundTo mode neg m e 0 false
  (if neg then -(n : Int) else n, inx)

/-- A value converted to an integer range (R81): the integer and the flags NV or NX. -/
def Val.toRange (mode : Rnd) (lo hi : Int) : Val → Int × Word
  | .nan _ => (0, flagNV)
  | .inf n => (if n then lo else hi, flagNV)
  | .fin n m e =>
    let (i, inx) := toInt mode n m e
    if i < lo then (lo, flagNV) else if hi < i then (hi, flagNV) else (i, if inx then flagNX else 0)

/-- An integer as an exact value. -/
def Val.ofInt (i : Int) : Val := .fin (decide (i < 0)) i.natAbs 0

end Sys2Proof.Machine
end

