-- ==== Sys2Proof/Syntax.lean ====
section
/-! DEFINITION. The instructions, operations and events of the opcode table: one constructor per row of
spec/opcode_table.json, first the CIS rows with operand fields in its
order, then the others. The fields of an encoded row are the fields of its encoding (09_encoding.md
Tables 9-1 to 9-10), destination first; an operation or event without an encoding carries what identifies it and what
its sender states. -/

namespace Sys2Proof

/-- One row of the opcode table each: 258 CIS instructions, 102 operations and events of the device, its hosts and its
environment, and the five Xaedq instructions of a Registrar hart (R385). -/
inductive Instr where
  /-- ADD (R163): Scalar add: sd := Trunc64(sa + sb). -/
  | add (d : BitVec 5) (a : BitVec 5) (b : BitVec 5)
  /-- SUB (R163): Scalar subtract: sd := Trunc64(sa - sb). -/
  | sub (d : BitVec 5) (a : BitVec 5) (b : BitVec 5)
  /-- MUL (R163): Low 64 bits of the scalar product. -/
  | mul (d : BitVec 5) (a : BitVec 5) (b : BitVec 5)
  /-- MULH (R163): High 64 bits of the signed scalar product. -/
  | mulh (d : BitVec 5) (a : BitVec 5) (b : BitVec 5)
  /-- MULHU (R163): High 64 bits of the unsigned scalar product. -/
  | mulhu (d : BitVec 5) (a : BitVec 5) (b : BitVec 5)
  /-- DIV (R164): Signed scalar division rounded toward zero; division by zero and overflow defined without trap. -/
  | div (d : BitVec 5) (a : BitVec 5) (b : BitVec 5)
  /-- DIVU (R164): Unsigned scalar division. -/
  | divu (d : BitVec 5) (a : BitVec 5) (b : BitVec 5)
  /-- REM (R164): Signed scalar remainder with the sign of the dividend. -/
  | rem (d : BitVec 5) (a : BitVec 5) (b : BitVec 5)
  /-- REMU (R164): Unsigned scalar remainder. -/
  | remu (d : BitVec 5) (a : BitVec 5) (b : BitVec 5)
  /-- AND (R163): Scalar bitwise AND. -/
  | and (d : BitVec 5) (a : BitVec 5) (b : BitVec 5)
  /-- OR (R163): Scalar bitwise OR. -/
  | or (d : BitVec 5) (a : BitVec 5) (b : BitVec 5)
  /-- XOR (R163): Scalar bitwise XOR. -/
  | xor (d : BitVec 5) (a : BitVec 5) (b : BitVec 5)
  /-- ANDN (R163): Scalar sa AND NOT sb. -/
  | andn (d : BitVec 5) (a : BitVec 5) (b : BitVec 5)
  /-- SHL (R165): Scalar shift left by sb[5:0], zero fill. -/
  | shl (d : BitVec 5) (a : BitVec 5) (b : BitVec 5)
  /-- SHR (R165): Scalar logical shift right by sb[5:0]. -/
  | shr (d : BitVec 5) (a : BitVec 5) (b : BitVec 5)
  /-- SRA (R165): Scalar arithmetic shift right by sb[5:0]. -/
  | sra (d : BitVec 5) (a : BitVec 5) (b : BitVec 5)
  /-- SHLI (R165): Scalar shift left by an immediate amount. -/
  | shli (d : BitVec 5) (a : BitVec 5) (n : BitVec 6)
  /-- SHRI (R165): Scalar logical shift right by an immediate amount. -/
  | shri (d : BitVec 5) (a : BitVec 5) (n : BitVec 6)
  /-- SRAI (R165): Scalar arithmetic shift right by an immediate amount. -/
  | srai (d : BitVec 5) (a : BitVec 5) (n : BitVec 6)
  /-- SLT (R163): Sets sd to 1 when sa < sb signed. -/
  | slt (d : BitVec 5) (a : BitVec 5) (b : BitVec 5)
  /-- SLTU (R163): Sets sd to 1 when sa < sb unsigned. -/
  | sltu (d : BitVec 5) (a : BitVec 5) (b : BitVec 5)
  /-- MIN (R163): Signed scalar minimum. -/
  | min (d : BitVec 5) (a : BitVec 5) (b : BitVec 5)
  /-- MAX (R163): Signed scalar maximum. -/
  | max (d : BitVec 5) (a : BitVec 5) (b : BitVec 5)
  /-- MINU (R163): Unsigned scalar minimum. -/
  | minu (d : BitVec 5) (a : BitVec 5) (b : BitVec 5)
  /-- MAXU (R163): Unsigned scalar maximum. -/
  | maxu (d : BitVec 5) (a : BitVec 5) (b : BitVec 5)
  /-- CLZ (R166): Counts leading zero bits of sa. -/
  | clz (d : BitVec 5) (a : BitVec 5)
  /-- CTZ (R166): Counts trailing zero bits of sa. -/
  | ctz (d : BitVec 5) (a : BitVec 5)
  /-- POPC (R166): Counts one bits of sa. -/
  | popc (d : BitVec 5) (a : BitVec 5)
  /-- BFX (R167): Extracts bit field (p, w) of sa, zero- or sign-extended. -/
  | bfx (d : BitVec 5) (a : BitVec 5) (p : BitVec 6) (w : BitVec 6) (x : BitVec 1)
  /-- BFI (R167): Inserts the low w bits of sa into sd at position p. -/
  | bfi (d : BitVec 5) (a : BitVec 5) (p : BitVec 6) (w : BitVec 6)
  /-- SEL (R168): Selects sa when sc is non-zero, else sb. -/
  | sel (d : BitVec 5) (a : BitVec 5) (b : BitVec 5) (c : BitVec 5)
  /-- ADDI (R169): Adds a sign-extended 14-bit immediate. -/
  | addi (d : BitVec 5) (a : BitVec 5) (i : BitVec 14)
  /-- ANDI (R169): ANDs a sign-extended immediate. -/
  | andi (d : BitVec 5) (a : BitVec 5) (i : BitVec 14)
  /-- ORI (R169): ORs a sign-extended immediate. -/
  | ori (d : BitVec 5) (a : BitVec 5) (i : BitVec 14)
  /-- XORI (R169): XORs a sign-extended immediate. -/
  | xori (d : BitVec 5) (a : BitVec 5) (i : BitVec 14)
  /-- LIH (R169): Loads sext(imm19) << 13 into sd. -/
  | lih (d : BitVec 5) (i : BitVec 19)
  /-- ADDA (R170): Address register ad := aa + immediate. -/
  | adda (d : BitVec 4) (a : BitVec 4) (i : BitVec 14)
  /-- MOVA (R170): Address register ad := sa + immediate. -/
  | mova (d : BitVec 4) (a : BitVec 5) (i : BitVec 14)
  /-- MOVSA (R170): Scalar sd := aa + immediate. -/
  | movsa (d : BitVec 5) (a : BitVec 4) (i : BitVec 14)
  /-- SETK (R171): Sets modulo register BASE and LEN from sa. -/
  | setk (k : BitVec 3) (a : BitVec 5)
  /-- GETK (R171): Reads a modulo register into sd. -/
  | getk (d : BitVec 5) (k : BitVec 3)
  /-- MFS (R172): Reads a state register into sd. -/
  | mfs (d : BitVec 5) (n : BitVec 14)
  /-- MTS (R172): Writes a writable state register from sa. -/
  | mts (a : BitVec 5) (n : BitVec 14)
  /-- BC (R174): Compares two scalars and branches after its delay slot. -/
  | bc (a : BitVec 5) (b : BitVec 5) (c : BitVec 3) (o : BitVec 11)
  /-- J (R175): Jumps by a 24-bit parcel offset after the delay slot. -/
  | j (o : BitVec 24)
  /-- JAL (R175): Jumps and writes the fall-through address to a15. -/
  | jal (o : BitVec 24)
  /-- JR (R176): Jumps to the address in aa after the delay slot. -/
  | jr (a : BitVec 4)
  /-- BV (R177): Vector branch deciding per lane and possibly splitting the fragment. -/
  | bv (m : BitVec 3) (t : BitVec 10) (jo : BitVec 11)
  /-- JTV (R178): Per-lane table jump grouping lanes by target and splitting the fragment. -/
  | jtv (v : BitVec 6) (n : BitVec 4) (b : BitVec 5) (jo : BitVec 9)
  /-- LOOPL (R180): Starts a hardware loop over the body with count from sa. -/
  | loopl (a : BitVec 5) (o : BitVec 11)
  /-- LOOPB (R182): Hardware loop whose body is held in the core's loop buffer; conductor only. -/
  | loopb (a : BitVec 5) (o : BitVec 11)
  /-- VMOV (R133): 16-bit vector move vd := vb. -/
  | vmov (d : BitVec 6) (b : BitVec 5)
  /-- VADD_I32_16 (R133): 16-bit form of VADD.I32 with va = vd. -/
  | vaddI32x16 (d : BitVec 6) (b : BitVec 5)
  /-- VSUB_I32_16 (R133): 16-bit form of VSUB.I32. -/
  | vsubI32x16 (d : BitVec 6) (b : BitVec 5)
  /-- VMUL_I32_16 (R133): 16-bit form of VMUL.I32. -/
  | vmulI32x16 (d : BitVec 6) (b : BitVec 5)
  /-- VAND_16 (R133): 16-bit form of VAND. -/
  | vandx16 (d : BitVec 6) (b : BitVec 5)
  /-- VOR_16 (R133): 16-bit form of VOR. -/
  | vorx16 (d : BitVec 6) (b : BitVec 5)
  /-- VXOR_16 (R133): 16-bit form of VXOR. -/
  | vxorx16 (d : BitVec 6) (b : BitVec 5)
  /-- VSHL_I32_16 (R133): 16-bit form of VSHL.I32. -/
  | vshlI32x16 (d : BitVec 6) (b : BitVec 5)
  /-- VSRA_I32_16 (R133): 16-bit form of VSRA.I32. -/
  | vsraI32x16 (d : BitVec 6) (b : BitVec 5)
  /-- VMIN_S32_16 (R133): 16-bit form of VMIN.S32. -/
  | vminS32x16 (d : BitVec 6) (b : BitVec 5)
  /-- VMAX_S32_16 (R133): 16-bit form of VMAX.S32. -/
  | vmaxS32x16 (d : BitVec 6) (b : BitVec 5)
  /-- VFADD_F32_16 (R133): 16-bit form of VFADD.F32. -/
  | vfaddF32x16 (d : BitVec 6) (b : BitVec 5)
  /-- VFSUB_F32_16 (R133): 16-bit form of VFSUB.F32. -/
  | vfsubF32x16 (d : BitVec 6) (b : BitVec 5)
  /-- VFMUL_F32_16 (R133): 16-bit form of VFMUL.F32. -/
  | vfmulF32x16 (d : BitVec 6) (b : BitVec 5)
  /-- VFMIN_F32_16 (R133): 16-bit form of VFMIN.F32. -/
  | vfminF32x16 (d : BitVec 6) (b : BitVec 5)
  /-- VFMAX_F32_16 (R133): 16-bit form of VFMAX.F32. -/
  | vfmaxF32x16 (d : BitVec 6) (b : BitVec 5)
  /-- VADD_I32 (R188): Wrapping 32-bit lane add. -/
  | vaddI32 (d : BitVec 6) (a : BitVec 6) (b : BitVec 6) (m : BitVec 3)
  /-- VADD_S32 (R188): Signed saturating lane add. -/
  | vaddS32 (d : BitVec 6) (a : BitVec 6) (b : BitVec 6) (m : BitVec 3)
  /-- VADD_U32 (R188): Unsigned saturating lane add. -/
  | vaddU32 (d : BitVec 6) (a : BitVec 6) (b : BitVec 6) (m : BitVec 3)
  /-- VSUB_I32 (R188): Wrapping lane subtract. -/
  | vsubI32 (d : BitVec 6) (a : BitVec 6) (b : BitVec 6) (m : BitVec 3)
  /-- VSUB_S32 (R188): Signed saturating lane subtract. -/
  | vsubS32 (d : BitVec 6) (a : BitVec 6) (b : BitVec 6) (m : BitVec 3)
  /-- VSUB_U32 (R188): Unsigned saturating lane subtract. -/
  | vsubU32 (d : BitVec 6) (a : BitVec 6) (b : BitVec 6) (m : BitVec 3)
  /-- VMUL_I32 (R188): Low 32 bits of the lane product. -/
  | vmulI32 (d : BitVec 6) (a : BitVec 6) (b : BitVec 6) (m : BitVec 3)
  /-- VMULH_S32 (R188): High 32 bits of the signed lane product. -/
  | vmulhS32 (d : BitVec 6) (a : BitVec 6) (b : BitVec 6) (m : BitVec 3)
  /-- VMULH_U32 (R188): High 32 bits of the unsigned lane product. -/
  | vmulhU32 (d : BitVec 6) (a : BitVec 6) (b : BitVec 6) (m : BitVec 3)
  /-- VMAD_I32 (R188): Lane multiply-add with vd as addend. -/
  | vmadI32 (d : BitVec 6) (a : BitVec 6) (b : BitVec 6) (m : BitVec 3)
  /-- VAND (R188): Lane bitwise AND. -/
  | vand (d : BitVec 6) (a : BitVec 6) (b : BitVec 6) (m : BitVec 3)
  /-- VOR (R188): Lane bitwise OR. -/
  | vor (d : BitVec 6) (a : BitVec 6) (b : BitVec 6) (m : BitVec 3)
  /-- VXOR (R188): Lane bitwise XOR. -/
  | vxor (d : BitVec 6) (a : BitVec 6) (b : BitVec 6) (m : BitVec 3)
  /-- VANDN (R188): Lane a AND NOT b. -/
  | vandn (d : BitVec 6) (a : BitVec 6) (b : BitVec 6) (m : BitVec 3)
  /-- VSHL_I32 (R189): Lane shift left by b[4:0]. -/
  | vshlI32 (d : BitVec 6) (a : BitVec 6) (b : BitVec 6) (m : BitVec 3)
  /-- VSHR_I32 (R189): Lane logical shift right by b[4:0]. -/
  | vshrI32 (d : BitVec 6) (a : BitVec 6) (b : BitVec 6) (m : BitVec 3)
  /-- VSRA_I32 (R189): Lane arithmetic shift right by b[4:0]. -/
  | vsraI32 (d : BitVec 6) (a : BitVec 6) (b : BitVec 6) (m : BitVec 3)
  /-- VMIN_S32 (R188): Signed lane minimum. -/
  | vminS32 (d : BitVec 6) (a : BitVec 6) (b : BitVec 6) (m : BitVec 3)
  /-- VMAX_S32 (R188): Signed lane maximum. -/
  | vmaxS32 (d : BitVec 6) (a : BitVec 6) (b : BitVec 6) (m : BitVec 3)
  /-- VMIN_U32 (R188): Unsigned lane minimum. -/
  | vminU32 (d : BitVec 6) (a : BitVec 6) (b : BitVec 6) (m : BitVec 3)
  /-- VMAX_U32 (R188): Unsigned lane maximum. -/
  | vmaxU32 (d : BitVec 6) (a : BitVec 6) (b : BitVec 6) (m : BitVec 3)
  /-- VABS_S32 (R188): Lane absolute value. -/
  | vabsS32 (d : BitVec 6) (a : BitVec 6) (m : BitVec 3)
  /-- VNEG_I32 (R188): Lane negation. -/
  | vnegI32 (d : BitVec 6) (a : BitVec 6) (m : BitVec 3)
  /-- VSEL (R191): Per-lane select of va or vb by selector mask. -/
  | vsel (d : BitVec 6) (a : BitVec 6) (b : BitVec 6) (s : BitVec 3)
  /-- VCMP_S32 (R192): Signed lane compare into a mask register. -/
  | vcmpS32 (d : BitVec 3) (a : BitVec 6) (b : BitVec 6) (m : BitVec 3) (c : BitVec 3)
  /-- VCMP_U32 (R192): Unsigned lane compare into a mask register. -/
  | vcmpU32 (d : BitVec 3) (a : BitVec 6) (b : BitVec 6) (m : BitVec 3) (c : BitVec 3)
  /-- VPOPC (R188): Lane population count. -/
  | vpopc (d : BitVec 6) (a : BitVec 6) (m : BitVec 3)
  /-- VCLZ (R188): Lane leading-zero count. -/
  | vclz (d : BitVec 6) (a : BitVec 6) (m : BitVec 3)
  /-- VBFX_U32 (R190): Lane bit-field extract, zero-extended. -/
  | vbfxU32 (d : BitVec 6) (a : BitVec 6) (s : BitVec 5) (m : BitVec 3)
  /-- VBFX_S32 (R190): Lane bit-field extract, sign-extended. -/
  | vbfxS32 (d : BitVec 6) (a : BitVec 6) (s : BitVec 5) (m : BitVec 3)
  /-- VADDI_I32 (R188): Adds a 9-bit signed immediate in each lane. -/
  | vaddiI32 (d : BitVec 6) (a : BitVec 6) (m : BitVec 3) (i : BitVec 9)
  /-- VSHLI (R189): Lane shift left by an immediate. -/
  | vshli (d : BitVec 6) (a : BitVec 6) (m : BitVec 3) (n : BitVec 5)
  /-- VSHRI (R189): Lane logical shift right by an immediate. -/
  | vshri (d : BitVec 6) (a : BitVec 6) (m : BitVec 3) (n : BitVec 5)
  /-- VSRAI (R189): Lane arithmetic shift right by an immediate. -/
  | vsrai (d : BitVec 6) (a : BitVec 6) (m : BitVec 3) (n : BitVec 5)
  /-- VMOVS (R188): Broadcasts scalar sb[31:0] to lanes. -/
  | vmovs (d : BitVec 6) (s : BitVec 5) (m : BitVec 3)
  /-- VLANE (R188): Writes each lane's number. -/
  | vlane (d : BitVec 6) (m : BitVec 3)
  /-- VMOVI (R188): Writes a sign-extended 9-bit immediate to lanes. -/
  | vmovi (d : BitVec 6) (m : BitVec 3) (i : BitVec 9)
  /-- VFADD_F32 (R193): FP32 lane add, RNE. -/
  | vfaddF32 (d : BitVec 6) (a : BitVec 6) (b : BitVec 6) (m : BitVec 3)
  /-- VFADD_F16X2 (R193): Paired FP16 add. -/
  | vfaddF16X2 (d : BitVec 6) (a : BitVec 6) (b : BitVec 6) (m : BitVec 3)
  /-- VFSUB_F32 (R193): FP32 lane subtract. -/
  | vfsubF32 (d : BitVec 6) (a : BitVec 6) (b : BitVec 6) (m : BitVec 3)
  /-- VFSUB_F16X2 (R193): Paired FP16 subtract. -/
  | vfsubF16X2 (d : BitVec 6) (a : BitVec 6) (b : BitVec 6) (m : BitVec 3)
  /-- VFMUL_F32 (R193): FP32 lane multiply. -/
  | vfmulF32 (d : BitVec 6) (a : BitVec 6) (b : BitVec 6) (m : BitVec 3)
  /-- VFMUL_F16X2 (R193): Paired FP16 multiply. -/
  | vfmulF16X2 (d : BitVec 6) (a : BitVec 6) (b : BitVec 6) (m : BitVec 3)
  /-- VFMA_F32 (R193): FP32 fused multiply-add with vd addend. -/
  | vfmaF32 (d : BitVec 6) (a : BitVec 6) (b : BitVec 6) (m : BitVec 3)
  /-- VFMA_F16X2 (R193): Paired FP16 fused multiply-add. -/
  | vfmaF16X2 (d : BitVec 6) (a : BitVec 6) (b : BitVec 6) (m : BitVec 3)
  /-- VFMS_F32 (R193): FP32 fused a*b - d. -/
  | vfmsF32 (d : BitVec 6) (a : BitVec 6) (b : BitVec 6) (m : BitVec 3)
  /-- VFMS_F16X2 (R193): Paired FP16 fused a*b - d. -/
  | vfmsF16X2 (d : BitVec 6) (a : BitVec 6) (b : BitVec 6) (m : BitVec 3)
  /-- VFNMA_F32 (R193): FP32 fused d - a*b. -/
  | vfnmaF32 (d : BitVec 6) (a : BitVec 6) (b : BitVec 6) (m : BitVec 3)
  /-- VFNMA_F16X2 (R193): Paired FP16 fused d - a*b. -/
  | vfnmaF16X2 (d : BitVec 6) (a : BitVec 6) (b : BitVec 6) (m : BitVec 3)
  /-- VFMIN_F32 (R194): FP32 minimumNumber. -/
  | vfminF32 (d : BitVec 6) (a : BitVec 6) (b : BitVec 6) (m : BitVec 3)
  /-- VFMAX_F32 (R194): FP32 maximumNumber. -/
  | vfmaxF32 (d : BitVec 6) (a : BitVec 6) (b : BitVec 6) (m : BitVec 3)
  /-- VFMIN_F16X2 (R194): Paired FP16 minimumNumber. -/
  | vfminF16X2 (d : BitVec 6) (a : BitVec 6) (b : BitVec 6) (m : BitVec 3)
  /-- VFMAX_F16X2 (R194): Paired FP16 maximumNumber. -/
  | vfmaxF16X2 (d : BitVec 6) (a : BitVec 6) (b : BitVec 6) (m : BitVec 3)
  /-- VFMAXL_F16 (R194): MaxL of value-index words. -/
  | vfmaxlF16 (d : BitVec 6) (a : BitVec 6) (b : BitVec 6) (m : BitVec 3)
  /-- VFMINL_F16 (R194): MinL of value-index words. -/
  | vfminlF16 (d : BitVec 6) (a : BitVec 6) (b : BitVec 6) (m : BitVec 3)
  /-- VFABS_F32 (R195): Clears the FP32 sign bit. -/
  | vfabsF32 (d : BitVec 6) (a : BitVec 6) (m : BitVec 3)
  /-- VFNEG_F32 (R195): Inverts the FP32 sign bit. -/
  | vfnegF32 (d : BitVec 6) (a : BitVec 6) (m : BitVec 3)
  /-- VFCOPYSIGN_F32 (R195): Copies the sign of vb onto va. -/
  | vfcopysignF32 (d : BitVec 6) (a : BitVec 6) (b : BitVec 6) (m : BitVec 3)
  /-- VFABS_F16X2 (R195): Clears both FP16 sign bits. -/
  | vfabsF16X2 (d : BitVec 6) (a : BitVec 6) (m : BitVec 3)
  /-- VFNEG_F16X2 (R195): Inverts both FP16 sign bits. -/
  | vfnegF16X2 (d : BitVec 6) (a : BitVec 6) (m : BitVec 3)
  /-- VFCOPYSIGN_F16X2 (R195): Copies both FP16 signs. -/
  | vfcopysignF16X2 (d : BitVec 6) (a : BitVec 6) (b : BitVec 6) (m : BitVec 3)
  /-- VFCMP_F32 (R196): FP32 lane compare into a mask register. -/
  | vfcmpF32 (d : BitVec 3) (a : BitVec 6) (b : BitVec 6) (m : BitVec 3) (c : BitVec 3)
  /-- VFRCP_F32 (R197): Table-defined FP32 reciprocal estimate. -/
  | vfrcpF32 (d : BitVec 6) (a : BitVec 6) (m : BitVec 3)
  /-- VFRSQ_F32 (R197): Table-defined FP32 reciprocal square-root estimate. -/
  | vfrsqF32 (d : BitVec 6) (a : BitVec 6) (m : BitVec 3)
  /-- VFRCP_F16X2 (R197): Paired FP16 reciprocal estimate. -/
  | vfrcpF16X2 (d : BitVec 6) (a : BitVec 6) (m : BitVec 3)
  /-- VFRSQ_F16X2 (R197): Paired FP16 reciprocal square-root estimate. -/
  | vfrsqF16X2 (d : BitVec 6) (a : BitVec 6) (m : BitVec 3)
  /-- VFDIV_F32 (R193): FP32 lane division. -/
  | vfdivF32 (d : BitVec 6) (a : BitVec 6) (b : BitVec 6) (m : BitVec 3)
  /-- VFSQRT_F32 (R193): FP32 lane square root. -/
  | vfsqrtF32 (d : BitVec 6) (a : BitVec 6) (m : BitVec 3)
  /-- VCVT (R199): Converts lanes by the pair code with the given or FMT rounding, stepping the vector generator under SR. -/
  | vcvt (d : BitVec 6) (a : BitVec 6) (p : BitVec 6) (m : BitVec 3) (r : BitVec 3)
  /-- VPACK_F16X2 (R201): Packs two FP32 values into FP16 halves. -/
  | vpackF16X2 (d : BitVec 6) (a : BitVec 6) (b : BitVec 6) (m : BitVec 3)
  /-- VPACK_BF16X2 (R201): Packs two FP32 values into BF16 halves. -/
  | vpackBf16x2 (d : BitVec 6) (a : BitVec 6) (b : BitVec 6) (m : BitVec 3)
  /-- VPACK_E2M1X (R202): Encodes one E2M1X block across the wave's lanes. -/
  | vpackE2M1X (d : BitVec 6) (a : BitVec 6) (m : BitVec 3)
  /-- VUNPKL_F16 (R201): Widens the low FP16 half to FP32. -/
  | vunpklF16 (d : BitVec 6) (a : BitVec 6) (m : BitVec 3)
  /-- VUNPKH_F16 (R201): Widens the high FP16 half to FP32. -/
  | vunpkhF16 (d : BitVec 6) (a : BitVec 6) (m : BitVec 3)
  /-- VUNPKL_BF16 (R201): Widens the low BF16 half to FP32. -/
  | vunpklBf16 (d : BitVec 6) (a : BitVec 6) (m : BitVec 3)
  /-- VUNPKH_BF16 (R201): Widens the high BF16 half to FP32. -/
  | vunpkhBf16 (d : BitVec 6) (a : BitVec 6) (m : BitVec 3)
  /-- SETFMT (R203): Writes the issuing fragment's FMT from sa. -/
  | setfmt (a : BitVec 5)
  /-- GETFMT (R203): Reads the issuing fragment's FMT into sd. -/
  | getfmt (d : BitVec 5)
  /-- VFCLASS_F32 (R198): Writes the FP32 class bit of each lane. -/
  | vfclassF32 (d : BitVec 6) (a : BitVec 6) (m : BitVec 3)
  /-- VFCLASS_F16X2 (R198): Writes the class bits of both FP16 halves. -/
  | vfclassF16X2 (d : BitVec 6) (a : BitVec 6) (m : BitVec 3)
  /-- VSHFL (R205): Reads va from the lane named by vb in each lane. -/
  | vshfl (d : BitVec 6) (a : BitVec 6) (b : BitVec 6) (m : BitVec 3)
  /-- VSHFLI_XOR (R205): Reads va from lane l XOR d. -/
  | vshfliXor (d : BitVec 6) (a : BitVec 6) (m : BitVec 3) (n : BitVec 5)
  /-- VSHFLI_UP (R205): Reads va from lane l - d. -/
  | vshfliUp (d : BitVec 6) (a : BitVec 6) (m : BitVec 3) (n : BitVec 5)
  /-- VSHFLI_DOWN (R205): Reads va from lane l + d. -/
  | vshfliDown (d : BitVec 6) (a : BitVec 6) (m : BitVec 3) (n : BitVec 5)
  /-- VBC (R205): Broadcasts va of lane sb[4:0]. -/
  | vbc (d : BitVec 6) (a : BitVec 6) (s : BitVec 5) (m : BitVec 3)
  /-- VBALLOT (R206): Sets mask bits of lanes whose va is non-zero. -/
  | vballot (d : BitVec 3) (a : BitVec 6) (m : BitVec 3)
  /-- VOTE_ALL (R207): Writes all ones when every lane of E has va non-zero. -/
  | voteAll (d : BitVec 3) (a : BitVec 6) (m : BitVec 3)
  /-- VOTE_ANY (R207): Writes all ones when some lane of E has va non-zero. -/
  | voteAny (d : BitVec 3) (a : BitVec 6) (m : BitVec 3)
  /-- VOTE_NONE (R207): Writes all ones when no lane of E has va non-zero. -/
  | voteNone (d : BitVec 3) (a : BitVec 6) (m : BitVec 3)
  /-- VOTE_UNI (R207): Writes all ones when every lane of E holds the same va. -/
  | voteUni (d : BitVec 3) (a : BitVec 6) (m : BitVec 3)
  /-- VFIRST (R205): Broadcasts va of the lowest lane of E. -/
  | vfirst (d : BitVec 6) (a : BitVec 6) (m : BitVec 3)
  /-- MAND (R208): Mask AND of two mask registers. -/
  | mand (d : BitVec 3) (a : BitVec 3) (b : BitVec 3)
  /-- MOR (R208): Mask OR. -/
  | mor (d : BitVec 3) (a : BitVec 3) (b : BitVec 3)
  /-- MXOR (R208): Mask XOR. -/
  | mxor (d : BitVec 3) (a : BitVec 3) (b : BitVec 3)
  /-- MNOT (R208): Mask NOT. -/
  | mnot (d : BitVec 3) (a : BitVec 3)
  /-- MANDN (R208): Mask ma AND NOT mb. -/
  | mandn (d : BitVec 3) (a : BitVec 3) (b : BitVec 3)
  /-- MMOVS (R209): Copies a mask register to a scalar. -/
  | mmovs (d : BitVec 5) (a : BitVec 3)
  /-- MMOVM (R209): Copies sa[31:0] to a mask register. -/
  | mmovm (d : BitVec 3) (s : BitVec 5)
  /-- MPOPC (R209): Counts the one bits of a mask register. -/
  | mpopc (d : BitVec 5) (a : BitVec 3)
  /-- VLDC (R217): Contiguous vector load with optional modulo and post-increment. -/
  | vldc (t : BitVec 6) (n : BitVec 4) (k : BitVec 3) (m : BitVec 3) (o : BitVec 4) (i : BitVec 4)
  /-- VSTC (R217): Contiguous vector store. -/
  | vstc (t : BitVec 6) (n : BitVec 4) (k : BitVec 3) (m : BitVec 3) (o : BitVec 4) (i : BitVec 4)
  /-- VLDG (R217): Gather load by per-lane byte offsets. -/
  | vldg (t : BitVec 6) (n : BitVec 4) (b : BitVec 6) (m : BitVec 3) (o : BitVec 4)
  /-- VSTG (R217): Scatter store by per-lane byte offsets. -/
  | vstg (t : BitVec 6) (n : BitVec 4) (b : BitVec 6) (m : BitVec 3) (o : BitVec 4)
  /-- VLDB (R217): Loads one word and broadcasts it to lanes. -/
  | vldb (t : BitVec 6) (n : BitVec 4) (k : BitVec 3) (m : BitVec 3) (o : BitVec 4) (i : BitVec 4)
  /-- SLD (R219): Scalar load of byte to dword, zero- or sign-extended. -/
  | sld (s : BitVec 5) (n : BitVec 4) (z : BitVec 2) (x : BitVec 1) (d : BitVec 11)
  /-- SST (R219): Scalar store of the low 8 to 64 bits. -/
  | sst (s : BitVec 5) (n : BitVec 4) (z : BitVec 2) (d : BitVec 11)
  /-- PRFC (R218): Prefetch hint with only a post-increment effect. -/
  | prfc (n : BitVec 4) (k : BitVec 3) (m : BitVec 3) (i : BitVec 4)
  /-- SPREC (R220): Loads a 32-byte pattern record into a pattern slot. -/
  | sprec (n : BitVec 4) (k : BitVec 3)
  /-- SPLD (R221): Loads a vector through a pattern slot and advances it. -/
  | spld (t : BitVec 6) (k : BitVec 3) (m : BitVec 3)
  /-- SPST (R221): Stores a vector through a pattern slot and advances it. -/
  | spst (t : BitVec 6) (k : BitVec 3) (m : BitVec 3)
  /-- ATOMV_ADD_I32 (R224): Per-lane atomic 32-bit add. -/
  | atomvAddI32 (o : BitVec 2) (t : BitVec 6) (a : BitVec 6) (n : BitVec 4) (s : BitVec 3) (r : BitVec 1)
  /-- ATOMV_ADD_F32 (R224): Per-lane atomic FP32 add. -/
  | atomvAddF32 (o : BitVec 2) (t : BitVec 6) (a : BitVec 6) (n : BitVec 4) (s : BitVec 3) (r : BitVec 1)
  /-- ATOMV_MIN_S32 (R224): Per-lane atomic signed minimum. -/
  | atomvMinS32 (o : BitVec 2) (t : BitVec 6) (a : BitVec 6) (n : BitVec 4) (s : BitVec 3) (r : BitVec 1)
  /-- ATOMV_MAX_S32 (R224): Per-lane atomic signed maximum. -/
  | atomvMaxS32 (o : BitVec 2) (t : BitVec 6) (a : BitVec 6) (n : BitVec 4) (s : BitVec 3) (r : BitVec 1)
  /-- ATOMV_MIN_U32 (R224): Per-lane atomic unsigned minimum. -/
  | atomvMinU32 (o : BitVec 2) (t : BitVec 6) (a : BitVec 6) (n : BitVec 4) (s : BitVec 3) (r : BitVec 1)
  /-- ATOMV_MAX_U32 (R224): Per-lane atomic unsigned maximum. -/
  | atomvMaxU32 (o : BitVec 2) (t : BitVec 6) (a : BitVec 6) (n : BitVec 4) (s : BitVec 3) (r : BitVec 1)
  /-- ATOMV_AND (R224): Per-lane atomic AND. -/
  | atomvAnd (o : BitVec 2) (t : BitVec 6) (a : BitVec 6) (n : BitVec 4) (s : BitVec 3) (r : BitVec 1)
  /-- ATOMV_OR (R224): Per-lane atomic OR. -/
  | atomvOr (o : BitVec 2) (t : BitVec 6) (a : BitVec 6) (n : BitVec 4) (s : BitVec 3) (r : BitVec 1)
  /-- ATOMV_XOR (R224): Per-lane atomic XOR. -/
  | atomvXor (o : BitVec 2) (t : BitVec 6) (a : BitVec 6) (n : BitVec 4) (s : BitVec 3) (r : BitVec 1)
  /-- ATOMV_XCHG (R224): Per-lane atomic exchange. -/
  | atomvXchg (o : BitVec 2) (t : BitVec 6) (a : BitVec 6) (n : BitVec 4) (s : BitVec 3) (r : BitVec 1)
  /-- ATOMV_CAS (R224): Per-lane atomic compare-and-swap with compare value in va+1. -/
  | atomvCas (o : BitVec 2) (t : BitVec 6) (a : BitVec 6) (n : BitVec 4) (s : BitVec 3) (r : BitVec 1)
  /-- ATOMV_MAXL_F16 (R224): Per-lane atomic MaxL. -/
  | atomvMaxlF16 (o : BitVec 2) (t : BitVec 6) (a : BitVec 6) (n : BitVec 4) (s : BitVec 3) (r : BitVec 1)
  /-- ATOMV_MINL_F16 (R224): Per-lane atomic MinL. -/
  | atomvMinlF16 (o : BitVec 2) (t : BitVec 6) (a : BitVec 6) (n : BitVec 4) (s : BitVec 3) (r : BitVec 1)
  /-- ATOMV_ADD_I64 (R224): Per-lane atomic 64-bit add on register pairs. -/
  | atomvAddI64 (o : BitVec 2) (t : BitVec 6) (a : BitVec 6) (n : BitVec 4) (s : BitVec 3) (r : BitVec 1)
  /-- ATOMS_ADD_I32 (R225): Scalar atomic 32-bit add. -/
  | atomsAddI32 (o : BitVec 2) (d : BitVec 5) (a : BitVec 5) (n : BitVec 4) (s : BitVec 3) (r : BitVec 1)
  /-- ATOMS_ADD_F32 (R225): Scalar atomic FP32 add. -/
  | atomsAddF32 (o : BitVec 2) (d : BitVec 5) (a : BitVec 5) (n : BitVec 4) (s : BitVec 3) (r : BitVec 1)
  /-- ATOMS_MIN_S32 (R225): Scalar atomic signed minimum. -/
  | atomsMinS32 (o : BitVec 2) (d : BitVec 5) (a : BitVec 5) (n : BitVec 4) (s : BitVec 3) (r : BitVec 1)
  /-- ATOMS_MAX_S32 (R225): Scalar atomic signed maximum. -/
  | atomsMaxS32 (o : BitVec 2) (d : BitVec 5) (a : BitVec 5) (n : BitVec 4) (s : BitVec 3) (r : BitVec 1)
  /-- ATOMS_MIN_U32 (R225): Scalar atomic unsigned minimum. -/
  | atomsMinU32 (o : BitVec 2) (d : BitVec 5) (a : BitVec 5) (n : BitVec 4) (s : BitVec 3) (r : BitVec 1)
  /-- ATOMS_MAX_U32 (R225): Scalar atomic unsigned maximum. -/
  | atomsMaxU32 (o : BitVec 2) (d : BitVec 5) (a : BitVec 5) (n : BitVec 4) (s : BitVec 3) (r : BitVec 1)
  /-- ATOMS_AND (R225): Scalar atomic AND. -/
  | atomsAnd (o : BitVec 2) (d : BitVec 5) (a : BitVec 5) (n : BitVec 4) (s : BitVec 3) (r : BitVec 1)
  /-- ATOMS_OR (R225): Scalar atomic OR. -/
  | atomsOr (o : BitVec 2) (d : BitVec 5) (a : BitVec 5) (n : BitVec 4) (s : BitVec 3) (r : BitVec 1)
  /-- ATOMS_XOR (R225): Scalar atomic XOR. -/
  | atomsXor (o : BitVec 2) (d : BitVec 5) (a : BitVec 5) (n : BitVec 4) (s : BitVec 3) (r : BitVec 1)
  /-- ATOMS_XCHG (R225): Scalar atomic exchange. -/
  | atomsXchg (o : BitVec 2) (d : BitVec 5) (a : BitVec 5) (n : BitVec 4) (s : BitVec 3) (r : BitVec 1)
  /-- ATOMS_CAS (R225): Scalar atomic compare-and-swap with compare value in s(a+1). -/
  | atomsCas (o : BitVec 2) (d : BitVec 5) (a : BitVec 5) (n : BitVec 4) (s : BitVec 3) (r : BitVec 1)
  /-- ATOMS_MAXL_F16 (R225): Scalar atomic MaxL. -/
  | atomsMaxlF16 (o : BitVec 2) (d : BitVec 5) (a : BitVec 5) (n : BitVec 4) (s : BitVec 3) (r : BitVec 1)
  /-- ATOMS_MINL_F16 (R225): Scalar atomic MinL. -/
  | atomsMinlF16 (o : BitVec 2) (d : BitVec 5) (a : BitVec 5) (n : BitVec 4) (s : BitVec 3) (r : BitVec 1)
  /-- ATOMS_ADD_I64 (R225): Scalar atomic 64-bit add. -/
  | atomsAddI64 (o : BitVec 2) (d : BitVec 5) (a : BitVec 5) (n : BitVec 4) (s : BitVec 3) (r : BitVec 1)
  /-- BINIT (R229): Initialises a barrier object's two words. -/
  | binit (n : BitVec 4) (b : BitVec 5) (w : BitVec 3)
  /-- BARV (R228): Arrives at a barrier and waits for the phase of its arrival. -/
  | barv (n : BitVec 4) (r : BitVec 1)
  /-- BARX (R228): Arrives at a barrier adding a byte count, without waiting. -/
  | barx (n : BitVec 4) (b : BitVec 5) (r : BitVec 1)
  /-- BTRY (R228): Tests whether a barrier phase has completed. -/
  | btry (d : BitVec 5) (n : BitVec 4) (b : BitVec 5)
  /-- BWAIT (R228): Waits until a barrier phase has completed. -/
  | bwait (n : BitVec 4) (b : BitVec 5)
  /-- WAITC (R232): Waits while a slice word fails a comparison. -/
  | waitc (n : BitVec 4) (b : BitVec 5) (c : BitVec 3) (w : BitVec 1)
  /-- FENCE (R226): Acquire and release fence at scope WAVE to DOMAIN. -/
  | fence (s : BitVec 3)
  /-- ACQ (R258): Acquires the lowest free run of accumulator banks. -/
  | acq (d : BitVec 5) (a : BitVec 5)
  /-- ACREL (R259): Releases owned banks after their compute instructions complete. -/
  | acrel (a : BitVec 5) (b : BitVec 5)
  /-- ACZERO (R269): Zeroes the selected rows of a tile. -/
  | aczero (h : BitVec 4) (s : BitVec 5) (m : BitVec 3)
  /-- ACRD (R269): Copies selected tile rows to the slice. -/
  | acrd (h : BitVec 4) (s : BitVec 5) (n : BitVec 4) (k : BitVec 3) (m : BitVec 3)
  /-- ACWR (R269): Copies slice bytes into selected tile rows. -/
  | acwr (h : BitVec 4) (s : BitVec 5) (n : BitVec 4) (k : BitVec 3) (m : BitVec 3)
  /-- ACCVT (R270): Converts selected tile rows to AFMT and writes them to the slice. -/
  | accvt (h : BitVec 4) (s : BitVec 5) (n : BitVec 4) (k : BitVec 3) (m : BitVec 3)
  /-- LDSW (R266): Loads the shadow weight plane from the slice. -/
  | ldsw (h : BitVec 4) (n : BitVec 4) (k : BitVec 3) (t : BitVec 1) (e : BitVec 1)
  /-- SWAPW (R267): Exchanges the active and shadow weight planes. -/
  | swapw (h : BitVec 4)
  /-- MMA (R268): Accumulates A rows times the bound plane into a tile. -/
  | mma (h : BitVec 4) (s : BitVec 5) (n : BitVec 4) (k : BitVec 3) (m : BitVec 3) (t : BitVec 1) (o : BitVec 1) (e : BitVec 1)
  /-- FWAIT (R275): Waits until a handle's operation completes. -/
  | fwait (h : BitVec 4)
  /-- FTEST (R276): Writes a handle's completion state to sd. -/
  | ftest (d : BitVec 5) (h : BitVec 4)
  /-- FCANCEL (R277): Marks a handle cancelled. -/
  | fcancel (h : BitVec 4)
  /-- FMOV (R278): Copies a handle. -/
  | fmov (d : BitVec 4) (a : BitVec 4)
  /-- FBIND (R278): Binds two handles into one that completes when both do. -/
  | fbind (d : BitVec 4) (a : BitVec 4)
  /-- DHSET (R290): Moves a buffer-table entry from FREE to FILLING with an expected count. -/
  | dhset (a : BitVec 5) (b : BitVec 5)
  /-- DHWAIT (R290): Waits until a buffer-table entry is FULL. -/
  | dhwait (a : BitVec 5)
  /-- DHGET (R290): Waits for FULL, moves the entry to DRAINING and returns the target. -/
  | dhget (d : BitVec 5) (a : BitVec 5)
  /-- DHREL (R290): Moves a DRAINING entry to FREE. -/
  | dhrel (a : BitVec 5)
  /-- WPTR (R292): Reads or awaits the write pointer of a copy operation. -/
  | wptr (d : BitVec 5) (h : BitVec 4) (b : BitVec 5)
  /-- CPYQ (R286): Queues a 64-byte engine packet on a channel. -/
  | cpyq (h : BitVec 4) (n : BitVec 4) (a : BitVec 5) (b : BitVec 5)
  /-- PUB (R289): Publishes the publishable pages of a range. -/
  | pub (n : BitVec 4) (b : BitVec 5)
  /-- OPBEG (R293): Opens an operator of a class. -/
  | opbeg (b : BitVec 5)
  /-- OPARG (R294): Adds an argument range to the open operator. -/
  | oparg (n : BitVec 4) (a : BitVec 5) (b : BitVec 5)
  /-- OPEND (R295): Closes the operator and submits its witness record. -/
  | opend (h : BitVec 4) (n : BitVec 4) (b : BitVec 5)
  /-- LNCH (R298): Launches a child grid from a launch record. -/
  | lnch (h : BitVec 4) (n : BitVec 4)
  /-- CHRD (R300): Reads the chorus count. -/
  | chrd (d : BitVec 5)
  /-- CHBASE (R300): Reads %base. -/
  | chbase (d : BitVec 5)
  /-- CHWAIT (R301): Waits until a chorus count is reached. -/
  | chwait (a : BitVec 5)
  /-- CHSLIP_HOLD (R302): Schedules a slip where one count lasts two cycles. -/
  | chslipHold (a : BitVec 5)
  /-- CHSLIP_SKIP (R302): Schedules a slip where one count lasts no cycle. -/
  | chslipSkip (a : BitVec 5)
  /-- TSEND (R303): Sends timed flits to a peer core's slice. -/
  | tsend (h : BitVec 4) (n : BitVec 4) (a : BitVec 5) (b : BitVec 5)
  /-- TRECV (R305): Checks at a count that expected flits have landed. -/
  | trecv (a : BitVec 5) (b : BitVec 5)
  /-- BARG (R231): Arrives at the grid-wide barrier and waits for all waves. -/
  | barg
  /-- FENCE_SC (R123): Drains the core, waits for the heartbeat tick and fences at DOMAIN in the single SC order. -/
  | fenceSc
  /-- FWAITC (R227): Waits until the far count is zero, ending the quantum when needed. -/
  | fwaitc
  /-- YIELD (R233): Switch point in L-mode; no effect in C-mode. -/
  | yield
  /-- QEND (R233): Ends the quantum after itself in L-mode. -/
  | qend
  /-- DISPRE (R72): Opens a window exempting the wave from forced save. -/
  | dispre
  /-- ENPRE (R233): Closes an open DISPRE window. -/
  | enpre
  /-- EXIT (R234): Ends the fragment's lanes, frees its slot and ends the wave when last. -/
  | exit
  /-- RPT (R307): Marks a restart epoch and writes a restart record in C-mode. -/
  | rpt (b : BitVec 5)
  /-- TRAP (R244): Retires and raises trap code 0x80 plus imm7. -/
  | trap (c : BitVec 7)
  /-- ERET (R245): Returns from handler state. -/
  | eret
  /-- BRK (R246): Causes a debug stop when a session holds the tree. -/
  | brk
  /-- SIGCK (R247): Compares the fragment's roll-call signature with sa. -/
  | sigck (a : BitVec 5)
  /-- UDF (R142): Permanently undefined major that raises ILLOP. -/
  | udf
  /-- RESULT_LAND (R62): A register result lands at the end of the issue slot its latency gives. -/
  | resultLand
  /-- FAR_VALUE_LAND (R213): A far load or atomic value lands, clearing the pending register and decrementing %fc. -/
  | farValueLand (acc : Nat)
  /-- FAR_ACCESS_EFFECT (R119): In C-mode a far or timed access takes effect at its effect cycle. -/
  | farAccessEffect (acc : Nat)
  /-- QUANTUM_COMMIT (R45): Once every live wave has closed quantum q, its cross-core effects apply in order. -/
  | quantumCommit (tree : Nat)
  /-- PUB_EXCHANGE (R111): Current and shadow frames exchange and VER advances for every observer. -/
  | pubExchange (desk lo len : Nat)
  /-- HEARTBEAT_TICK (R123): A drained FENCE.SC proceeds at the next multiple of 4,096 counts. -/
  | heartbeatTick (wid : Nat)
  /-- TEAM_START (R37): A team starts in a freed residency slot and receives its .slice copy. -/
  | teamStart (tree grid core : Nat)
  /-- GRID_RETIRE (R33): A grid retires when its waves, engine operations and children are done. -/
  | gridRetire (tree grid : Nat)
  /-- QUANTUM_TIME_LIMIT (R50): A wait or lack of progress beyond the desk limit stops the tree with QTIME. -/
  | quantumTimeLimit (tree : Nat)
  /-- PREEMPTION_TIME_LIMIT (R69): Teams still resident at the limit escalate to a forced save. -/
  | preemptionTimeLimit (tree : Nat)
  /-- DISPRE_WINDOW_LAPSE (R72): A DISPRE window lapses after 2^20 instructions, with a fault-record entry. -/
  | dispreWindowLapse (wid : Nat)
  /-- OPERATOR_WINDOW_LAPSE (R297): An open operator lapses after 2^20 instructions and is discarded. -/
  | operatorWindowLapse (wid : Nat)
  /-- CONTEXT_SAVE (R378): Once every wave has stopped, the tree's sealed context image is written to the save area. -/
  | contextSave (tree : Nat)
  /-- AUTO_RESUME (R378): The device resumes a saved tree when its cores are free. -/
  | autoResume (tree : Nat)
  /-- TREE_FAULT_STOP (R242): After every wave has stopped, fault entries are written and the launch completes with the code. -/
  | treeFaultStop (tree : Nat)
  /-- MATRIX_OP_COMPLETE (R272): A matrix instruction completes and its handle becomes complete. -/
  | matrixOpComplete (core op : Nat)
  /-- LDSW_LOAD_START (R266): A deferred L-mode LDSW starts once its plane stops draining. -/
  | ldswLoadStart (core op : Nat)
  /-- COPY (R312): A channel starts a COPY packet, with optional gather and clipping. -/
  | copy (chan : Nat)
  /-- FILL (R312): A channel starts a FILL packet writing a repeated element. -/
  | fill (chan : Nat)
  /-- LEVEL (R323): A channel starts a level transfer by stencil table, rounded once. -/
  | level (chan : Nat)
  /-- COLL (R326): A channel starts a collective step combining into the destination. -/
  | coll (chan : Nat)
  /-- SECTOR_DELIVERY (R314): A destination sector lands, advancing the write pointer, buffer entry and barrier. -/
  | sectorDelivery (chan : Nat)
  /-- SHARED_QUEUE_CONSUME (R319): A channel consumes the next shared-queue slot whose phase matches. -/
  | sharedQueueConsume (chan desk descr : Nat)
  /-- TSEND_FLIT_SEND (R304): At its count a flit reads its source and is sent. -/
  | tsendFlitSend (send idx : Nat)
  /-- TRECV_CHECK (R305): At count r TRECV subtracts LEN or raises TLATE. -/
  | trecvCheck (wid : Nat)
  /-- SLIP (R302): The slip count passes, lasting two cycles or none. -/
  | slip
  /-- DRIFT_MEASUREMENT (R331): Every 2^22 cycles the device measures its offset into %drift. -/
  | driftMeasurement (value : BitVec 64)
  /-- PARENT_PORT_FAILURE (R330): The primary parent port fails and the device switches to the secondary. -/
  | parentPortFailure
  /-- FLIT_ARRIVAL (R338): A flit arrives on an Eft port, is checked and forwarded or accepted. -/
  | flitArrival (port : Nat) (flit : BitVec 512) (check : BitVec 32)
  /-- FLIT_EFFECT (R339): A timed flit takes effect in the peer slice and counts to its tag. -/
  | flitEffect (flit : Nat)
  /-- ABORT_TOKEN (R344): A first abort token of the attempt is forwarded and stops the task's grid. -/
  | abortToken (att count : Nat)
  /-- EPOCH_REPORT (R345): The lead receives a device's least epoch and abort count. -/
  | epochReport (dev epoch count : Nat)
  /-- RESTART_DEADLINE (R345): At A* plus 40,960 the lead sends the restart token or a failure token. -/
  | restartDeadline
  /-- RESTART_TOKEN (R346): Each device restores epoch e* and sets the new base. -/
  | restartToken (att epoch count : Nat)
  /-- ACK (R340): A cumulative acknowledgement releases held untimed runs. -/
  | ack (dev chan seq : Nat)
  /-- FLOW_RESEND_TIMEOUT (R340): After 16,384 cycles without ACK unacknowledged runs are resent; after 8 the flow fails. -/
  | flowResendTimeout (chan dev : Nat)
  /-- WRITE (R342): An untimed run writes its payload at DEST. -/
  | runWrite (src chan seq dest : Nat) (group att exp : Nat) (payload : List Byte)
  /-- SUM_F32 (R342): An untimed run combines FP32 words at DEST. -/
  | runSumF32 (src chan seq dest : Nat) (group att exp : Nat) (payload : List Byte)
  /-- SUM_I32 (R342): An untimed run combines INT32 words at DEST. -/
  | runSumI32 (src chan seq dest : Nat) (group att exp : Nat) (payload : List Byte)
  /-- MAX_S32 (R342): An untimed run takes signed maxima at DEST. -/
  | runMaxS32 (src chan seq dest : Nat) (group att exp : Nat) (payload : List Byte)
  /-- ADD_I64 (R342): An untimed run adds to a dword and returns the old value. -/
  | runAddI64 (src chan seq dest : Nat) (operand : BitVec 64)
  /-- ATOMREPLY (R342): Returns the old value of an ADD.I64 run. -/
  | atomreply (src chan seq : Nat) (old : BitVec 64)
  /-- RELEASE_NOTICE (R366): A release notice satisfies a remote dependency. -/
  | releaseNotice (src exp : Nat)
  /-- REVOKE_NOTICE (R366): A revocation notice revokes dependent versions. -/
  | revokeNotice (src exp : Nat)
  /-- CHORUS_TASK_DISPATCH (R376): Once NMEM member slots have started the task is dispatched with a base. -/
  | chorusTaskDispatch (ctask : Nat)
  /-- CHORUS_MEMBER_TIMEOUT (R376): A member failing to start within the limit completes every member slot with status 1. -/
  | chorusMemberTimeout (ctask : Nat)
  /-- OPERATOR_ACCEPT (R350): OPEND takes effect; the Proctor records versions, forms the record and draws the seed. -/
  | operatorAccept (op : Nat)
  /-- GRADE (R358): The Proctor grades an operator and posts the grade. -/
  | grade (op : Nat)
  /-- GRADE_DEADLINE (R357): An operator ungraded at its deadline is posted ABSTAIN. -/
  | gradeDeadline (op : Nat)
  /-- REPLAY_START (R362): After the original tree retires, its replay starts on another die. -/
  | replayStart (tree : Nat)
  /-- SLOT_FETCH (R371): The Registrar fetches the next queue slot whose valid byte matches. -/
  | slotFetch (desk queue : Nat)
  /-- SLOT_RECHECK (R381): A slot below K without a matching valid byte is read again every 1 microsecond. -/
  | slotRecheck (desk queue : Nat)
  /-- QUEUE_SWEEP (R381): Every queue is swept once per millisecond. -/
  | queueSweep
  /-- NOP (R373): NOP slot, completing at start. -/
  | slotNop (desk queue index : Nat)
  /-- LAUNCH (R375): LAUNCH slot starting a launch tree. -/
  | slotLaunch (desk queue index : Nat)
  /-- LAUNCH_IND (R377): Runs a prologue and launches, cancels or repeats. -/
  | slotLaunchInd (desk queue index : Nat)
  /-- ENGINE (R373): ENGINE slot submitting a packet to a channel. -/
  | slotEngine (desk queue index : Nat)
  /-- SQREG (R373): Registers or withdraws a shared-queue descriptor. -/
  | slotSqreg (desk queue index : Nat)
  /-- REGRADE (R373): Requests a regrade of an ABSTAIN operator. -/
  | slotRegrade (desk queue index : Nat)
  /-- RESUME (R378): Resumes a tree from a host-placed context image. -/
  | slotResume (desk queue index : Nat)
  /-- HALT (R383): Debug command halting the held tree. -/
  | dbgHalt (desk queue index : Nat)
  /-- CONTINUE (R383): Debug command continuing a stopped tree. -/
  | dbgContinue (desk queue index : Nat)
  /-- STEP (R250): Debug command single-stepping one wave and writing a report. -/
  | dbgStep (desk queue index : Nat)
  /-- DELIVER (R249): Debug command delivering the pending fault. -/
  | dbgDeliver (desk queue index : Nat)
  /-- READCTX (R383): Debug command reading the held tree's context image. -/
  | dbgReadctx (desk queue index : Nat)
  /-- WRITECTX (R383): Debug command writing the held tree's context image. -/
  | dbgWritectx (desk queue index : Nat)
  /-- OPEN (R383): Debug command making the session hold a tree. -/
  | dbgOpen (desk queue index : Nat)
  /-- CLOSE (R383): Debug command ending the session. -/
  | dbgClose (desk queue index : Nat)
  /-- FAULTS (R383): Debug command copying the desk's fault-record entries. -/
  | dbgFaults (desk queue index : Nat)
  /-- KICK (R381): Host write of a queue's producer index, waking the Registrar. -/
  | kick (desk queue : Nat) (value : BitVec 64)
  /-- GRADECONS (R382): Host write of grade entries read, freeing grade-queue room. -/
  | gradecons (desk : Nat) (value : BitVec 64)
  /-- HOST_RDMA_READ (R384): Host RDMA READ of translated memory or the control window. -/
  | hostRdmaRead (desk port va len : Nat)
  /-- HOST_RDMA_WRITE (R384): Host RDMA WRITE to translated memory or a control-window register without its own row. -/
  | hostRdmaWrite (desk port va : Nat) (data : List Byte)
  /-- QFETCH (R385): Registrar copies the next valid slot of a hardware queue. -/
  | qfetch (d : BitVec 5) (s : BitVec 5) (t : BitVec 5)
  /-- XAEDQ_BFX (R385): Zero-extending bit-field extract on a Registrar hart. -/
  | xaedqBfx (d : BitVec 5) (s : BitVec 5) (t : BitVec 5)
  /-- XAEDQ_BFX_S (R385): Sign-extending bit-field extract on a Registrar hart. -/
  | xaedqBfxS (d : BitVec 5) (s : BitVec 5) (t : BitVec 5)
  /-- SIGWAIT (R385): Waits for a pending signal line and clears it. -/
  | sigwait (d : BitVec 5) (s : BitVec 5) (t : BitVec 5)
  /-- DISPATCH (R385): Hands a LAUNCH body to the compute dies. -/
  | dispatch (d : BitVec 5) (s : BitVec 5) (t : BitVec 5)
  /-- QUOTE (R409): Management request for a doubly signed quote. -/
  | quote (tag : BitVec 16) (body : List Byte)
  /-- NONCE (R411): Management request for a fresh unlock nonce. -/
  | nonce (tag : BitVec 16) (body : List Byte)
  /-- UNLOCK (R411): Debug-unlock token processing in six ordered steps. -/
  | unlock (tag : BitVec 16) (body : List Byte)
  /-- PROVISION (R406): Fuses device ID and authority hashes and generates keys. -/
  | provision (tag : BitVec 16) (body : List Byte)
  /-- LIFECYCLE (R406): Moves the lifecycle state forward under a signed token. -/
  | lifecycle (tag : BitVec 16) (body : List Byte)
  /-- DESKNEW (R369): Creates a desk with its parameters and wrapped tenant key. -/
  | desknew (tag : BitVec 16) (body : List Byte)
  /-- DESKSET (R369): Changes desk parameters. -/
  | deskset (tag : BitVec 16) (body : List Byte)
  /-- DESKDEL (R369): Destroys a desk. -/
  | deskdel (tag : BitVec 16) (body : List Byte)
  /-- DOMJOIN (R328): Joins a chorus domain with device number, parents and routes. -/
  | domjoin (tag : BitVec 16) (body : List Byte)
  /-- DOMLEAVE (R328): Leaves the chorus domain. -/
  | domleave (tag : BitVec 16) (body : List Byte)
  /-- SHUTDOWN (R28): Orderly shutdown: drain or save trees and write counters. -/
  | shutdown (tag : BitVec 16) (body : List Byte)
  /-- FAULTRD (R390): Reads fault-record entries. -/
  | faultrd (tag : BitVec 16) (body : List Byte)
  /-- LOGRD (R392): Reads logbook bytes. -/
  | logrd (tag : BitVec 16) (body : List Byte)
  /-- FWCHUNK (R386): Delivers a chunk of a firmware image. -/
  | fwchunk (tag : BitVec 16) (body : List Byte)
  /-- FWCOMMIT (R386): Verifies and stores a delivered firmware image. -/
  | fwcommit (tag : BitVec 16) (body : List Byte)
  /-- RECEIPT (R404): Produces a release receipt for a releasable version. -/
  | receipt (tag : BitVec 16) (body : List Byte)
  /-- POWER_ON (R29): Proctor leaves reset, verifies firmware and releases the other dies. -/
  | powerOn
  /-- POWER_REMOVAL (R27): Removal of the 48 V input loses all volatile state. -/
  | powerRemoval
  /-- UNDERVOLTAGE_TURNOFF (R23): Input below 40 V for 1 ms turns the package off. -/
  | undervoltageTurnoff
  /-- SUPPLY_DROOP (R392): Supply below 44 V for at least 1 microsecond is counted. -/
  | supplyDroop
  /-- POWER_MEASUREMENT (R25): Package power is measured each 1 ms window. -/
  | powerMeasurement (milliwatts : Nat)
  /-- THROTTLE_POINT (R26): A die reaching its throttle point is gated or forces saves. -/
  | throttlePoint (unit : Nat)
  /-- THROTTLE_RECOVERY (R26): A die 5 degrees below its throttle point returns to full rate. -/
  | throttleRecovery (unit : Nat)
  /-- TRIP_POINT (R26): A die reaching its trip point turns the package off. -/
  | tripPoint (unit : Nat)
  /-- LOGBOOK_WRITE (R28): Counters are written to the non-volatile store every 60 s. -/
  | logbookWrite
  /-- INFIELD_TEST_DUE (R393): A core's structural self-test falls due and draining begins. -/
  | infieldTestDue (die place : Nat)
  /-- INFIELD_TEST_COMPLETE (R397): The 1.5 ms test ends; context restored or failure handled. -/
  | infieldTestComplete (die place : Nat) (failed : Bool) (block : Nat)
  /-- FORCED_SAVE_SECOND_PERIOD (R71): If no common restart epoch comes within a second period of the time limit, the C-mode grid is rewound to its last common restart epoch and saved there. -/
  | forcedSaveSecondPeriod (tree : Nat)
  /-- TEST_OVERDUE (R395): When a deferred in-field test becomes overdue by 50 minutes, the Proctor requests a forced save of the chorus task at its next restart epoch. -/
  | testOverdue (die place : Nat)
  deriving DecidableEq, Repr

end Sys2Proof
end

