-- ==== Sys2Proof/WellFormed.lean ====
section
/-! DEFINITION. Which instructions have legal fields: the limits that an encoding states beyond its fixed bits (09_encoding.md
R136, R138, R140 to R142, and the entries named at each check). An encoding that breaks one raises ILLOP. -/

namespace Sys2Proof

/-- State registers of Tables 11-7 and 14-2 that MFS reads. -/
def stateRegReadable (n : Nat) : Bool :=
  decide (n ≤ 0x009) || n == 0x010 || n == 0x011 || (decide (0x020 ≤ n) && decide (n ≤ 0x022)) ||
    (decide (0x040 ≤ n) && decide (n ≤ 0x045))

/-- State registers of Tables 11-7 and 14-2 that MTS writes: those marked RW. -/
def stateRegWritable (n : Nat) : Bool :=
  n == 0x010 || n == 0x011 || n == 0x042 || n == 0x043 || n == 0x044

/-- The ord field of a load (Table 9-5, R138): .RLX with no scope, or .ACQ. -/
def loadOrd (o : Nat) : Bool := o == 0 || o / 4 == 1

/-- The ord field of a store (Table 9-5, R138): .RLX with no scope, or .REL. -/
def storeOrd (o : Nat) : Bool := o == 0 || o / 4 == 2

/-- An instruction whose fields break no limit of its encoding (R142). -/
def Instr.wellFormed : Instr → Bool
  | .add _ _ _ => true
  | .sub _ _ _ => true
  | .mul _ _ _ => true
  | .mulh _ _ _ => true
  | .mulhu _ _ _ => true
  | .div _ _ _ => true
  | .divu _ _ _ => true
  | .rem _ _ _ => true
  | .remu _ _ _ => true
  | .and _ _ _ => true
  | .or _ _ _ => true
  | .xor _ _ _ => true
  | .andn _ _ _ => true
  | .shl _ _ _ => true
  | .shr _ _ _ => true
  | .sra _ _ _ => true
  | .shli _ _ _ => true
  | .shri _ _ _ => true
  | .srai _ _ _ => true
  | .slt _ _ _ => true
  | .sltu _ _ _ => true
  | .min _ _ _ => true
  | .max _ _ _ => true
  | .minu _ _ _ => true
  | .maxu _ _ _ => true
  | .clz _ _ => true
  | .ctz _ _ => true
  | .popc _ _ => true
  | .bfx _ _ p w _ => p.toNat + w.toNat + 1 ≤ 64
  | .bfi _ _ p w => p.toNat + w.toNat + 1 ≤ 64
  | .sel _ _ _ _ => true
  | .addi _ _ _ => true
  | .andi _ _ _ => true
  | .ori _ _ _ => true
  | .xori _ _ _ => true
  | .lih _ _ => true
  | .adda _ _ _ => true
  | .mova _ _ _ => true
  | .movsa _ _ _ => true
  | .setk _ _ => true
  | .getk _ _ => true
  | .mfs _ n => stateRegReadable n.toNat
  | .mts _ n => stateRegWritable n.toNat
  | .bc _ _ c _ => c.toNat < 6
  | .j _ => true
  | .jal _ => true
  | .jr _ => true
  | .bv _ _ _ => true
  | .jtv _ _ _ _ => true
  | .loopl _ o => 2 ≤ o.toInt
  | .loopb _ o => 2 ≤ o.toInt
  | .vmov _ _ => true
  | .vaddI32x16 _ _ => true
  | .vsubI32x16 _ _ => true
  | .vmulI32x16 _ _ => true
  | .vandx16 _ _ => true
  | .vorx16 _ _ => true
  | .vxorx16 _ _ => true
  | .vshlI32x16 _ _ => true
  | .vsraI32x16 _ _ => true
  | .vminS32x16 _ _ => true
  | .vmaxS32x16 _ _ => true
  | .vfaddF32x16 _ _ => true
  | .vfsubF32x16 _ _ => true
  | .vfmulF32x16 _ _ => true
  | .vfminF32x16 _ _ => true
  | .vfmaxF32x16 _ _ => true
  | .vaddI32 _ _ _ _ => true
  | .vaddS32 _ _ _ _ => true
  | .vaddU32 _ _ _ _ => true
  | .vsubI32 _ _ _ _ => true
  | .vsubS32 _ _ _ _ => true
  | .vsubU32 _ _ _ _ => true
  | .vmulI32 _ _ _ _ => true
  | .vmulhS32 _ _ _ _ => true
  | .vmulhU32 _ _ _ _ => true
  | .vmadI32 _ _ _ _ => true
  | .vand _ _ _ _ => true
  | .vor _ _ _ _ => true
  | .vxor _ _ _ _ => true
  | .vandn _ _ _ _ => true
  | .vshlI32 _ _ _ _ => true
  | .vshrI32 _ _ _ _ => true
  | .vsraI32 _ _ _ _ => true
  | .vminS32 _ _ _ _ => true
  | .vmaxS32 _ _ _ _ => true
  | .vminU32 _ _ _ _ => true
  | .vmaxU32 _ _ _ _ => true
  | .vabsS32 _ _ _ => true
  | .vnegI32 _ _ _ => true
  | .vsel _ _ _ _ => true
  | .vcmpS32 _ _ _ _ c => c.toNat < 6
  | .vcmpU32 _ _ _ _ c => c.toNat < 6
  | .vpopc _ _ _ => true
  | .vclz _ _ _ => true
  | .vbfxU32 _ _ _ _ => true
  | .vbfxS32 _ _ _ _ => true
  | .vaddiI32 _ _ _ _ => true
  | .vshli _ _ _ _ => true
  | .vshri _ _ _ _ => true
  | .vsrai _ _ _ _ => true
  | .vmovs _ _ _ => true
  | .vlane _ _ => true
  | .vmovi _ _ _ => true
  | .vfaddF32 _ _ _ _ => true
  | .vfaddF16X2 _ _ _ _ => true
  | .vfsubF32 _ _ _ _ => true
  | .vfsubF16X2 _ _ _ _ => true
  | .vfmulF32 _ _ _ _ => true
  | .vfmulF16X2 _ _ _ _ => true
  | .vfmaF32 _ _ _ _ => true
  | .vfmaF16X2 _ _ _ _ => true
  | .vfmsF32 _ _ _ _ => true
  | .vfmsF16X2 _ _ _ _ => true
  | .vfnmaF32 _ _ _ _ => true
  | .vfnmaF16X2 _ _ _ _ => true
  | .vfminF32 _ _ _ _ => true
  | .vfmaxF32 _ _ _ _ => true
  | .vfminF16X2 _ _ _ _ => true
  | .vfmaxF16X2 _ _ _ _ => true
  | .vfmaxlF16 _ _ _ _ => true
  | .vfminlF16 _ _ _ _ => true
  | .vfabsF32 _ _ _ => true
  | .vfnegF32 _ _ _ => true
  | .vfcopysignF32 _ _ _ _ => true
  | .vfabsF16X2 _ _ _ => true
  | .vfnegF16X2 _ _ _ => true
  | .vfcopysignF16X2 _ _ _ _ => true
  | .vfcmpF32 _ _ _ _ _ => true
  | .vfrcpF32 _ _ _ => true
  | .vfrsqF32 _ _ _ => true
  | .vfrcpF16X2 _ _ _ => true
  | .vfrsqF16X2 _ _ _ => true
  | .vfdivF32 _ _ _ _ => true
  | .vfsqrtF32 _ _ _ => true
  | .vcvt _ _ p _ r => p.toNat < 16 && decide (r.toNat < 6)
  | .vpackF16X2 _ _ _ _ => true
  | .vpackBf16x2 _ _ _ _ => true
  | .vpackE2M1X _ _ _ => true
  | .vunpklF16 _ _ _ => true
  | .vunpkhF16 _ _ _ => true
  | .vunpklBf16 _ _ _ => true
  | .vunpkhBf16 _ _ _ => true
  | .setfmt _ => true
  | .getfmt _ => true
  | .vfclassF32 _ _ _ => true
  | .vfclassF16X2 _ _ _ => true
  | .vshfl _ _ _ _ => true
  | .vshfliXor _ _ _ _ => true
  | .vshfliUp _ _ _ _ => true
  | .vshfliDown _ _ _ _ => true
  | .vbc _ _ _ _ => true
  | .vballot _ _ _ => true
  | .voteAll _ _ _ => true
  | .voteAny _ _ _ => true
  | .voteNone _ _ _ => true
  | .voteUni _ _ _ => true
  | .vfirst _ _ _ => true
  | .mand _ _ _ => true
  | .mor _ _ _ => true
  | .mxor _ _ _ => true
  | .mnot _ _ => true
  | .mandn _ _ _ => true
  | .mmovs _ _ => true
  | .mmovm _ _ => true
  | .mpopc _ _ => true
  | .vldc _ _ _ _ o _ => loadOrd o.toNat
  | .vstc _ _ _ _ o _ => storeOrd o.toNat
  | .vldg _ _ _ _ o => loadOrd o.toNat
  | .vstg _ _ _ _ o => storeOrd o.toNat
  | .vldb _ _ _ _ o _ => loadOrd o.toNat
  | .sld _ _ z x _ => !(z.toNat == 3 && x.toNat == 1)
  | .sst _ _ _ _ => true
  | .prfc _ _ _ _ => true
  | .sprec _ _ => true
  | .spld _ _ _ => true
  | .spst _ _ _ => true
  | .atomvAddI32 _ _ _ _ s _ => decide (s.toNat < 5)
  | .atomvAddF32 _ _ _ _ s _ => decide (s.toNat < 5)
  | .atomvMinS32 _ _ _ _ s _ => decide (s.toNat < 5)
  | .atomvMaxS32 _ _ _ _ s _ => decide (s.toNat < 5)
  | .atomvMinU32 _ _ _ _ s _ => decide (s.toNat < 5)
  | .atomvMaxU32 _ _ _ _ s _ => decide (s.toNat < 5)
  | .atomvAnd _ _ _ _ s _ => decide (s.toNat < 5)
  | .atomvOr _ _ _ _ s _ => decide (s.toNat < 5)
  | .atomvXor _ _ _ _ s _ => decide (s.toNat < 5)
  | .atomvXchg _ _ _ _ s _ => decide (s.toNat < 5)
  | .atomvCas _ _ a _ s _ => decide (s.toNat < 5) && decide (a.toNat < 63)
  | .atomvMaxlF16 _ _ _ _ s _ => decide (s.toNat < 5)
  | .atomvMinlF16 _ _ _ _ s _ => decide (s.toNat < 5)
  | .atomvAddI64 _ t a _ s _ => decide (s.toNat < 5) && a.toNat % 2 == 0 && t.toNat % 2 == 0
  | .atomsAddI32 _ _ _ _ s _ => decide (s.toNat < 5)
  | .atomsAddF32 _ _ _ _ s _ => decide (s.toNat < 5)
  | .atomsMinS32 _ _ _ _ s _ => decide (s.toNat < 5)
  | .atomsMaxS32 _ _ _ _ s _ => decide (s.toNat < 5)
  | .atomsMinU32 _ _ _ _ s _ => decide (s.toNat < 5)
  | .atomsMaxU32 _ _ _ _ s _ => decide (s.toNat < 5)
  | .atomsAnd _ _ _ _ s _ => decide (s.toNat < 5)
  | .atomsOr _ _ _ _ s _ => decide (s.toNat < 5)
  | .atomsXor _ _ _ _ s _ => decide (s.toNat < 5)
  | .atomsXchg _ _ _ _ s _ => decide (s.toNat < 5)
  | .atomsCas _ _ a _ s _ => decide (s.toNat < 5) && decide (a.toNat < 31)
  | .atomsMaxlF16 _ _ _ _ s _ => decide (s.toNat < 5)
  | .atomsMinlF16 _ _ _ _ s _ => decide (s.toNat < 5)
  | .atomsAddI64 _ _ _ _ s _ => decide (s.toNat < 5)
  | .binit _ _ w => decide (1 ≤ w.toNat) && decide (w.toNat ≤ 4)
  | .barv _ _ => true
  | .barx _ _ _ => true
  | .btry _ _ _ => true
  | .bwait _ _ => true
  | .barg => true
  | .waitc _ _ c _ => c.toNat < 6
  | .fence s => s.toNat < 5
  | .fenceSc => true
  | .fwaitc => true
  | .yield => true
  | .qend => true
  | .dispre => true
  | .enpre => true
  | .exit => true
  | .acq _ _ => true
  | .acrel _ _ => true
  | .aczero h _ _ => h.toNat ≠ 0
  | .acrd h _ _ _ _ => h.toNat ≠ 0
  | .acwr h _ _ _ _ => h.toNat ≠ 0
  | .accvt h _ _ _ _ => h.toNat ≠ 0
  | .ldsw h n k t e => h.toNat ≠ 0 ∧ ¬(n.toNat = 0 ∧ k.toNat = 0 ∧ t.toNat = 0 ∧ e.toNat = 0)
  | .swapw h => h.toNat ≠ 0
  | .mma h _ _ _ _ _ _ _ => h.toNat ≠ 0
  | .fwait _ => true
  | .ftest _ _ => true
  | .fcancel _ => true
  | .fmov _ _ => true
  | .fbind _ _ => true
  | .dhset _ _ => true
  | .dhwait _ => true
  | .dhget _ _ => true
  | .dhrel _ => true
  | .wptr _ _ _ => true
  | .cpyq _ _ _ _ => true
  | .pub _ _ => true
  | .opbeg _ => true
  | .oparg _ _ _ => true
  | .opend _ _ _ => true
  | .lnch _ _ => true
  | .chrd _ => true
  | .chbase _ => true
  | .chwait _ => true
  | .chslipHold _ => true
  | .chslipSkip _ => true
  | .tsend _ _ _ _ => true
  | .trecv _ _ => true
  | .rpt _ => true
  | .trap _ => true
  | .eret => true
  | .brk => true
  | .sigck _ => true
  | .udf => true
  | .resultLand => true
  | .farValueLand _ => true
  | .farAccessEffect _ => true
  | .quantumCommit _ => true
  | .pubExchange _ _ _ => true
  | .heartbeatTick _ => true
  | .teamStart _ _ _ => true
  | .gridRetire _ _ => true
  | .quantumTimeLimit _ => true
  | .preemptionTimeLimit _ => true
  | .dispreWindowLapse _ => true
  | .operatorWindowLapse _ => true
  | .contextSave _ => true
  | .autoResume _ => true
  | .treeFaultStop _ => true
  | .matrixOpComplete _ _ => true
  | .ldswLoadStart _ _ => true
  | .copy _ => true
  | .fill _ => true
  | .level _ => true
  | .coll _ => true
  | .sectorDelivery _ => true
  | .sharedQueueConsume _ _ _ => true
  | .tsendFlitSend _ _ => true
  | .trecvCheck _ => true
  | .slip => true
  | .driftMeasurement _ => true
  | .parentPortFailure => true
  | .flitArrival _ _ _ => true
  | .flitEffect _ => true
  | .abortToken _ _ => true
  | .epochReport _ _ _ => true
  | .restartDeadline => true
  | .restartToken _ _ _ => true
  | .ack _ _ _ => true
  | .flowResendTimeout _ _ => true
  | .runWrite _ _ _ _ _ _ _ _ => true
  | .runSumF32 _ _ _ _ _ _ _ _ => true
  | .runSumI32 _ _ _ _ _ _ _ _ => true
  | .runMaxS32 _ _ _ _ _ _ _ _ => true
  | .runAddI64 _ _ _ _ _ => true
  | .atomreply _ _ _ _ => true
  | .releaseNotice _ _ => true
  | .revokeNotice _ _ => true
  | .chorusTaskDispatch _ => true
  | .chorusMemberTimeout _ => true
  | .operatorAccept _ => true
  | .grade _ => true
  | .gradeDeadline _ => true
  | .replayStart _ => true
  | .slotFetch _ _ => true
  | .slotRecheck _ _ => true
  | .queueSweep => true
  | .slotNop _ _ _ => true
  | .slotLaunch _ _ _ => true
  | .slotLaunchInd _ _ _ => true
  | .slotEngine _ _ _ => true
  | .slotSqreg _ _ _ => true
  | .slotRegrade _ _ _ => true
  | .slotResume _ _ _ => true
  | .dbgHalt _ _ _ => true
  | .dbgContinue _ _ _ => true
  | .dbgStep _ _ _ => true
  | .dbgDeliver _ _ _ => true
  | .dbgReadctx _ _ _ => true
  | .dbgWritectx _ _ _ => true
  | .dbgOpen _ _ _ => true
  | .dbgClose _ _ _ => true
  | .dbgFaults _ _ _ => true
  | .kick _ _ _ => true
  | .gradecons _ _ => true
  | .hostRdmaRead _ _ _ _ => true
  | .hostRdmaWrite _ _ _ _ => true
  | .qfetch _ _ _ => true
  | .xaedqBfx _ _ _ => true
  | .xaedqBfxS _ _ _ => true
  | .sigwait _ _ _ => true
  | .dispatch _ _ _ => true
  | .quote _ _ => true
  | .nonce _ _ => true
  | .unlock _ _ => true
  | .provision _ _ => true
  | .lifecycle _ _ => true
  | .desknew _ _ => true
  | .deskset _ _ => true
  | .deskdel _ _ => true
  | .domjoin _ _ => true
  | .domleave _ _ => true
  | .shutdown _ _ => true
  | .faultrd _ _ => true
  | .logrd _ _ => true
  | .fwchunk _ _ => true
  | .fwcommit _ _ => true
  | .receipt _ _ => true
  | .powerOn => true
  | .powerRemoval => true
  | .undervoltageTurnoff => true
  | .supplyDroop => true
  | .powerMeasurement _ => true
  | .throttlePoint _ => true
  | .throttleRecovery _ => true
  | .tripPoint _ => true
  | .logbookWrite => true
  | .infieldTestDue _ _ => true
  | .infieldTestComplete _ _ _ _ => true
  | .forcedSaveSecondPeriod _ => true
  | .testOverdue _ _ => true

end Sys2Proof
end

