-- ==== Sys2Proof/Decode.lean ====
section
/-! DEFINITION. The decoder and the encoder of CIS (09_encoding.md R131 to R144, Tables 9-1 to 9-10) and of Xaedq
(24_front_end.md R385). A word is read as a number: bit 0 is the least significant bit of the first parcel (R1, R131).
The decoder answers an instruction, or nothing for an encoding that is not an instruction (R142); an encoding that is a
row of the table but breaks a limit of its fields is refused by `Instr.wellFormed`. -/

namespace Sys2Proof

/-- Bits [lo + n - 1 : lo] of the word `w`, as a number. -/
abbrev bitsAt (w lo n : Nat) : Nat := w / 2 ^ lo % 2 ^ n

/-- The field of `w` that starts at bit `lo`, `n` bits wide. -/
def fld (w lo n : Nat) : BitVec n := BitVec.ofNat n (bitsAt w lo n)

/-- Why a sequence of bytes is not an instruction. -/
inductive DecodeError where
  /-- Fewer bytes than the first parcel's length bit asks for. -/
  | truncated
  /-- An encoding that raises ILLOP (R142), with its major opcode. -/
  | illegal (maj : Nat)
  deriving DecidableEq, Repr

/-- The 16-bit format (Table 9-1, Table 9-2): every parcel with bit 0 = 0 is an instruction (R133). -/
def decode16 (w : Nat) : Instr :=
  match bitsAt w 1 4 with
  | 0 => .vmov (fld w 5 6) (fld w 11 5)
  | 1 => .vaddI32x16 (fld w 5 6) (fld w 11 5)
  | 2 => .vsubI32x16 (fld w 5 6) (fld w 11 5)
  | 3 => .vmulI32x16 (fld w 5 6) (fld w 11 5)
  | 4 => .vandx16 (fld w 5 6) (fld w 11 5)
  | 5 => .vorx16 (fld w 5 6) (fld w 11 5)
  | 6 => .vxorx16 (fld w 5 6) (fld w 11 5)
  | 7 => .vshlI32x16 (fld w 5 6) (fld w 11 5)
  | 8 => .vsraI32x16 (fld w 5 6) (fld w 11 5)
  | 9 => .vminS32x16 (fld w 5 6) (fld w 11 5)
  | 10 => .vmaxS32x16 (fld w 5 6) (fld w 11 5)
  | 11 => .vfaddF32x16 (fld w 5 6) (fld w 11 5)
  | 12 => .vfsubF32x16 (fld w 5 6) (fld w 11 5)
  | 13 => .vfmulF32x16 (fld w 5 6) (fld w 11 5)
  | 14 => .vfminF32x16 (fld w 5 6) (fld w 11 5)
  | _ => .vfmaxF32x16 (fld w 5 6) (fld w 11 5)

/-- Majors 0x00 to 0x1F (Tables 9-7 to 9-10); a function value or a reserved field that no row lists is refused (R139, R142). -/
def decodeScalar (maj w : Nat) : Option Instr :=
  match maj with
  | 0 =>
    if bitsAt w 23 9 = 0 then some (.add (fld w 8 5) (fld w 13 5) (fld w 18 5))
    else none
  | 1 =>
    if bitsAt w 23 9 = 0 then some (.sub (fld w 8 5) (fld w 13 5) (fld w 18 5))
    else none
  | 2 =>
    if bitsAt w 23 9 = 0 then some (.mul (fld w 8 5) (fld w 13 5) (fld w 18 5))
    else if bitsAt w 23 9 = 1 then some (.mulh (fld w 8 5) (fld w 13 5) (fld w 18 5))
    else if bitsAt w 23 9 = 2 then some (.mulhu (fld w 8 5) (fld w 13 5) (fld w 18 5))
    else none
  | 3 =>
    if bitsAt w 23 9 = 0 then some (.div (fld w 8 5) (fld w 13 5) (fld w 18 5))
    else if bitsAt w 23 9 = 1 then some (.divu (fld w 8 5) (fld w 13 5) (fld w 18 5))
    else if bitsAt w 23 9 = 2 then some (.rem (fld w 8 5) (fld w 13 5) (fld w 18 5))
    else if bitsAt w 23 9 = 3 then some (.remu (fld w 8 5) (fld w 13 5) (fld w 18 5))
    else none
  | 4 =>
    if bitsAt w 23 9 = 0 then some (.and (fld w 8 5) (fld w 13 5) (fld w 18 5))
    else if bitsAt w 23 9 = 1 then some (.or (fld w 8 5) (fld w 13 5) (fld w 18 5))
    else if bitsAt w 23 9 = 2 then some (.xor (fld w 8 5) (fld w 13 5) (fld w 18 5))
    else if bitsAt w 23 9 = 3 then some (.andn (fld w 8 5) (fld w 13 5) (fld w 18 5))
    else none
  | 5 =>
    if bitsAt w 23 9 = 0 then some (.shl (fld w 8 5) (fld w 13 5) (fld w 18 5))
    else if bitsAt w 23 9 = 1 then some (.shr (fld w 8 5) (fld w 13 5) (fld w 18 5))
    else if bitsAt w 23 9 = 2 then some (.sra (fld w 8 5) (fld w 13 5) (fld w 18 5))
    else if bitsAt w 18 5 = 0 ∧ bitsAt w 29 3 = 4 then some (.shli (fld w 8 5) (fld w 13 5) (fld w 23 6))
    else if bitsAt w 18 5 = 0 ∧ bitsAt w 29 3 = 5 then some (.shri (fld w 8 5) (fld w 13 5) (fld w 23 6))
    else if bitsAt w 18 5 = 0 ∧ bitsAt w 29 3 = 6 then some (.srai (fld w 8 5) (fld w 13 5) (fld w 23 6))
    else none
  | 6 =>
    if bitsAt w 23 9 = 0 then some (.slt (fld w 8 5) (fld w 13 5) (fld w 18 5))
    else if bitsAt w 23 9 = 1 then some (.sltu (fld w 8 5) (fld w 13 5) (fld w 18 5))
    else if bitsAt w 23 9 = 2 then some (.min (fld w 8 5) (fld w 13 5) (fld w 18 5))
    else if bitsAt w 23 9 = 3 then some (.max (fld w 8 5) (fld w 13 5) (fld w 18 5))
    else if bitsAt w 23 9 = 4 then some (.minu (fld w 8 5) (fld w 13 5) (fld w 18 5))
    else if bitsAt w 23 9 = 5 then some (.maxu (fld w 8 5) (fld w 13 5) (fld w 18 5))
    else none
  | 7 =>
    if bitsAt w 18 14 = 0 then some (.clz (fld w 8 5) (fld w 13 5))
    else if bitsAt w 18 14 = 32 then some (.ctz (fld w 8 5) (fld w 13 5))
    else if bitsAt w 18 14 = 64 then some (.popc (fld w 8 5) (fld w 13 5))
    else none
  | 8 =>
    if bitsAt w 31 1 = 0 then some (.bfx (fld w 8 5) (fld w 13 5) (fld w 18 6) (fld w 24 6) (fld w 30 1))
    else none
  | 9 =>
    if bitsAt w 30 2 = 0 then some (.bfi (fld w 8 5) (fld w 13 5) (fld w 18 6) (fld w 24 6))
    else none
  | 10 =>
    if bitsAt w 28 4 = 0 then some (.sel (fld w 8 5) (fld w 13 5) (fld w 18 5) (fld w 23 5))
    else none
  | 11 =>
    some (.addi (fld w 8 5) (fld w 13 5) (fld w 18 14))
  | 12 =>
    some (.andi (fld w 8 5) (fld w 13 5) (fld w 18 14))
  | 13 =>
    some (.ori (fld w 8 5) (fld w 13 5) (fld w 18 14))
  | 14 =>
    some (.xori (fld w 8 5) (fld w 13 5) (fld w 18 14))
  | 15 =>
    some (.lih (fld w 8 5) (fld w 13 19))
  | 16 =>
    if bitsAt w 12 1 = 0 ∧ bitsAt w 17 1 = 0 then some (.adda (fld w 8 4) (fld w 13 4) (fld w 18 14))
    else none
  | 17 =>
    if bitsAt w 12 1 = 0 then some (.mova (fld w 8 4) (fld w 13 5) (fld w 18 14))
    else none
  | 18 =>
    if bitsAt w 17 1 = 0 then some (.movsa (fld w 8 5) (fld w 13 4) (fld w 18 14))
    else none
  | 19 =>
    if bitsAt w 11 2 = 0 ∧ bitsAt w 18 14 = 0 then some (.setk (fld w 8 3) (fld w 13 5))
    else none
  | 20 =>
    if bitsAt w 16 16 = 0 then some (.getk (fld w 8 5) (fld w 13 3))
    else none
  | 21 =>
    if bitsAt w 13 5 = 0 then some (.mfs (fld w 8 5) (fld w 18 14))
    else none
  | 22 =>
    if bitsAt w 8 5 = 0 then some (.mts (fld w 13 5) (fld w 18 14))
    else none
  | 24 =>
    some (.bc (fld w 8 5) (fld w 13 5) (fld w 18 3) (fld w 21 11))
  | 25 =>
    some (.j (fld w 8 24))
  | 26 =>
    some (.jal (fld w 8 24))
  | 27 =>
    if bitsAt w 8 5 = 0 ∧ bitsAt w 17 15 = 0 then some (.jr (fld w 13 4))
    else none
  | 28 =>
    some (.bv (fld w 8 3) (fld w 11 10) (fld w 21 11))
  | 29 =>
    some (.jtv (fld w 8 6) (fld w 14 4) (fld w 18 5) (fld w 23 9))
  | 30 =>
    if bitsAt w 13 8 = 0 then some (.loopl (fld w 8 5) (fld w 21 11))
    else none
  | 31 =>
    if bitsAt w 13 8 = 0 then some (.loopb (fld w 8 5) (fld w 21 11))
    else none
  | _ => none

/-- Majors 0x20 to 0x47 (Tables 9-7 to 9-10); a function value or a reserved field that no row lists is refused (R139, R142). -/
def decodeVector (maj w : Nat) : Option Instr :=
  match maj with
  | 32 =>
    if bitsAt w 29 3 = 0 then some (.vaddI32 (fld w 8 6) (fld w 14 6) (fld w 20 6) (fld w 26 3))
    else if bitsAt w 29 3 = 1 then some (.vaddS32 (fld w 8 6) (fld w 14 6) (fld w 20 6) (fld w 26 3))
    else if bitsAt w 29 3 = 2 then some (.vaddU32 (fld w 8 6) (fld w 14 6) (fld w 20 6) (fld w 26 3))
    else none
  | 33 =>
    if bitsAt w 29 3 = 0 then some (.vsubI32 (fld w 8 6) (fld w 14 6) (fld w 20 6) (fld w 26 3))
    else if bitsAt w 29 3 = 1 then some (.vsubS32 (fld w 8 6) (fld w 14 6) (fld w 20 6) (fld w 26 3))
    else if bitsAt w 29 3 = 2 then some (.vsubU32 (fld w 8 6) (fld w 14 6) (fld w 20 6) (fld w 26 3))
    else none
  | 34 =>
    if bitsAt w 29 3 = 0 then some (.vmulI32 (fld w 8 6) (fld w 14 6) (fld w 20 6) (fld w 26 3))
    else if bitsAt w 29 3 = 1 then some (.vmulhS32 (fld w 8 6) (fld w 14 6) (fld w 20 6) (fld w 26 3))
    else if bitsAt w 29 3 = 2 then some (.vmulhU32 (fld w 8 6) (fld w 14 6) (fld w 20 6) (fld w 26 3))
    else none
  | 35 =>
    if bitsAt w 29 3 = 0 then some (.vmadI32 (fld w 8 6) (fld w 14 6) (fld w 20 6) (fld w 26 3))
    else none
  | 36 =>
    if bitsAt w 29 3 = 0 then some (.vand (fld w 8 6) (fld w 14 6) (fld w 20 6) (fld w 26 3))
    else if bitsAt w 29 3 = 1 then some (.vor (fld w 8 6) (fld w 14 6) (fld w 20 6) (fld w 26 3))
    else if bitsAt w 29 3 = 2 then some (.vxor (fld w 8 6) (fld w 14 6) (fld w 20 6) (fld w 26 3))
    else if bitsAt w 29 3 = 3 then some (.vandn (fld w 8 6) (fld w 14 6) (fld w 20 6) (fld w 26 3))
    else none
  | 37 =>
    if bitsAt w 29 3 = 0 then some (.vshlI32 (fld w 8 6) (fld w 14 6) (fld w 20 6) (fld w 26 3))
    else if bitsAt w 29 3 = 1 then some (.vshrI32 (fld w 8 6) (fld w 14 6) (fld w 20 6) (fld w 26 3))
    else if bitsAt w 29 3 = 2 then some (.vsraI32 (fld w 8 6) (fld w 14 6) (fld w 20 6) (fld w 26 3))
    else none
  | 38 =>
    if bitsAt w 29 3 = 0 then some (.vminS32 (fld w 8 6) (fld w 14 6) (fld w 20 6) (fld w 26 3))
    else if bitsAt w 29 3 = 1 then some (.vmaxS32 (fld w 8 6) (fld w 14 6) (fld w 20 6) (fld w 26 3))
    else if bitsAt w 29 3 = 2 then some (.vminU32 (fld w 8 6) (fld w 14 6) (fld w 20 6) (fld w 26 3))
    else if bitsAt w 29 3 = 3 then some (.vmaxU32 (fld w 8 6) (fld w 14 6) (fld w 20 6) (fld w 26 3))
    else none
  | 39 =>
    if bitsAt w 20 6 = 0 ∧ bitsAt w 29 3 = 0 then some (.vabsS32 (fld w 8 6) (fld w 14 6) (fld w 26 3))
    else if bitsAt w 20 6 = 0 ∧ bitsAt w 29 3 = 1 then some (.vnegI32 (fld w 8 6) (fld w 14 6) (fld w 26 3))
    else none
  | 40 =>
    if bitsAt w 29 3 = 0 then some (.vsel (fld w 8 6) (fld w 14 6) (fld w 20 6) (fld w 26 3))
    else none
  | 41 =>
    if bitsAt w 29 3 = 0 then some (.vcmpS32 (fld w 8 3) (fld w 11 6) (fld w 17 6) (fld w 23 3) (fld w 26 3))
    else if bitsAt w 29 3 = 1 then some (.vcmpU32 (fld w 8 3) (fld w 11 6) (fld w 17 6) (fld w 23 3) (fld w 26 3))
    else none
  | 42 =>
    if bitsAt w 20 6 = 0 ∧ bitsAt w 29 3 = 0 then some (.vpopc (fld w 8 6) (fld w 14 6) (fld w 26 3))
    else if bitsAt w 20 6 = 0 ∧ bitsAt w 29 3 = 1 then some (.vclz (fld w 8 6) (fld w 14 6) (fld w 26 3))
    else none
  | 43 =>
    if bitsAt w 28 4 = 0 then some (.vbfxU32 (fld w 8 6) (fld w 14 6) (fld w 20 5) (fld w 25 3))
    else if bitsAt w 28 4 = 1 then some (.vbfxS32 (fld w 8 6) (fld w 14 6) (fld w 20 5) (fld w 25 3))
    else none
  | 44 =>
    some (.vaddiI32 (fld w 8 6) (fld w 14 6) (fld w 20 3) (fld w 23 9))
  | 45 =>
    if bitsAt w 28 4 = 0 then some (.vshli (fld w 8 6) (fld w 14 6) (fld w 20 3) (fld w 23 5))
    else if bitsAt w 28 4 = 1 then some (.vshri (fld w 8 6) (fld w 14 6) (fld w 20 3) (fld w 23 5))
    else if bitsAt w 28 4 = 2 then some (.vsrai (fld w 8 6) (fld w 14 6) (fld w 20 3) (fld w 23 5))
    else none
  | 46 =>
    if bitsAt w 14 6 = 0 ∧ bitsAt w 28 4 = 0 then some (.vmovs (fld w 8 6) (fld w 20 5) (fld w 25 3))
    else if bitsAt w 14 11 = 0 ∧ bitsAt w 28 4 = 1 then some (.vlane (fld w 8 6) (fld w 25 3))
    else none
  | 47 =>
    if bitsAt w 14 6 = 0 then some (.vmovi (fld w 8 6) (fld w 20 3) (fld w 23 9))
    else none
  | 48 =>
    if bitsAt w 29 3 = 0 then some (.vfaddF32 (fld w 8 6) (fld w 14 6) (fld w 20 6) (fld w 26 3))
    else if bitsAt w 29 3 = 1 then some (.vfaddF16X2 (fld w 8 6) (fld w 14 6) (fld w 20 6) (fld w 26 3))
    else none
  | 49 =>
    if bitsAt w 29 3 = 0 then some (.vfsubF32 (fld w 8 6) (fld w 14 6) (fld w 20 6) (fld w 26 3))
    else if bitsAt w 29 3 = 1 then some (.vfsubF16X2 (fld w 8 6) (fld w 14 6) (fld w 20 6) (fld w 26 3))
    else none
  | 50 =>
    if bitsAt w 29 3 = 0 then some (.vfmulF32 (fld w 8 6) (fld w 14 6) (fld w 20 6) (fld w 26 3))
    else if bitsAt w 29 3 = 1 then some (.vfmulF16X2 (fld w 8 6) (fld w 14 6) (fld w 20 6) (fld w 26 3))
    else none
  | 51 =>
    if bitsAt w 29 3 = 0 then some (.vfmaF32 (fld w 8 6) (fld w 14 6) (fld w 20 6) (fld w 26 3))
    else if bitsAt w 29 3 = 1 then some (.vfmaF16X2 (fld w 8 6) (fld w 14 6) (fld w 20 6) (fld w 26 3))
    else none
  | 52 =>
    if bitsAt w 29 3 = 0 then some (.vfmsF32 (fld w 8 6) (fld w 14 6) (fld w 20 6) (fld w 26 3))
    else if bitsAt w 29 3 = 1 then some (.vfmsF16X2 (fld w 8 6) (fld w 14 6) (fld w 20 6) (fld w 26 3))
    else none
  | 53 =>
    if bitsAt w 29 3 = 0 then some (.vfnmaF32 (fld w 8 6) (fld w 14 6) (fld w 20 6) (fld w 26 3))
    else if bitsAt w 29 3 = 1 then some (.vfnmaF16X2 (fld w 8 6) (fld w 14 6) (fld w 20 6) (fld w 26 3))
    else none
  | 54 =>
    if bitsAt w 29 3 = 0 then some (.vfminF32 (fld w 8 6) (fld w 14 6) (fld w 20 6) (fld w 26 3))
    else if bitsAt w 29 3 = 1 then some (.vfmaxF32 (fld w 8 6) (fld w 14 6) (fld w 20 6) (fld w 26 3))
    else if bitsAt w 29 3 = 2 then some (.vfminF16X2 (fld w 8 6) (fld w 14 6) (fld w 20 6) (fld w 26 3))
    else if bitsAt w 29 3 = 3 then some (.vfmaxF16X2 (fld w 8 6) (fld w 14 6) (fld w 20 6) (fld w 26 3))
    else if bitsAt w 29 3 = 4 then some (.vfmaxlF16 (fld w 8 6) (fld w 14 6) (fld w 20 6) (fld w 26 3))
    else if bitsAt w 29 3 = 5 then some (.vfminlF16 (fld w 8 6) (fld w 14 6) (fld w 20 6) (fld w 26 3))
    else none
  | 55 =>
    if bitsAt w 20 6 = 0 ∧ bitsAt w 29 3 = 0 then some (.vfabsF32 (fld w 8 6) (fld w 14 6) (fld w 26 3))
    else if bitsAt w 20 6 = 0 ∧ bitsAt w 29 3 = 1 then some (.vfnegF32 (fld w 8 6) (fld w 14 6) (fld w 26 3))
    else if bitsAt w 29 3 = 2 then some (.vfcopysignF32 (fld w 8 6) (fld w 14 6) (fld w 20 6) (fld w 26 3))
    else if bitsAt w 20 6 = 0 ∧ bitsAt w 29 3 = 3 then some (.vfabsF16X2 (fld w 8 6) (fld w 14 6) (fld w 26 3))
    else if bitsAt w 20 6 = 0 ∧ bitsAt w 29 3 = 4 then some (.vfnegF16X2 (fld w 8 6) (fld w 14 6) (fld w 26 3))
    else if bitsAt w 29 3 = 5 then some (.vfcopysignF16X2 (fld w 8 6) (fld w 14 6) (fld w 20 6) (fld w 26 3))
    else none
  | 56 =>
    if bitsAt w 29 3 = 0 then some (.vfcmpF32 (fld w 8 3) (fld w 11 6) (fld w 17 6) (fld w 23 3) (fld w 26 3))
    else none
  | 57 =>
    if bitsAt w 20 6 = 0 ∧ bitsAt w 29 3 = 0 then some (.vfrcpF32 (fld w 8 6) (fld w 14 6) (fld w 26 3))
    else if bitsAt w 20 6 = 0 ∧ bitsAt w 29 3 = 1 then some (.vfrsqF32 (fld w 8 6) (fld w 14 6) (fld w 26 3))
    else if bitsAt w 20 6 = 0 ∧ bitsAt w 29 3 = 2 then some (.vfrcpF16X2 (fld w 8 6) (fld w 14 6) (fld w 26 3))
    else if bitsAt w 20 6 = 0 ∧ bitsAt w 29 3 = 3 then some (.vfrsqF16X2 (fld w 8 6) (fld w 14 6) (fld w 26 3))
    else none
  | 58 =>
    if bitsAt w 29 3 = 0 then some (.vfdivF32 (fld w 8 6) (fld w 14 6) (fld w 20 6) (fld w 26 3))
    else none
  | 59 =>
    if bitsAt w 20 6 = 0 ∧ bitsAt w 29 3 = 0 then some (.vfsqrtF32 (fld w 8 6) (fld w 14 6) (fld w 26 3))
    else none
  | 60 =>
    some (.vcvt (fld w 8 6) (fld w 14 6) (fld w 20 6) (fld w 26 3) (fld w 29 3))
  | 61 =>
    if bitsAt w 29 3 = 0 then some (.vpackF16X2 (fld w 8 6) (fld w 14 6) (fld w 20 6) (fld w 26 3))
    else if bitsAt w 29 3 = 1 then some (.vpackBf16x2 (fld w 8 6) (fld w 14 6) (fld w 20 6) (fld w 26 3))
    else if bitsAt w 20 6 = 0 ∧ bitsAt w 29 3 = 2 then some (.vpackE2M1X (fld w 8 6) (fld w 14 6) (fld w 26 3))
    else if bitsAt w 20 6 = 0 ∧ bitsAt w 29 3 = 3 then some (.vunpklF16 (fld w 8 6) (fld w 14 6) (fld w 26 3))
    else if bitsAt w 20 6 = 0 ∧ bitsAt w 29 3 = 4 then some (.vunpkhF16 (fld w 8 6) (fld w 14 6) (fld w 26 3))
    else if bitsAt w 20 6 = 0 ∧ bitsAt w 29 3 = 5 then some (.vunpklBf16 (fld w 8 6) (fld w 14 6) (fld w 26 3))
    else if bitsAt w 20 6 = 0 ∧ bitsAt w 29 3 = 6 then some (.vunpkhBf16 (fld w 8 6) (fld w 14 6) (fld w 26 3))
    else none
  | 62 =>
    if bitsAt w 8 5 = 0 ∧ bitsAt w 18 14 = 0 then some (.setfmt (fld w 13 5))
    else if bitsAt w 13 19 = 1024 then some (.getfmt (fld w 8 5))
    else none
  | 63 =>
    if bitsAt w 20 6 = 0 ∧ bitsAt w 29 3 = 0 then some (.vfclassF32 (fld w 8 6) (fld w 14 6) (fld w 26 3))
    else if bitsAt w 20 6 = 0 ∧ bitsAt w 29 3 = 1 then some (.vfclassF16X2 (fld w 8 6) (fld w 14 6) (fld w 26 3))
    else none
  | 64 =>
    if bitsAt w 29 3 = 0 then some (.vshfl (fld w 8 6) (fld w 14 6) (fld w 20 6) (fld w 26 3))
    else none
  | 65 =>
    if bitsAt w 28 4 = 0 then some (.vshfliXor (fld w 8 6) (fld w 14 6) (fld w 20 3) (fld w 23 5))
    else if bitsAt w 28 4 = 1 then some (.vshfliUp (fld w 8 6) (fld w 14 6) (fld w 20 3) (fld w 23 5))
    else if bitsAt w 28 4 = 2 then some (.vshfliDown (fld w 8 6) (fld w 14 6) (fld w 20 3) (fld w 23 5))
    else none
  | 66 =>
    if bitsAt w 28 4 = 0 then some (.vbc (fld w 8 6) (fld w 14 6) (fld w 20 5) (fld w 25 3))
    else none
  | 67 =>
    if bitsAt w 17 6 = 0 ∧ bitsAt w 26 6 = 0 then some (.vballot (fld w 8 3) (fld w 11 6) (fld w 23 3))
    else none
  | 68 =>
    if bitsAt w 17 6 = 0 ∧ bitsAt w 26 6 = 0 then some (.voteAll (fld w 8 3) (fld w 11 6) (fld w 23 3))
    else if bitsAt w 17 6 = 0 ∧ bitsAt w 26 6 = 8 then some (.voteAny (fld w 8 3) (fld w 11 6) (fld w 23 3))
    else if bitsAt w 17 6 = 0 ∧ bitsAt w 26 6 = 16 then some (.voteNone (fld w 8 3) (fld w 11 6) (fld w 23 3))
    else if bitsAt w 17 6 = 0 ∧ bitsAt w 26 6 = 24 then some (.voteUni (fld w 8 3) (fld w 11 6) (fld w 23 3))
    else none
  | 69 =>
    if bitsAt w 20 6 = 0 ∧ bitsAt w 29 3 = 0 then some (.vfirst (fld w 8 6) (fld w 14 6) (fld w 26 3))
    else none
  | 70 =>
    if bitsAt w 14 3 = 0 ∧ bitsAt w 20 12 = 0 then some (.mand (fld w 8 3) (fld w 11 3) (fld w 17 3))
    else if bitsAt w 14 3 = 0 ∧ bitsAt w 20 12 = 64 then some (.mor (fld w 8 3) (fld w 11 3) (fld w 17 3))
    else if bitsAt w 14 3 = 0 ∧ bitsAt w 20 12 = 128 then some (.mxor (fld w 8 3) (fld w 11 3) (fld w 17 3))
    else if bitsAt w 14 18 = 12288 then some (.mnot (fld w 8 3) (fld w 11 3))
    else if bitsAt w 14 3 = 0 ∧ bitsAt w 20 12 = 256 then some (.mandn (fld w 8 3) (fld w 11 3) (fld w 17 3))
    else none
  | 71 =>
    if bitsAt w 16 16 = 0 then some (.mmovs (fld w 8 5) (fld w 13 3))
    else if bitsAt w 11 2 = 0 ∧ bitsAt w 18 14 = 32 then some (.mmovm (fld w 8 3) (fld w 13 5))
    else if bitsAt w 16 16 = 256 then some (.mpopc (fld w 8 5) (fld w 13 3))
    else none
  | _ => none

/-- Majors 0x48 to 0x63 (Tables 9-7 to 9-10); a function value or a reserved field that no row lists is refused (R139, R142). -/
def decodeMemory (maj w : Nat) : Option Instr :=
  match maj with
  | 72 =>
    some (.vldc (fld w 8 6) (fld w 14 4) (fld w 18 3) (fld w 21 3) (fld w 24 4) (fld w 28 4))
  | 73 =>
    some (.vstc (fld w 8 6) (fld w 14 4) (fld w 18 3) (fld w 21 3) (fld w 24 4) (fld w 28 4))
  | 74 =>
    if bitsAt w 31 1 = 0 then some (.vldg (fld w 8 6) (fld w 14 4) (fld w 18 6) (fld w 24 3) (fld w 27 4))
    else none
  | 75 =>
    if bitsAt w 31 1 = 0 then some (.vstg (fld w 8 6) (fld w 14 4) (fld w 18 6) (fld w 24 3) (fld w 27 4))
    else none
  | 76 =>
    some (.vldb (fld w 8 6) (fld w 14 4) (fld w 18 3) (fld w 21 3) (fld w 24 4) (fld w 28 4))
  | 77 =>
    if bitsAt w 17 1 = 0 then some (.sld (fld w 8 5) (fld w 13 4) (fld w 18 2) (fld w 20 1) (fld w 21 11))
    else none
  | 78 =>
    if bitsAt w 17 1 = 0 ∧ bitsAt w 20 1 = 0 then some (.sst (fld w 8 5) (fld w 13 4) (fld w 18 2) (fld w 21 11))
    else none
  | 79 =>
    if bitsAt w 8 6 = 0 ∧ bitsAt w 24 4 = 0 then some (.prfc (fld w 14 4) (fld w 18 3) (fld w 21 3) (fld w 28 4))
    else none
  | 80 =>
    if bitsAt w 8 6 = 0 ∧ bitsAt w 21 11 = 0 then some (.sprec (fld w 14 4) (fld w 18 3))
    else none
  | 81 =>
    if bitsAt w 14 4 = 0 ∧ bitsAt w 24 8 = 0 then some (.spld (fld w 8 6) (fld w 18 3) (fld w 21 3))
    else none
  | 82 =>
    if bitsAt w 14 4 = 0 ∧ bitsAt w 24 8 = 0 then some (.spst (fld w 8 6) (fld w 18 3) (fld w 21 3))
    else none
  | 84 =>
    if bitsAt w 27 4 = 0 then some (.atomvAddI32 (fld w 1 2) (fld w 8 6) (fld w 14 6) (fld w 20 4) (fld w 24 3) (fld w 31 1))
    else if bitsAt w 27 4 = 1 then some (.atomvAddF32 (fld w 1 2) (fld w 8 6) (fld w 14 6) (fld w 20 4) (fld w 24 3) (fld w 31 1))
    else if bitsAt w 27 4 = 2 then some (.atomvMinS32 (fld w 1 2) (fld w 8 6) (fld w 14 6) (fld w 20 4) (fld w 24 3) (fld w 31 1))
    else if bitsAt w 27 4 = 3 then some (.atomvMaxS32 (fld w 1 2) (fld w 8 6) (fld w 14 6) (fld w 20 4) (fld w 24 3) (fld w 31 1))
    else if bitsAt w 27 4 = 4 then some (.atomvMinU32 (fld w 1 2) (fld w 8 6) (fld w 14 6) (fld w 20 4) (fld w 24 3) (fld w 31 1))
    else if bitsAt w 27 4 = 5 then some (.atomvMaxU32 (fld w 1 2) (fld w 8 6) (fld w 14 6) (fld w 20 4) (fld w 24 3) (fld w 31 1))
    else if bitsAt w 27 4 = 6 then some (.atomvAnd (fld w 1 2) (fld w 8 6) (fld w 14 6) (fld w 20 4) (fld w 24 3) (fld w 31 1))
    else if bitsAt w 27 4 = 7 then some (.atomvOr (fld w 1 2) (fld w 8 6) (fld w 14 6) (fld w 20 4) (fld w 24 3) (fld w 31 1))
    else if bitsAt w 27 4 = 8 then some (.atomvXor (fld w 1 2) (fld w 8 6) (fld w 14 6) (fld w 20 4) (fld w 24 3) (fld w 31 1))
    else if bitsAt w 27 4 = 9 then some (.atomvXchg (fld w 1 2) (fld w 8 6) (fld w 14 6) (fld w 20 4) (fld w 24 3) (fld w 31 1))
    else if bitsAt w 27 4 = 10 then some (.atomvCas (fld w 1 2) (fld w 8 6) (fld w 14 6) (fld w 20 4) (fld w 24 3) (fld w 31 1))
    else if bitsAt w 27 4 = 11 then some (.atomvMaxlF16 (fld w 1 2) (fld w 8 6) (fld w 14 6) (fld w 20 4) (fld w 24 3) (fld w 31 1))
    else if bitsAt w 27 4 = 12 then some (.atomvMinlF16 (fld w 1 2) (fld w 8 6) (fld w 14 6) (fld w 20 4) (fld w 24 3) (fld w 31 1))
    else if bitsAt w 27 4 = 13 then some (.atomvAddI64 (fld w 1 2) (fld w 8 6) (fld w 14 6) (fld w 20 4) (fld w 24 3) (fld w 31 1))
    else none
  | 85 =>
    if bitsAt w 27 4 = 0 then some (.atomvAddI32 (fld w 1 2) (fld w 8 6) (fld w 14 6) (fld w 20 4) (fld w 24 3) (fld w 31 1))
    else if bitsAt w 27 4 = 1 then some (.atomvAddF32 (fld w 1 2) (fld w 8 6) (fld w 14 6) (fld w 20 4) (fld w 24 3) (fld w 31 1))
    else if bitsAt w 27 4 = 2 then some (.atomvMinS32 (fld w 1 2) (fld w 8 6) (fld w 14 6) (fld w 20 4) (fld w 24 3) (fld w 31 1))
    else if bitsAt w 27 4 = 3 then some (.atomvMaxS32 (fld w 1 2) (fld w 8 6) (fld w 14 6) (fld w 20 4) (fld w 24 3) (fld w 31 1))
    else if bitsAt w 27 4 = 4 then some (.atomvMinU32 (fld w 1 2) (fld w 8 6) (fld w 14 6) (fld w 20 4) (fld w 24 3) (fld w 31 1))
    else if bitsAt w 27 4 = 5 then some (.atomvMaxU32 (fld w 1 2) (fld w 8 6) (fld w 14 6) (fld w 20 4) (fld w 24 3) (fld w 31 1))
    else if bitsAt w 27 4 = 6 then some (.atomvAnd (fld w 1 2) (fld w 8 6) (fld w 14 6) (fld w 20 4) (fld w 24 3) (fld w 31 1))
    else if bitsAt w 27 4 = 7 then some (.atomvOr (fld w 1 2) (fld w 8 6) (fld w 14 6) (fld w 20 4) (fld w 24 3) (fld w 31 1))
    else if bitsAt w 27 4 = 8 then some (.atomvXor (fld w 1 2) (fld w 8 6) (fld w 14 6) (fld w 20 4) (fld w 24 3) (fld w 31 1))
    else if bitsAt w 27 4 = 9 then some (.atomvXchg (fld w 1 2) (fld w 8 6) (fld w 14 6) (fld w 20 4) (fld w 24 3) (fld w 31 1))
    else if bitsAt w 27 4 = 10 then some (.atomvCas (fld w 1 2) (fld w 8 6) (fld w 14 6) (fld w 20 4) (fld w 24 3) (fld w 31 1))
    else if bitsAt w 27 4 = 11 then some (.atomvMaxlF16 (fld w 1 2) (fld w 8 6) (fld w 14 6) (fld w 20 4) (fld w 24 3) (fld w 31 1))
    else if bitsAt w 27 4 = 12 then some (.atomvMinlF16 (fld w 1 2) (fld w 8 6) (fld w 14 6) (fld w 20 4) (fld w 24 3) (fld w 31 1))
    else if bitsAt w 27 4 = 13 then some (.atomvAddI64 (fld w 1 2) (fld w 8 6) (fld w 14 6) (fld w 20 4) (fld w 24 3) (fld w 31 1))
    else none
  | 86 =>
    if bitsAt w 27 4 = 0 then some (.atomvAddI32 (fld w 1 2) (fld w 8 6) (fld w 14 6) (fld w 20 4) (fld w 24 3) (fld w 31 1))
    else if bitsAt w 27 4 = 1 then some (.atomvAddF32 (fld w 1 2) (fld w 8 6) (fld w 14 6) (fld w 20 4) (fld w 24 3) (fld w 31 1))
    else if bitsAt w 27 4 = 2 then some (.atomvMinS32 (fld w 1 2) (fld w 8 6) (fld w 14 6) (fld w 20 4) (fld w 24 3) (fld w 31 1))
    else if bitsAt w 27 4 = 3 then some (.atomvMaxS32 (fld w 1 2) (fld w 8 6) (fld w 14 6) (fld w 20 4) (fld w 24 3) (fld w 31 1))
    else if bitsAt w 27 4 = 4 then some (.atomvMinU32 (fld w 1 2) (fld w 8 6) (fld w 14 6) (fld w 20 4) (fld w 24 3) (fld w 31 1))
    else if bitsAt w 27 4 = 5 then some (.atomvMaxU32 (fld w 1 2) (fld w 8 6) (fld w 14 6) (fld w 20 4) (fld w 24 3) (fld w 31 1))
    else if bitsAt w 27 4 = 6 then some (.atomvAnd (fld w 1 2) (fld w 8 6) (fld w 14 6) (fld w 20 4) (fld w 24 3) (fld w 31 1))
    else if bitsAt w 27 4 = 7 then some (.atomvOr (fld w 1 2) (fld w 8 6) (fld w 14 6) (fld w 20 4) (fld w 24 3) (fld w 31 1))
    else if bitsAt w 27 4 = 8 then some (.atomvXor (fld w 1 2) (fld w 8 6) (fld w 14 6) (fld w 20 4) (fld w 24 3) (fld w 31 1))
    else if bitsAt w 27 4 = 9 then some (.atomvXchg (fld w 1 2) (fld w 8 6) (fld w 14 6) (fld w 20 4) (fld w 24 3) (fld w 31 1))
    else if bitsAt w 27 4 = 10 then some (.atomvCas (fld w 1 2) (fld w 8 6) (fld w 14 6) (fld w 20 4) (fld w 24 3) (fld w 31 1))
    else if bitsAt w 27 4 = 11 then some (.atomvMaxlF16 (fld w 1 2) (fld w 8 6) (fld w 14 6) (fld w 20 4) (fld w 24 3) (fld w 31 1))
    else if bitsAt w 27 4 = 12 then some (.atomvMinlF16 (fld w 1 2) (fld w 8 6) (fld w 14 6) (fld w 20 4) (fld w 24 3) (fld w 31 1))
    else if bitsAt w 27 4 = 13 then some (.atomvAddI64 (fld w 1 2) (fld w 8 6) (fld w 14 6) (fld w 20 4) (fld w 24 3) (fld w 31 1))
    else none
  | 87 =>
    if bitsAt w 27 4 = 0 then some (.atomvAddI32 (fld w 1 2) (fld w 8 6) (fld w 14 6) (fld w 20 4) (fld w 24 3) (fld w 31 1))
    else if bitsAt w 27 4 = 1 then some (.atomvAddF32 (fld w 1 2) (fld w 8 6) (fld w 14 6) (fld w 20 4) (fld w 24 3) (fld w 31 1))
    else if bitsAt w 27 4 = 2 then some (.atomvMinS32 (fld w 1 2) (fld w 8 6) (fld w 14 6) (fld w 20 4) (fld w 24 3) (fld w 31 1))
    else if bitsAt w 27 4 = 3 then some (.atomvMaxS32 (fld w 1 2) (fld w 8 6) (fld w 14 6) (fld w 20 4) (fld w 24 3) (fld w 31 1))
    else if bitsAt w 27 4 = 4 then some (.atomvMinU32 (fld w 1 2) (fld w 8 6) (fld w 14 6) (fld w 20 4) (fld w 24 3) (fld w 31 1))
    else if bitsAt w 27 4 = 5 then some (.atomvMaxU32 (fld w 1 2) (fld w 8 6) (fld w 14 6) (fld w 20 4) (fld w 24 3) (fld w 31 1))
    else if bitsAt w 27 4 = 6 then some (.atomvAnd (fld w 1 2) (fld w 8 6) (fld w 14 6) (fld w 20 4) (fld w 24 3) (fld w 31 1))
    else if bitsAt w 27 4 = 7 then some (.atomvOr (fld w 1 2) (fld w 8 6) (fld w 14 6) (fld w 20 4) (fld w 24 3) (fld w 31 1))
    else if bitsAt w 27 4 = 8 then some (.atomvXor (fld w 1 2) (fld w 8 6) (fld w 14 6) (fld w 20 4) (fld w 24 3) (fld w 31 1))
    else if bitsAt w 27 4 = 9 then some (.atomvXchg (fld w 1 2) (fld w 8 6) (fld w 14 6) (fld w 20 4) (fld w 24 3) (fld w 31 1))
    else if bitsAt w 27 4 = 10 then some (.atomvCas (fld w 1 2) (fld w 8 6) (fld w 14 6) (fld w 20 4) (fld w 24 3) (fld w 31 1))
    else if bitsAt w 27 4 = 11 then some (.atomvMaxlF16 (fld w 1 2) (fld w 8 6) (fld w 14 6) (fld w 20 4) (fld w 24 3) (fld w 31 1))
    else if bitsAt w 27 4 = 12 then some (.atomvMinlF16 (fld w 1 2) (fld w 8 6) (fld w 14 6) (fld w 20 4) (fld w 24 3) (fld w 31 1))
    else if bitsAt w 27 4 = 13 then some (.atomvAddI64 (fld w 1 2) (fld w 8 6) (fld w 14 6) (fld w 20 4) (fld w 24 3) (fld w 31 1))
    else none
  | 88 =>
    if bitsAt w 13 1 = 0 ∧ bitsAt w 19 1 = 0 ∧ bitsAt w 27 4 = 0 then some (.atomsAddI32 (fld w 1 2) (fld w 8 5) (fld w 14 5) (fld w 20 4) (fld w 24 3) (fld w 31 1))
    else if bitsAt w 13 1 = 0 ∧ bitsAt w 19 1 = 0 ∧ bitsAt w 27 4 = 1 then some (.atomsAddF32 (fld w 1 2) (fld w 8 5) (fld w 14 5) (fld w 20 4) (fld w 24 3) (fld w 31 1))
    else if bitsAt w 13 1 = 0 ∧ bitsAt w 19 1 = 0 ∧ bitsAt w 27 4 = 2 then some (.atomsMinS32 (fld w 1 2) (fld w 8 5) (fld w 14 5) (fld w 20 4) (fld w 24 3) (fld w 31 1))
    else if bitsAt w 13 1 = 0 ∧ bitsAt w 19 1 = 0 ∧ bitsAt w 27 4 = 3 then some (.atomsMaxS32 (fld w 1 2) (fld w 8 5) (fld w 14 5) (fld w 20 4) (fld w 24 3) (fld w 31 1))
    else if bitsAt w 13 1 = 0 ∧ bitsAt w 19 1 = 0 ∧ bitsAt w 27 4 = 4 then some (.atomsMinU32 (fld w 1 2) (fld w 8 5) (fld w 14 5) (fld w 20 4) (fld w 24 3) (fld w 31 1))
    else if bitsAt w 13 1 = 0 ∧ bitsAt w 19 1 = 0 ∧ bitsAt w 27 4 = 5 then some (.atomsMaxU32 (fld w 1 2) (fld w 8 5) (fld w 14 5) (fld w 20 4) (fld w 24 3) (fld w 31 1))
    else if bitsAt w 13 1 = 0 ∧ bitsAt w 19 1 = 0 ∧ bitsAt w 27 4 = 6 then some (.atomsAnd (fld w 1 2) (fld w 8 5) (fld w 14 5) (fld w 20 4) (fld w 24 3) (fld w 31 1))
    else if bitsAt w 13 1 = 0 ∧ bitsAt w 19 1 = 0 ∧ bitsAt w 27 4 = 7 then some (.atomsOr (fld w 1 2) (fld w 8 5) (fld w 14 5) (fld w 20 4) (fld w 24 3) (fld w 31 1))
    else if bitsAt w 13 1 = 0 ∧ bitsAt w 19 1 = 0 ∧ bitsAt w 27 4 = 8 then some (.atomsXor (fld w 1 2) (fld w 8 5) (fld w 14 5) (fld w 20 4) (fld w 24 3) (fld w 31 1))
    else if bitsAt w 13 1 = 0 ∧ bitsAt w 19 1 = 0 ∧ bitsAt w 27 4 = 9 then some (.atomsXchg (fld w 1 2) (fld w 8 5) (fld w 14 5) (fld w 20 4) (fld w 24 3) (fld w 31 1))
    else if bitsAt w 13 1 = 0 ∧ bitsAt w 19 1 = 0 ∧ bitsAt w 27 4 = 10 then some (.atomsCas (fld w 1 2) (fld w 8 5) (fld w 14 5) (fld w 20 4) (fld w 24 3) (fld w 31 1))
    else if bitsAt w 13 1 = 0 ∧ bitsAt w 19 1 = 0 ∧ bitsAt w 27 4 = 11 then some (.atomsMaxlF16 (fld w 1 2) (fld w 8 5) (fld w 14 5) (fld w 20 4) (fld w 24 3) (fld w 31 1))
    else if bitsAt w 13 1 = 0 ∧ bitsAt w 19 1 = 0 ∧ bitsAt w 27 4 = 12 then some (.atomsMinlF16 (fld w 1 2) (fld w 8 5) (fld w 14 5) (fld w 20 4) (fld w 24 3) (fld w 31 1))
    else if bitsAt w 13 1 = 0 ∧ bitsAt w 19 1 = 0 ∧ bitsAt w 27 4 = 13 then some (.atomsAddI64 (fld w 1 2) (fld w 8 5) (fld w 14 5) (fld w 20 4) (fld w 24 3) (fld w 31 1))
    else none
  | 89 =>
    if bitsAt w 13 1 = 0 ∧ bitsAt w 19 1 = 0 ∧ bitsAt w 27 4 = 0 then some (.atomsAddI32 (fld w 1 2) (fld w 8 5) (fld w 14 5) (fld w 20 4) (fld w 24 3) (fld w 31 1))
    else if bitsAt w 13 1 = 0 ∧ bitsAt w 19 1 = 0 ∧ bitsAt w 27 4 = 1 then some (.atomsAddF32 (fld w 1 2) (fld w 8 5) (fld w 14 5) (fld w 20 4) (fld w 24 3) (fld w 31 1))
    else if bitsAt w 13 1 = 0 ∧ bitsAt w 19 1 = 0 ∧ bitsAt w 27 4 = 2 then some (.atomsMinS32 (fld w 1 2) (fld w 8 5) (fld w 14 5) (fld w 20 4) (fld w 24 3) (fld w 31 1))
    else if bitsAt w 13 1 = 0 ∧ bitsAt w 19 1 = 0 ∧ bitsAt w 27 4 = 3 then some (.atomsMaxS32 (fld w 1 2) (fld w 8 5) (fld w 14 5) (fld w 20 4) (fld w 24 3) (fld w 31 1))
    else if bitsAt w 13 1 = 0 ∧ bitsAt w 19 1 = 0 ∧ bitsAt w 27 4 = 4 then some (.atomsMinU32 (fld w 1 2) (fld w 8 5) (fld w 14 5) (fld w 20 4) (fld w 24 3) (fld w 31 1))
    else if bitsAt w 13 1 = 0 ∧ bitsAt w 19 1 = 0 ∧ bitsAt w 27 4 = 5 then some (.atomsMaxU32 (fld w 1 2) (fld w 8 5) (fld w 14 5) (fld w 20 4) (fld w 24 3) (fld w 31 1))
    else if bitsAt w 13 1 = 0 ∧ bitsAt w 19 1 = 0 ∧ bitsAt w 27 4 = 6 then some (.atomsAnd (fld w 1 2) (fld w 8 5) (fld w 14 5) (fld w 20 4) (fld w 24 3) (fld w 31 1))
    else if bitsAt w 13 1 = 0 ∧ bitsAt w 19 1 = 0 ∧ bitsAt w 27 4 = 7 then some (.atomsOr (fld w 1 2) (fld w 8 5) (fld w 14 5) (fld w 20 4) (fld w 24 3) (fld w 31 1))
    else if bitsAt w 13 1 = 0 ∧ bitsAt w 19 1 = 0 ∧ bitsAt w 27 4 = 8 then some (.atomsXor (fld w 1 2) (fld w 8 5) (fld w 14 5) (fld w 20 4) (fld w 24 3) (fld w 31 1))
    else if bitsAt w 13 1 = 0 ∧ bitsAt w 19 1 = 0 ∧ bitsAt w 27 4 = 9 then some (.atomsXchg (fld w 1 2) (fld w 8 5) (fld w 14 5) (fld w 20 4) (fld w 24 3) (fld w 31 1))
    else if bitsAt w 13 1 = 0 ∧ bitsAt w 19 1 = 0 ∧ bitsAt w 27 4 = 10 then some (.atomsCas (fld w 1 2) (fld w 8 5) (fld w 14 5) (fld w 20 4) (fld w 24 3) (fld w 31 1))
    else if bitsAt w 13 1 = 0 ∧ bitsAt w 19 1 = 0 ∧ bitsAt w 27 4 = 11 then some (.atomsMaxlF16 (fld w 1 2) (fld w 8 5) (fld w 14 5) (fld w 20 4) (fld w 24 3) (fld w 31 1))
    else if bitsAt w 13 1 = 0 ∧ bitsAt w 19 1 = 0 ∧ bitsAt w 27 4 = 12 then some (.atomsMinlF16 (fld w 1 2) (fld w 8 5) (fld w 14 5) (fld w 20 4) (fld w 24 3) (fld w 31 1))
    else if bitsAt w 13 1 = 0 ∧ bitsAt w 19 1 = 0 ∧ bitsAt w 27 4 = 13 then some (.atomsAddI64 (fld w 1 2) (fld w 8 5) (fld w 14 5) (fld w 20 4) (fld w 24 3) (fld w 31 1))
    else none
  | 90 =>
    if bitsAt w 13 1 = 0 ∧ bitsAt w 19 1 = 0 ∧ bitsAt w 27 4 = 0 then some (.atomsAddI32 (fld w 1 2) (fld w 8 5) (fld w 14 5) (fld w 20 4) (fld w 24 3) (fld w 31 1))
    else if bitsAt w 13 1 = 0 ∧ bitsAt w 19 1 = 0 ∧ bitsAt w 27 4 = 1 then some (.atomsAddF32 (fld w 1 2) (fld w 8 5) (fld w 14 5) (fld w 20 4) (fld w 24 3) (fld w 31 1))
    else if bitsAt w 13 1 = 0 ∧ bitsAt w 19 1 = 0 ∧ bitsAt w 27 4 = 2 then some (.atomsMinS32 (fld w 1 2) (fld w 8 5) (fld w 14 5) (fld w 20 4) (fld w 24 3) (fld w 31 1))
    else if bitsAt w 13 1 = 0 ∧ bitsAt w 19 1 = 0 ∧ bitsAt w 27 4 = 3 then some (.atomsMaxS32 (fld w 1 2) (fld w 8 5) (fld w 14 5) (fld w 20 4) (fld w 24 3) (fld w 31 1))
    else if bitsAt w 13 1 = 0 ∧ bitsAt w 19 1 = 0 ∧ bitsAt w 27 4 = 4 then some (.atomsMinU32 (fld w 1 2) (fld w 8 5) (fld w 14 5) (fld w 20 4) (fld w 24 3) (fld w 31 1))
    else if bitsAt w 13 1 = 0 ∧ bitsAt w 19 1 = 0 ∧ bitsAt w 27 4 = 5 then some (.atomsMaxU32 (fld w 1 2) (fld w 8 5) (fld w 14 5) (fld w 20 4) (fld w 24 3) (fld w 31 1))
    else if bitsAt w 13 1 = 0 ∧ bitsAt w 19 1 = 0 ∧ bitsAt w 27 4 = 6 then some (.atomsAnd (fld w 1 2) (fld w 8 5) (fld w 14 5) (fld w 20 4) (fld w 24 3) (fld w 31 1))
    else if bitsAt w 13 1 = 0 ∧ bitsAt w 19 1 = 0 ∧ bitsAt w 27 4 = 7 then some (.atomsOr (fld w 1 2) (fld w 8 5) (fld w 14 5) (fld w 20 4) (fld w 24 3) (fld w 31 1))
    else if bitsAt w 13 1 = 0 ∧ bitsAt w 19 1 = 0 ∧ bitsAt w 27 4 = 8 then some (.atomsXor (fld w 1 2) (fld w 8 5) (fld w 14 5) (fld w 20 4) (fld w 24 3) (fld w 31 1))
    else if bitsAt w 13 1 = 0 ∧ bitsAt w 19 1 = 0 ∧ bitsAt w 27 4 = 9 then some (.atomsXchg (fld w 1 2) (fld w 8 5) (fld w 14 5) (fld w 20 4) (fld w 24 3) (fld w 31 1))
    else if bitsAt w 13 1 = 0 ∧ bitsAt w 19 1 = 0 ∧ bitsAt w 27 4 = 10 then some (.atomsCas (fld w 1 2) (fld w 8 5) (fld w 14 5) (fld w 20 4) (fld w 24 3) (fld w 31 1))
    else if bitsAt w 13 1 = 0 ∧ bitsAt w 19 1 = 0 ∧ bitsAt w 27 4 = 11 then some (.atomsMaxlF16 (fld w 1 2) (fld w 8 5) (fld w 14 5) (fld w 20 4) (fld w 24 3) (fld w 31 1))
    else if bitsAt w 13 1 = 0 ∧ bitsAt w 19 1 = 0 ∧ bitsAt w 27 4 = 12 then some (.atomsMinlF16 (fld w 1 2) (fld w 8 5) (fld w 14 5) (fld w 20 4) (fld w 24 3) (fld w 31 1))
    else if bitsAt w 13 1 = 0 ∧ bitsAt w 19 1 = 0 ∧ bitsAt w 27 4 = 13 then some (.atomsAddI64 (fld w 1 2) (fld w 8 5) (fld w 14 5) (fld w 20 4) (fld w 24 3) (fld w 31 1))
    else none
  | 91 =>
    if bitsAt w 13 1 = 0 ∧ bitsAt w 19 1 = 0 ∧ bitsAt w 27 4 = 0 then some (.atomsAddI32 (fld w 1 2) (fld w 8 5) (fld w 14 5) (fld w 20 4) (fld w 24 3) (fld w 31 1))
    else if bitsAt w 13 1 = 0 ∧ bitsAt w 19 1 = 0 ∧ bitsAt w 27 4 = 1 then some (.atomsAddF32 (fld w 1 2) (fld w 8 5) (fld w 14 5) (fld w 20 4) (fld w 24 3) (fld w 31 1))
    else if bitsAt w 13 1 = 0 ∧ bitsAt w 19 1 = 0 ∧ bitsAt w 27 4 = 2 then some (.atomsMinS32 (fld w 1 2) (fld w 8 5) (fld w 14 5) (fld w 20 4) (fld w 24 3) (fld w 31 1))
    else if bitsAt w 13 1 = 0 ∧ bitsAt w 19 1 = 0 ∧ bitsAt w 27 4 = 3 then some (.atomsMaxS32 (fld w 1 2) (fld w 8 5) (fld w 14 5) (fld w 20 4) (fld w 24 3) (fld w 31 1))
    else if bitsAt w 13 1 = 0 ∧ bitsAt w 19 1 = 0 ∧ bitsAt w 27 4 = 4 then some (.atomsMinU32 (fld w 1 2) (fld w 8 5) (fld w 14 5) (fld w 20 4) (fld w 24 3) (fld w 31 1))
    else if bitsAt w 13 1 = 0 ∧ bitsAt w 19 1 = 0 ∧ bitsAt w 27 4 = 5 then some (.atomsMaxU32 (fld w 1 2) (fld w 8 5) (fld w 14 5) (fld w 20 4) (fld w 24 3) (fld w 31 1))
    else if bitsAt w 13 1 = 0 ∧ bitsAt w 19 1 = 0 ∧ bitsAt w 27 4 = 6 then some (.atomsAnd (fld w 1 2) (fld w 8 5) (fld w 14 5) (fld w 20 4) (fld w 24 3) (fld w 31 1))
    else if bitsAt w 13 1 = 0 ∧ bitsAt w 19 1 = 0 ∧ bitsAt w 27 4 = 7 then some (.atomsOr (fld w 1 2) (fld w 8 5) (fld w 14 5) (fld w 20 4) (fld w 24 3) (fld w 31 1))
    else if bitsAt w 13 1 = 0 ∧ bitsAt w 19 1 = 0 ∧ bitsAt w 27 4 = 8 then some (.atomsXor (fld w 1 2) (fld w 8 5) (fld w 14 5) (fld w 20 4) (fld w 24 3) (fld w 31 1))
    else if bitsAt w 13 1 = 0 ∧ bitsAt w 19 1 = 0 ∧ bitsAt w 27 4 = 9 then some (.atomsXchg (fld w 1 2) (fld w 8 5) (fld w 14 5) (fld w 20 4) (fld w 24 3) (fld w 31 1))
    else if bitsAt w 13 1 = 0 ∧ bitsAt w 19 1 = 0 ∧ bitsAt w 27 4 = 10 then some (.atomsCas (fld w 1 2) (fld w 8 5) (fld w 14 5) (fld w 20 4) (fld w 24 3) (fld w 31 1))
    else if bitsAt w 13 1 = 0 ∧ bitsAt w 19 1 = 0 ∧ bitsAt w 27 4 = 11 then some (.atomsMaxlF16 (fld w 1 2) (fld w 8 5) (fld w 14 5) (fld w 20 4) (fld w 24 3) (fld w 31 1))
    else if bitsAt w 13 1 = 0 ∧ bitsAt w 19 1 = 0 ∧ bitsAt w 27 4 = 12 then some (.atomsMinlF16 (fld w 1 2) (fld w 8 5) (fld w 14 5) (fld w 20 4) (fld w 24 3) (fld w 31 1))
    else if bitsAt w 13 1 = 0 ∧ bitsAt w 19 1 = 0 ∧ bitsAt w 27 4 = 13 then some (.atomsAddI64 (fld w 1 2) (fld w 8 5) (fld w 14 5) (fld w 20 4) (fld w 24 3) (fld w 31 1))
    else none
  | 92 =>
    if bitsAt w 8 5 = 0 ∧ bitsAt w 17 1 = 0 ∧ bitsAt w 26 6 = 0 then some (.binit (fld w 13 4) (fld w 18 5) (fld w 23 3))
    else none
  | 93 =>
    if bitsAt w 8 5 = 0 ∧ bitsAt w 17 6 = 0 ∧ bitsAt w 24 8 = 0 then some (.barv (fld w 13 4) (fld w 23 1))
    else if bitsAt w 8 5 = 0 ∧ bitsAt w 17 1 = 0 ∧ bitsAt w 24 8 = 1 then some (.barx (fld w 13 4) (fld w 18 5) (fld w 23 1))
    else if bitsAt w 17 1 = 0 ∧ bitsAt w 23 9 = 4 then some (.btry (fld w 8 5) (fld w 13 4) (fld w 18 5))
    else none
  | 94 =>
    if bitsAt w 8 5 = 0 ∧ bitsAt w 17 1 = 0 ∧ bitsAt w 23 9 = 0 then some (.bwait (fld w 13 4) (fld w 18 5))
    else none
  | 95 =>
    if bitsAt w 8 24 = 0 then some (.barg)
    else none
  | 96 =>
    if bitsAt w 8 5 = 0 ∧ bitsAt w 17 1 = 0 ∧ bitsAt w 27 5 = 0 then some (.waitc (fld w 13 4) (fld w 18 5) (fld w 23 3) (fld w 26 1))
    else none
  | 97 =>
    if bitsAt w 8 24 = 163840 then some (.fenceSc)
    else if bitsAt w 8 15 = 0 ∧ bitsAt w 26 6 = 0 then some (.fence (fld w 23 3))
    else none
  | 98 =>
    if bitsAt w 8 24 = 0 then some (.fwaitc)
    else none
  | 99 =>
    if bitsAt w 8 24 = 0 then some (.yield)
    else if bitsAt w 8 24 = 32768 then some (.qend)
    else if bitsAt w 8 24 = 65536 then some (.dispre)
    else if bitsAt w 8 24 = 98304 then some (.enpre)
    else if bitsAt w 8 24 = 131072 then some (.exit)
    else none
  | _ => none

/-- Majors 0x64 to 0x7F (Tables 9-7 to 9-10); a function value or a reserved field that no row lists is refused (R139, R142). -/
def decodeEngine (maj w : Nat) : Option Instr :=
  match maj with
  | 100 =>
    if bitsAt w 18 14 = 0 then some (.acq (fld w 8 5) (fld w 13 5))
    else none
  | 101 =>
    if bitsAt w 8 5 = 0 ∧ bitsAt w 23 9 = 0 then some (.acrel (fld w 13 5) (fld w 18 5))
    else none
  | 102 =>
    if bitsAt w 17 7 = 0 ∧ bitsAt w 27 5 = 0 then some (.aczero (fld w 8 4) (fld w 12 5) (fld w 24 3))
    else none
  | 103 =>
    if bitsAt w 27 5 = 0 then some (.acrd (fld w 8 4) (fld w 12 5) (fld w 17 4) (fld w 21 3) (fld w 24 3))
    else none
  | 104 =>
    if bitsAt w 27 5 = 0 then some (.acwr (fld w 8 4) (fld w 12 5) (fld w 17 4) (fld w 21 3) (fld w 24 3))
    else none
  | 105 =>
    if bitsAt w 27 5 = 0 then some (.accvt (fld w 8 4) (fld w 12 5) (fld w 17 4) (fld w 21 3) (fld w 24 3))
    else none
  | 106 =>
    if bitsAt w 12 5 = 0 ∧ bitsAt w 24 3 = 0 ∧ bitsAt w 28 1 = 0 ∧ bitsAt w 30 2 = 0 then some (.ldsw (fld w 8 4) (fld w 17 4) (fld w 21 3) (fld w 27 1) (fld w 29 1))
    else if bitsAt w 12 20 = 524288 then some (.swapw (fld w 8 4))
    else none
  | 107 =>
    if bitsAt w 30 2 = 0 then some (.mma (fld w 8 4) (fld w 12 5) (fld w 17 4) (fld w 21 3) (fld w 24 3) (fld w 27 1) (fld w 28 1) (fld w 29 1))
    else none
  | 108 =>
    if bitsAt w 8 5 = 0 ∧ bitsAt w 17 15 = 0 then some (.fwait (fld w 13 4))
    else none
  | 109 =>
    if bitsAt w 17 15 = 0 then some (.ftest (fld w 8 5) (fld w 13 4))
    else none
  | 110 =>
    if bitsAt w 8 5 = 0 ∧ bitsAt w 17 15 = 0 then some (.fcancel (fld w 13 4))
    else none
  | 111 =>
    if bitsAt w 12 1 = 0 ∧ bitsAt w 17 15 = 0 then some (.fmov (fld w 8 4) (fld w 13 4))
    else if bitsAt w 12 1 = 0 ∧ bitsAt w 17 15 = 64 then some (.fbind (fld w 8 4) (fld w 13 4))
    else none
  | 112 =>
    if bitsAt w 8 5 = 0 ∧ bitsAt w 23 9 = 0 then some (.dhset (fld w 13 5) (fld w 18 5))
    else if bitsAt w 8 5 = 0 ∧ bitsAt w 18 14 = 32 then some (.dhwait (fld w 13 5))
    else if bitsAt w 18 14 = 64 then some (.dhget (fld w 8 5) (fld w 13 5))
    else if bitsAt w 8 5 = 0 ∧ bitsAt w 18 14 = 96 then some (.dhrel (fld w 13 5))
    else none
  | 113 =>
    if bitsAt w 17 1 = 0 ∧ bitsAt w 23 9 = 0 then some (.wptr (fld w 8 5) (fld w 13 4) (fld w 18 5))
    else none
  | 116 =>
    if bitsAt w 26 6 = 0 then some (.cpyq (fld w 8 4) (fld w 12 4) (fld w 16 5) (fld w 21 5))
    else none
  | 117 =>
    if bitsAt w 8 4 = 0 ∧ bitsAt w 16 5 = 0 ∧ bitsAt w 26 6 = 0 then some (.pub (fld w 12 4) (fld w 21 5))
    else none
  | 118 =>
    if bitsAt w 8 13 = 0 ∧ bitsAt w 26 6 = 0 then some (.opbeg (fld w 21 5))
    else if bitsAt w 8 4 = 0 ∧ bitsAt w 26 6 = 1 then some (.oparg (fld w 12 4) (fld w 16 5) (fld w 21 5))
    else if bitsAt w 16 5 = 0 ∧ bitsAt w 26 6 = 2 then some (.opend (fld w 8 4) (fld w 12 4) (fld w 21 5))
    else none
  | 119 =>
    if bitsAt w 16 16 = 0 then some (.lnch (fld w 8 4) (fld w 12 4))
    else none
  | 120 =>
    if bitsAt w 13 19 = 0 then some (.chrd (fld w 8 5))
    else if bitsAt w 13 19 = 1024 then some (.chbase (fld w 8 5))
    else none
  | 121 =>
    if bitsAt w 8 8 = 0 ∧ bitsAt w 21 11 = 0 then some (.chwait (fld w 16 5))
    else none
  | 122 =>
    if bitsAt w 8 8 = 0 ∧ bitsAt w 21 11 = 0 then some (.chslipHold (fld w 16 5))
    else if bitsAt w 8 8 = 0 ∧ bitsAt w 21 11 = 32 then some (.chslipSkip (fld w 16 5))
    else none
  | 123 =>
    if bitsAt w 26 6 = 0 then some (.tsend (fld w 8 4) (fld w 12 4) (fld w 16 5) (fld w 21 5))
    else if bitsAt w 8 8 = 0 ∧ bitsAt w 26 6 = 1 then some (.trecv (fld w 16 5) (fld w 21 5))
    else none
  | 125 =>
    if bitsAt w 8 24 = 0 then some (.eret)
    else if bitsAt w 8 24 = 32768 then some (.brk)
    else none
  | 127 =>
    some (.udf)
  | _ => none

/-- Three rows that are decoded beside the others: the runtime of this language builds a constructor with fields only among
the first 244 of a type, so the step runs these by their fields (`execTrap`, `execRpt`, `execSigck`) and `Late.instr` is for
statements. -/
inductive Late where
  /-- TRAP (R244). -/
  | trap (c : BitVec 7)
  /-- RPT (R307). -/
  | rpt (b : BitVec 5)
  /-- SIGCK (R247). -/
  | sigck (a : BitVec 5)
  deriving DecidableEq, Repr

/-- TRAP, RPT and SIGCK among the 32-bit encodings (Tables 9-9, 9-10). -/
def decodeLate (w : Nat) : Option Late :=
  if bitsAt w 0 1 ≠ 1 then none
  else if bitsAt w 1 7 = 123 ∧ bitsAt w 8 13 = 0 ∧ bitsAt w 26 6 = 2 then some (.rpt (fld w 21 5))
  else if bitsAt w 1 7 = 124 ∧ bitsAt w 8 10 = 0 ∧ bitsAt w 25 7 = 0 then some (.trap (fld w 18 7))
  else if bitsAt w 1 7 = 125 ∧ bitsAt w 8 5 = 0 ∧ bitsAt w 18 14 = 64 then some (.sigck (fld w 13 5))
  else none

/-- The instruction of a late row. -/
noncomputable def Late.instr : Late → Instr
  | .trap c => .trap c
  | .rpt b => .rpt b
  | .sigck a => .sigck a

/-- The 32-bit formats: the major opcode in bits [7:1] selects the layout (R134). -/
def decode32 (w : Nat) : Option Instr :=
  let maj := bitsAt w 1 7
  if maj < 0x20 then decodeScalar maj w
  else if maj < 0x48 then decodeVector maj w
  else if maj < 0x64 then decodeMemory maj w
  else decodeEngine maj w

/-- The Xaedq instructions of a Registrar hart (R385): R-type in custom-0, funct7 0. -/
noncomputable def decodeXaedq (w : Nat) : Option Instr :=
  if bitsAt w 0 7 ≠ 0x0B ∨ bitsAt w 25 7 ≠ 0 then none
  else match bitsAt w 12 3 with
  | 0 => some (.qfetch (fld w 7 5) (fld w 15 5) (fld w 20 5))
  | 1 => some (.xaedqBfx (fld w 7 5) (fld w 15 5) (fld w 20 5))
  | 2 => some (.xaedqBfxS (fld w 7 5) (fld w 15 5) (fld w 20 5))
  | 3 => some (.sigwait (fld w 7 5) (fld w 15 5) (fld w 20 5))
  | 4 => some (.dispatch (fld w 7 5) (fld w 15 5) (fld w 20 5))
  | _ => none

/-- The CIS word `w`, of 16 bits when its bit 0 is 0 and of 32 bits otherwise, as a well-formed instruction other than
TRAP, RPT and SIGCK. -/
def decodeMain (w : Nat) : Option Instr :=
  if bitsAt w 0 1 = 0 then some (decode16 w)
  else
    match decode32 w with
    | some i => if i.wellFormed then some i else none
    | none => none

/-- The CIS word `w` as a well-formed instruction. -/
noncomputable def decodeWord (w : Nat) : Option Instr :=
  match decodeMain w with
  | some i => some i
  | none => (decodeLate w).map Late.instr

/-- Parcel at the head of a byte sequence: little-endian (R1). -/
def parcelOf (b0 b1 : Byte) : Nat := b0.toNat + 256 * b1.toNat

/-- Decodes the instruction at the head of a byte sequence and answers the rest (R131): total on any bytes, refusing
by name. -/
noncomputable def decode : List Byte → Except DecodeError (Instr × List Byte)
  | b0 :: b1 :: rest =>
    let p := parcelOf b0 b1
    if p % 2 = 0 then .ok (decode16 p, rest)
    else match rest with
      | b2 :: b3 :: rest' =>
        match decodeWord (p + 65536 * parcelOf b2 b3) with
        | some i => .ok (i, rest')
        | none => .error (.illegal (bitsAt p 1 7))
      | _ => .error .truncated
  | _ => .error .truncated

/-- Length in bytes (R131): 2 for the 16-bit format, 4 for every other instruction word. -/
def Instr.len : Instr → Nat
  | .vmov _ _ => 2
  | .vaddI32x16 _ _ => 2
  | .vsubI32x16 _ _ => 2
  | .vmulI32x16 _ _ => 2
  | .vandx16 _ _ => 2
  | .vorx16 _ _ => 2
  | .vxorx16 _ _ => 2
  | .vshlI32x16 _ _ => 2
  | .vsraI32x16 _ _ => 2
  | .vminS32x16 _ _ => 2
  | .vmaxS32x16 _ _ => 2
  | .vfaddF32x16 _ _ => 2
  | .vfsubF32x16 _ _ => 2
  | .vfmulF32x16 _ _ => 2
  | .vfminF32x16 _ _ => 2
  | .vfmaxF32x16 _ _ => 2
  | _ => 4

/-- The word `rest` with the field `x` added at bit `lo`. -/
def pk {n : Nat} (x : BitVec n) (lo rest : Nat) : Nat := rest + x.toNat * 2 ^ lo

/-- The word of an instruction (Tables 9-1 to 9-10, Table 24-7): each field shifted to its low bit, summed with the fixed
bits. An operation or event without an encoding has the word 0. -/
def Instr.encode : Instr → Nat
  | .add d a b => pk b 18 (pk a 13 (pk d 8 0x1))
  | .sub d a b => pk b 18 (pk a 13 (pk d 8 0x3))
  | .mul d a b => pk b 18 (pk a 13 (pk d 8 0x5))
  | .mulh d a b => pk b 18 (pk a 13 (pk d 8 0x800005))
  | .mulhu d a b => pk b 18 (pk a 13 (pk d 8 0x1000005))
  | .div d a b => pk b 18 (pk a 13 (pk d 8 0x7))
  | .divu d a b => pk b 18 (pk a 13 (pk d 8 0x800007))
  | .rem d a b => pk b 18 (pk a 13 (pk d 8 0x1000007))
  | .remu d a b => pk b 18 (pk a 13 (pk d 8 0x1800007))
  | .and d a b => pk b 18 (pk a 13 (pk d 8 0x9))
  | .or d a b => pk b 18 (pk a 13 (pk d 8 0x800009))
  | .xor d a b => pk b 18 (pk a 13 (pk d 8 0x1000009))
  | .andn d a b => pk b 18 (pk a 13 (pk d 8 0x1800009))
  | .shl d a b => pk b 18 (pk a 13 (pk d 8 0xb))
  | .shr d a b => pk b 18 (pk a 13 (pk d 8 0x80000b))
  | .sra d a b => pk b 18 (pk a 13 (pk d 8 0x100000b))
  | .shli d a n => pk n 23 (pk a 13 (pk d 8 0x8000000b))
  | .shri d a n => pk n 23 (pk a 13 (pk d 8 0xa000000b))
  | .srai d a n => pk n 23 (pk a 13 (pk d 8 0xc000000b))
  | .slt d a b => pk b 18 (pk a 13 (pk d 8 0xd))
  | .sltu d a b => pk b 18 (pk a 13 (pk d 8 0x80000d))
  | .min d a b => pk b 18 (pk a 13 (pk d 8 0x100000d))
  | .max d a b => pk b 18 (pk a 13 (pk d 8 0x180000d))
  | .minu d a b => pk b 18 (pk a 13 (pk d 8 0x200000d))
  | .maxu d a b => pk b 18 (pk a 13 (pk d 8 0x280000d))
  | .clz d a => pk a 13 (pk d 8 0xf)
  | .ctz d a => pk a 13 (pk d 8 0x80000f)
  | .popc d a => pk a 13 (pk d 8 0x100000f)
  | .bfx d a p w x => pk x 30 (pk w 24 (pk p 18 (pk a 13 (pk d 8 0x11))))
  | .bfi d a p w => pk w 24 (pk p 18 (pk a 13 (pk d 8 0x13)))
  | .sel d a b c => pk c 23 (pk b 18 (pk a 13 (pk d 8 0x15)))
  | .addi d a i => pk i 18 (pk a 13 (pk d 8 0x17))
  | .andi d a i => pk i 18 (pk a 13 (pk d 8 0x19))
  | .ori d a i => pk i 18 (pk a 13 (pk d 8 0x1b))
  | .xori d a i => pk i 18 (pk a 13 (pk d 8 0x1d))
  | .lih d i => pk i 13 (pk d 8 0x1f)
  | .adda d a i => pk i 18 (pk a 13 (pk d 8 0x21))
  | .mova d a i => pk i 18 (pk a 13 (pk d 8 0x23))
  | .movsa d a i => pk i 18 (pk a 13 (pk d 8 0x25))
  | .setk k a => pk a 13 (pk k 8 0x27)
  | .getk d k => pk k 13 (pk d 8 0x29)
  | .mfs d n => pk n 18 (pk d 8 0x2b)
  | .mts a n => pk n 18 (pk a 13 0x2d)
  | .bc a b c o => pk o 21 (pk c 18 (pk b 13 (pk a 8 0x31)))
  | .j o => pk o 8 0x33
  | .jal o => pk o 8 0x35
  | .jr a => pk a 13 0x37
  | .bv m t jo => pk jo 21 (pk t 11 (pk m 8 0x39))
  | .jtv v n b jo => pk jo 23 (pk b 18 (pk n 14 (pk v 8 0x3b)))
  | .loopl a o => pk o 21 (pk a 8 0x3d)
  | .loopb a o => pk o 21 (pk a 8 0x3f)
  | .vmov d b => pk b 11 (pk d 5 0x0)
  | .vaddI32x16 d b => pk b 11 (pk d 5 0x2)
  | .vsubI32x16 d b => pk b 11 (pk d 5 0x4)
  | .vmulI32x16 d b => pk b 11 (pk d 5 0x6)
  | .vandx16 d b => pk b 11 (pk d 5 0x8)
  | .vorx16 d b => pk b 11 (pk d 5 0xa)
  | .vxorx16 d b => pk b 11 (pk d 5 0xc)
  | .vshlI32x16 d b => pk b 11 (pk d 5 0xe)
  | .vsraI32x16 d b => pk b 11 (pk d 5 0x10)
  | .vminS32x16 d b => pk b 11 (pk d 5 0x12)
  | .vmaxS32x16 d b => pk b 11 (pk d 5 0x14)
  | .vfaddF32x16 d b => pk b 11 (pk d 5 0x16)
  | .vfsubF32x16 d b => pk b 11 (pk d 5 0x18)
  | .vfmulF32x16 d b => pk b 11 (pk d 5 0x1a)
  | .vfminF32x16 d b => pk b 11 (pk d 5 0x1c)
  | .vfmaxF32x16 d b => pk b 11 (pk d 5 0x1e)
  | .vaddI32 d a b m => pk m 26 (pk b 20 (pk a 14 (pk d 8 0x41)))
  | .vaddS32 d a b m => pk m 26 (pk b 20 (pk a 14 (pk d 8 0x20000041)))
  | .vaddU32 d a b m => pk m 26 (pk b 20 (pk a 14 (pk d 8 0x40000041)))
  | .vsubI32 d a b m => pk m 26 (pk b 20 (pk a 14 (pk d 8 0x43)))
  | .vsubS32 d a b m => pk m 26 (pk b 20 (pk a 14 (pk d 8 0x20000043)))
  | .vsubU32 d a b m => pk m 26 (pk b 20 (pk a 14 (pk d 8 0x40000043)))
  | .vmulI32 d a b m => pk m 26 (pk b 20 (pk a 14 (pk d 8 0x45)))
  | .vmulhS32 d a b m => pk m 26 (pk b 20 (pk a 14 (pk d 8 0x20000045)))
  | .vmulhU32 d a b m => pk m 26 (pk b 20 (pk a 14 (pk d 8 0x40000045)))
  | .vmadI32 d a b m => pk m 26 (pk b 20 (pk a 14 (pk d 8 0x47)))
  | .vand d a b m => pk m 26 (pk b 20 (pk a 14 (pk d 8 0x49)))
  | .vor d a b m => pk m 26 (pk b 20 (pk a 14 (pk d 8 0x20000049)))
  | .vxor d a b m => pk m 26 (pk b 20 (pk a 14 (pk d 8 0x40000049)))
  | .vandn d a b m => pk m 26 (pk b 20 (pk a 14 (pk d 8 0x60000049)))
  | .vshlI32 d a b m => pk m 26 (pk b 20 (pk a 14 (pk d 8 0x4b)))
  | .vshrI32 d a b m => pk m 26 (pk b 20 (pk a 14 (pk d 8 0x2000004b)))
  | .vsraI32 d a b m => pk m 26 (pk b 20 (pk a 14 (pk d 8 0x4000004b)))
  | .vminS32 d a b m => pk m 26 (pk b 20 (pk a 14 (pk d 8 0x4d)))
  | .vmaxS32 d a b m => pk m 26 (pk b 20 (pk a 14 (pk d 8 0x2000004d)))
  | .vminU32 d a b m => pk m 26 (pk b 20 (pk a 14 (pk d 8 0x4000004d)))
  | .vmaxU32 d a b m => pk m 26 (pk b 20 (pk a 14 (pk d 8 0x6000004d)))
  | .vabsS32 d a m => pk m 26 (pk a 14 (pk d 8 0x4f))
  | .vnegI32 d a m => pk m 26 (pk a 14 (pk d 8 0x2000004f))
  | .vsel d a b s => pk s 26 (pk b 20 (pk a 14 (pk d 8 0x51)))
  | .vcmpS32 d a b m c => pk c 26 (pk m 23 (pk b 17 (pk a 11 (pk d 8 0x53))))
  | .vcmpU32 d a b m c => pk c 26 (pk m 23 (pk b 17 (pk a 11 (pk d 8 0x20000053))))
  | .vpopc d a m => pk m 26 (pk a 14 (pk d 8 0x55))
  | .vclz d a m => pk m 26 (pk a 14 (pk d 8 0x20000055))
  | .vbfxU32 d a s m => pk m 25 (pk s 20 (pk a 14 (pk d 8 0x57)))
  | .vbfxS32 d a s m => pk m 25 (pk s 20 (pk a 14 (pk d 8 0x10000057)))
  | .vaddiI32 d a m i => pk i 23 (pk m 20 (pk a 14 (pk d 8 0x59)))
  | .vshli d a m n => pk n 23 (pk m 20 (pk a 14 (pk d 8 0x5b)))
  | .vshri d a m n => pk n 23 (pk m 20 (pk a 14 (pk d 8 0x1000005b)))
  | .vsrai d a m n => pk n 23 (pk m 20 (pk a 14 (pk d 8 0x2000005b)))
  | .vmovs d s m => pk m 25 (pk s 20 (pk d 8 0x5d))
  | .vlane d m => pk m 25 (pk d 8 0x1000005d)
  | .vmovi d m i => pk i 23 (pk m 20 (pk d 8 0x5f))
  | .vfaddF32 d a b m => pk m 26 (pk b 20 (pk a 14 (pk d 8 0x61)))
  | .vfaddF16X2 d a b m => pk m 26 (pk b 20 (pk a 14 (pk d 8 0x20000061)))
  | .vfsubF32 d a b m => pk m 26 (pk b 20 (pk a 14 (pk d 8 0x63)))
  | .vfsubF16X2 d a b m => pk m 26 (pk b 20 (pk a 14 (pk d 8 0x20000063)))
  | .vfmulF32 d a b m => pk m 26 (pk b 20 (pk a 14 (pk d 8 0x65)))
  | .vfmulF16X2 d a b m => pk m 26 (pk b 20 (pk a 14 (pk d 8 0x20000065)))
  | .vfmaF32 d a b m => pk m 26 (pk b 20 (pk a 14 (pk d 8 0x67)))
  | .vfmaF16X2 d a b m => pk m 26 (pk b 20 (pk a 14 (pk d 8 0x20000067)))
  | .vfmsF32 d a b m => pk m 26 (pk b 20 (pk a 14 (pk d 8 0x69)))
  | .vfmsF16X2 d a b m => pk m 26 (pk b 20 (pk a 14 (pk d 8 0x20000069)))
  | .vfnmaF32 d a b m => pk m 26 (pk b 20 (pk a 14 (pk d 8 0x6b)))
  | .vfnmaF16X2 d a b m => pk m 26 (pk b 20 (pk a 14 (pk d 8 0x2000006b)))
  | .vfminF32 d a b m => pk m 26 (pk b 20 (pk a 14 (pk d 8 0x6d)))
  | .vfmaxF32 d a b m => pk m 26 (pk b 20 (pk a 14 (pk d 8 0x2000006d)))
  | .vfminF16X2 d a b m => pk m 26 (pk b 20 (pk a 14 (pk d 8 0x4000006d)))
  | .vfmaxF16X2 d a b m => pk m 26 (pk b 20 (pk a 14 (pk d 8 0x6000006d)))
  | .vfmaxlF16 d a b m => pk m 26 (pk b 20 (pk a 14 (pk d 8 0x8000006d)))
  | .vfminlF16 d a b m => pk m 26 (pk b 20 (pk a 14 (pk d 8 0xa000006d)))
  | .vfabsF32 d a m => pk m 26 (pk a 14 (pk d 8 0x6f))
  | .vfnegF32 d a m => pk m 26 (pk a 14 (pk d 8 0x2000006f))
  | .vfcopysignF32 d a b m => pk m 26 (pk b 20 (pk a 14 (pk d 8 0x4000006f)))
  | .vfabsF16X2 d a m => pk m 26 (pk a 14 (pk d 8 0x6000006f))
  | .vfnegF16X2 d a m => pk m 26 (pk a 14 (pk d 8 0x8000006f))
  | .vfcopysignF16X2 d a b m => pk m 26 (pk b 20 (pk a 14 (pk d 8 0xa000006f)))
  | .vfcmpF32 d a b m c => pk c 26 (pk m 23 (pk b 17 (pk a 11 (pk d 8 0x71))))
  | .vfrcpF32 d a m => pk m 26 (pk a 14 (pk d 8 0x73))
  | .vfrsqF32 d a m => pk m 26 (pk a 14 (pk d 8 0x20000073))
  | .vfrcpF16X2 d a m => pk m 26 (pk a 14 (pk d 8 0x40000073))
  | .vfrsqF16X2 d a m => pk m 26 (pk a 14 (pk d 8 0x60000073))
  | .vfdivF32 d a b m => pk m 26 (pk b 20 (pk a 14 (pk d 8 0x75)))
  | .vfsqrtF32 d a m => pk m 26 (pk a 14 (pk d 8 0x77))
  | .vcvt d a p m r => pk r 29 (pk m 26 (pk p 20 (pk a 14 (pk d 8 0x79))))
  | .vpackF16X2 d a b m => pk m 26 (pk b 20 (pk a 14 (pk d 8 0x7b)))
  | .vpackBf16x2 d a b m => pk m 26 (pk b 20 (pk a 14 (pk d 8 0x2000007b)))
  | .vpackE2M1X d a m => pk m 26 (pk a 14 (pk d 8 0x4000007b))
  | .vunpklF16 d a m => pk m 26 (pk a 14 (pk d 8 0x6000007b))
  | .vunpkhF16 d a m => pk m 26 (pk a 14 (pk d 8 0x8000007b))
  | .vunpklBf16 d a m => pk m 26 (pk a 14 (pk d 8 0xa000007b))
  | .vunpkhBf16 d a m => pk m 26 (pk a 14 (pk d 8 0xc000007b))
  | .setfmt a => pk a 13 0x7d
  | .getfmt d => pk d 8 0x80007d
  | .vfclassF32 d a m => pk m 26 (pk a 14 (pk d 8 0x7f))
  | .vfclassF16X2 d a m => pk m 26 (pk a 14 (pk d 8 0x2000007f))
  | .vshfl d a b m => pk m 26 (pk b 20 (pk a 14 (pk d 8 0x81)))
  | .vshfliXor d a m n => pk n 23 (pk m 20 (pk a 14 (pk d 8 0x83)))
  | .vshfliUp d a m n => pk n 23 (pk m 20 (pk a 14 (pk d 8 0x10000083)))
  | .vshfliDown d a m n => pk n 23 (pk m 20 (pk a 14 (pk d 8 0x20000083)))
  | .vbc d a s m => pk m 25 (pk s 20 (pk a 14 (pk d 8 0x85)))
  | .vballot d a m => pk m 23 (pk a 11 (pk d 8 0x87))
  | .voteAll d a m => pk m 23 (pk a 11 (pk d 8 0x89))
  | .voteAny d a m => pk m 23 (pk a 11 (pk d 8 0x20000089))
  | .voteNone d a m => pk m 23 (pk a 11 (pk d 8 0x40000089))
  | .voteUni d a m => pk m 23 (pk a 11 (pk d 8 0x60000089))
  | .vfirst d a m => pk m 26 (pk a 14 (pk d 8 0x8b))
  | .mand d a b => pk b 17 (pk a 11 (pk d 8 0x8d))
  | .mor d a b => pk b 17 (pk a 11 (pk d 8 0x400008d))
  | .mxor d a b => pk b 17 (pk a 11 (pk d 8 0x800008d))
  | .mnot d a => pk a 11 (pk d 8 0xc00008d)
  | .mandn d a b => pk b 17 (pk a 11 (pk d 8 0x1000008d))
  | .mmovs d a => pk a 13 (pk d 8 0x8f)
  | .mmovm d s => pk s 13 (pk d 8 0x80008f)
  | .mpopc d a => pk a 13 (pk d 8 0x100008f)
  | .vldc t n k m o i => pk i 28 (pk o 24 (pk m 21 (pk k 18 (pk n 14 (pk t 8 0x91)))))
  | .vstc t n k m o i => pk i 28 (pk o 24 (pk m 21 (pk k 18 (pk n 14 (pk t 8 0x93)))))
  | .vldg t n b m o => pk o 27 (pk m 24 (pk b 18 (pk n 14 (pk t 8 0x95))))
  | .vstg t n b m o => pk o 27 (pk m 24 (pk b 18 (pk n 14 (pk t 8 0x97))))
  | .vldb t n k m o i => pk i 28 (pk o 24 (pk m 21 (pk k 18 (pk n 14 (pk t 8 0x99)))))
  | .sld s n z x d => pk d 21 (pk x 20 (pk z 18 (pk n 13 (pk s 8 0x9b))))
  | .sst s n z d => pk d 21 (pk z 18 (pk n 13 (pk s 8 0x9d)))
  | .prfc n k m i => pk i 28 (pk m 21 (pk k 18 (pk n 14 0x9f)))
  | .sprec n k => pk k 18 (pk n 14 0xa1)
  | .spld t k m => pk m 21 (pk k 18 (pk t 8 0xa3))
  | .spst t k m => pk m 21 (pk k 18 (pk t 8 0xa5))
  | .atomvAddI32 o t a n s r => pk r 31 (pk s 24 (pk n 20 (pk a 14 (pk t 8 (pk o 1 0xa9)))))
  | .atomvAddF32 o t a n s r => pk r 31 (pk s 24 (pk n 20 (pk a 14 (pk t 8 (pk o 1 0x80000a9)))))
  | .atomvMinS32 o t a n s r => pk r 31 (pk s 24 (pk n 20 (pk a 14 (pk t 8 (pk o 1 0x100000a9)))))
  | .atomvMaxS32 o t a n s r => pk r 31 (pk s 24 (pk n 20 (pk a 14 (pk t 8 (pk o 1 0x180000a9)))))
  | .atomvMinU32 o t a n s r => pk r 31 (pk s 24 (pk n 20 (pk a 14 (pk t 8 (pk o 1 0x200000a9)))))
  | .atomvMaxU32 o t a n s r => pk r 31 (pk s 24 (pk n 20 (pk a 14 (pk t 8 (pk o 1 0x280000a9)))))
  | .atomvAnd o t a n s r => pk r 31 (pk s 24 (pk n 20 (pk a 14 (pk t 8 (pk o 1 0x300000a9)))))
  | .atomvOr o t a n s r => pk r 31 (pk s 24 (pk n 20 (pk a 14 (pk t 8 (pk o 1 0x380000a9)))))
  | .atomvXor o t a n s r => pk r 31 (pk s 24 (pk n 20 (pk a 14 (pk t 8 (pk o 1 0x400000a9)))))
  | .atomvXchg o t a n s r => pk r 31 (pk s 24 (pk n 20 (pk a 14 (pk t 8 (pk o 1 0x480000a9)))))
  | .atomvCas o t a n s r => pk r 31 (pk s 24 (pk n 20 (pk a 14 (pk t 8 (pk o 1 0x500000a9)))))
  | .atomvMaxlF16 o t a n s r => pk r 31 (pk s 24 (pk n 20 (pk a 14 (pk t 8 (pk o 1 0x580000a9)))))
  | .atomvMinlF16 o t a n s r => pk r 31 (pk s 24 (pk n 20 (pk a 14 (pk t 8 (pk o 1 0x600000a9)))))
  | .atomvAddI64 o t a n s r => pk r 31 (pk s 24 (pk n 20 (pk a 14 (pk t 8 (pk o 1 0x680000a9)))))
  | .atomsAddI32 o d a n s r => pk r 31 (pk s 24 (pk n 20 (pk a 14 (pk d 8 (pk o 1 0xb1)))))
  | .atomsAddF32 o d a n s r => pk r 31 (pk s 24 (pk n 20 (pk a 14 (pk d 8 (pk o 1 0x80000b1)))))
  | .atomsMinS32 o d a n s r => pk r 31 (pk s 24 (pk n 20 (pk a 14 (pk d 8 (pk o 1 0x100000b1)))))
  | .atomsMaxS32 o d a n s r => pk r 31 (pk s 24 (pk n 20 (pk a 14 (pk d 8 (pk o 1 0x180000b1)))))
  | .atomsMinU32 o d a n s r => pk r 31 (pk s 24 (pk n 20 (pk a 14 (pk d 8 (pk o 1 0x200000b1)))))
  | .atomsMaxU32 o d a n s r => pk r 31 (pk s 24 (pk n 20 (pk a 14 (pk d 8 (pk o 1 0x280000b1)))))
  | .atomsAnd o d a n s r => pk r 31 (pk s 24 (pk n 20 (pk a 14 (pk d 8 (pk o 1 0x300000b1)))))
  | .atomsOr o d a n s r => pk r 31 (pk s 24 (pk n 20 (pk a 14 (pk d 8 (pk o 1 0x380000b1)))))
  | .atomsXor o d a n s r => pk r 31 (pk s 24 (pk n 20 (pk a 14 (pk d 8 (pk o 1 0x400000b1)))))
  | .atomsXchg o d a n s r => pk r 31 (pk s 24 (pk n 20 (pk a 14 (pk d 8 (pk o 1 0x480000b1)))))
  | .atomsCas o d a n s r => pk r 31 (pk s 24 (pk n 20 (pk a 14 (pk d 8 (pk o 1 0x500000b1)))))
  | .atomsMaxlF16 o d a n s r => pk r 31 (pk s 24 (pk n 20 (pk a 14 (pk d 8 (pk o 1 0x580000b1)))))
  | .atomsMinlF16 o d a n s r => pk r 31 (pk s 24 (pk n 20 (pk a 14 (pk d 8 (pk o 1 0x600000b1)))))
  | .atomsAddI64 o d a n s r => pk r 31 (pk s 24 (pk n 20 (pk a 14 (pk d 8 (pk o 1 0x680000b1)))))
  | .binit n b w => pk w 23 (pk b 18 (pk n 13 0xb9))
  | .barv n r => pk r 23 (pk n 13 0xbb)
  | .barx n b r => pk r 23 (pk b 18 (pk n 13 0x10000bb))
  | .btry d n b => pk b 18 (pk n 13 (pk d 8 0x20000bb))
  | .bwait n b => pk b 18 (pk n 13 0xbd)
  | .barg => 0xbf
  | .waitc n b c w => pk w 26 (pk c 23 (pk b 18 (pk n 13 0xc1)))
  | .fence s => pk s 23 0xc3
  | .fenceSc => 0x28000c3
  | .fwaitc => 0xc5
  | .yield => 0xc7
  | .qend => 0x8000c7
  | .dispre => 0x10000c7
  | .enpre => 0x18000c7
  | .exit => 0x20000c7
  | .acq d a => pk a 13 (pk d 8 0xc9)
  | .acrel a b => pk b 18 (pk a 13 0xcb)
  | .aczero h s m => pk m 24 (pk s 12 (pk h 8 0xcd))
  | .acrd h s n k m => pk m 24 (pk k 21 (pk n 17 (pk s 12 (pk h 8 0xcf))))
  | .acwr h s n k m => pk m 24 (pk k 21 (pk n 17 (pk s 12 (pk h 8 0xd1))))
  | .accvt h s n k m => pk m 24 (pk k 21 (pk n 17 (pk s 12 (pk h 8 0xd3))))
  | .ldsw h n k t e => pk e 29 (pk t 27 (pk k 21 (pk n 17 (pk h 8 0xd5))))
  | .swapw h => pk h 8 0x800000d5
  | .mma h s n k m t o e => pk e 29 (pk o 28 (pk t 27 (pk m 24 (pk k 21 (pk n 17 (pk s 12 (pk h 8 0xd7)))))))
  | .fwait h => pk h 13 0xd9
  | .ftest d h => pk h 13 (pk d 8 0xdb)
  | .fcancel h => pk h 13 0xdd
  | .fmov d a => pk a 13 (pk d 8 0xdf)
  | .fbind d a => pk a 13 (pk d 8 0x8000df)
  | .dhset a b => pk b 18 (pk a 13 0xe1)
  | .dhwait a => pk a 13 0x8000e1
  | .dhget d a => pk a 13 (pk d 8 0x10000e1)
  | .dhrel a => pk a 13 0x18000e1
  | .wptr d h b => pk b 18 (pk h 13 (pk d 8 0xe3))
  | .cpyq h n a b => pk b 21 (pk a 16 (pk n 12 (pk h 8 0xe9)))
  | .pub n b => pk b 21 (pk n 12 0xeb)
  | .opbeg b => pk b 21 0xed
  | .oparg n a b => pk b 21 (pk a 16 (pk n 12 0x40000ed))
  | .opend h n b => pk b 21 (pk n 12 (pk h 8 0x80000ed))
  | .lnch h n => pk n 12 (pk h 8 0xef)
  | .chrd d => pk d 8 0xf1
  | .chbase d => pk d 8 0x8000f1
  | .chwait a => pk a 16 0xf3
  | .chslipHold a => pk a 16 0xf5
  | .chslipSkip a => pk a 16 0x40000f5
  | .tsend h n a b => pk b 21 (pk a 16 (pk n 12 (pk h 8 0xf7)))
  | .trecv a b => pk b 21 (pk a 16 0x40000f7)
  | .rpt b => pk b 21 0x80000f7
  | .trap c => pk c 18 0xf9
  | .eret => 0xfb
  | .brk => 0x8000fb
  | .sigck a => pk a 13 0x10000fb
  | .udf => 0xff
  | .resultLand => 0
  | .farValueLand _ => 0
  | .farAccessEffect _ => 0
  | .quantumCommit _ => 0
  | .pubExchange _ _ _ => 0
  | .heartbeatTick _ => 0
  | .teamStart _ _ _ => 0
  | .gridRetire _ _ => 0
  | .quantumTimeLimit _ => 0
  | .preemptionTimeLimit _ => 0
  | .dispreWindowLapse _ => 0
  | .operatorWindowLapse _ => 0
  | .contextSave _ => 0
  | .autoResume _ => 0
  | .treeFaultStop _ => 0
  | .matrixOpComplete _ _ => 0
  | .ldswLoadStart _ _ => 0
  | .copy _ => 0
  | .fill _ => 0
  | .level _ => 0
  | .coll _ => 0
  | .sectorDelivery _ => 0
  | .sharedQueueConsume _ _ _ => 0
  | .tsendFlitSend _ _ => 0
  | .trecvCheck _ => 0
  | .slip => 0
  | .driftMeasurement _ => 0
  | .parentPortFailure => 0
  | .flitArrival _ _ _ => 0
  | .flitEffect _ => 0
  | .abortToken _ _ => 0
  | .epochReport _ _ _ => 0
  | .restartDeadline => 0
  | .restartToken _ _ _ => 0
  | .ack _ _ _ => 0
  | .flowResendTimeout _ _ => 0
  | .runWrite _ _ _ _ _ _ _ _ => 0
  | .runSumF32 _ _ _ _ _ _ _ _ => 0
  | .runSumI32 _ _ _ _ _ _ _ _ => 0
  | .runMaxS32 _ _ _ _ _ _ _ _ => 0
  | .runAddI64 _ _ _ _ _ => 0
  | .atomreply _ _ _ _ => 0
  | .releaseNotice _ _ => 0
  | .revokeNotice _ _ => 0
  | .chorusTaskDispatch _ => 0
  | .chorusMemberTimeout _ => 0
  | .operatorAccept _ => 0
  | .grade _ => 0
  | .gradeDeadline _ => 0
  | .replayStart _ => 0
  | .slotFetch _ _ => 0
  | .slotRecheck _ _ => 0
  | .queueSweep => 0
  | .slotNop _ _ _ => 0
  | .slotLaunch _ _ _ => 0
  | .slotLaunchInd _ _ _ => 0
  | .slotEngine _ _ _ => 0
  | .slotSqreg _ _ _ => 0
  | .slotRegrade _ _ _ => 0
  | .slotResume _ _ _ => 0
  | .dbgHalt _ _ _ => 0
  | .dbgContinue _ _ _ => 0
  | .dbgStep _ _ _ => 0
  | .dbgDeliver _ _ _ => 0
  | .dbgReadctx _ _ _ => 0
  | .dbgWritectx _ _ _ => 0
  | .dbgOpen _ _ _ => 0
  | .dbgClose _ _ _ => 0
  | .dbgFaults _ _ _ => 0
  | .kick _ _ _ => 0
  | .gradecons _ _ => 0
  | .hostRdmaRead _ _ _ _ => 0
  | .hostRdmaWrite _ _ _ _ => 0
  | .qfetch d s t => pk t 20 (pk s 15 (pk d 7 0xb))
  | .xaedqBfx d s t => pk t 20 (pk s 15 (pk d 7 0x100b))
  | .xaedqBfxS d s t => pk t 20 (pk s 15 (pk d 7 0x200b))
  | .sigwait d s t => pk t 20 (pk s 15 (pk d 7 0x300b))
  | .dispatch d s t => pk t 20 (pk s 15 (pk d 7 0x400b))
  | .quote _ _ => 0
  | .nonce _ _ => 0
  | .unlock _ _ => 0
  | .provision _ _ => 0
  | .lifecycle _ _ => 0
  | .desknew _ _ => 0
  | .deskset _ _ => 0
  | .deskdel _ _ => 0
  | .domjoin _ _ => 0
  | .domleave _ _ => 0
  | .shutdown _ _ => 0
  | .faultrd _ _ => 0
  | .logrd _ _ => 0
  | .fwchunk _ _ => 0
  | .fwcommit _ _ => 0
  | .receipt _ _ => 0
  | .powerOn => 0
  | .powerRemoval => 0
  | .undervoltageTurnoff => 0
  | .supplyDroop => 0
  | .powerMeasurement _ => 0
  | .throttlePoint _ => 0
  | .throttleRecovery _ => 0
  | .tripPoint _ => 0
  | .logbookWrite => 0
  | .infieldTestDue _ _ => 0
  | .infieldTestComplete _ _ _ _ => 0
  | .forcedSaveSecondPeriod _ => 0
  | .testOverdue _ _ => 0

/-- The bytes of a number, `n` of them, least significant first (R1). -/
def leBytes : Nat → Nat → List Byte
  | 0, _ => []
  | n + 1, w => BitVec.ofNat 8 w :: leBytes n (w / 256)

/-- The parcel bytes of an instruction, lowest address first (R1, R387). -/
def Instr.bytes (i : Instr) : List Byte := leBytes i.len i.encode

/-- The instruction the decoder reads from a word of the opcode table: a CIS word; a word that CIS refuses is read as an
Xaedq word of a Registrar hart (R385), whose encodings lie in another instruction set and overlap CIS major 0x05. -/
noncomputable def decodeTableWord (nbits w : Nat) : Option Instr :=
  if nbits ≤ 16 then
    match decode (leBytes 2 w) with
    | .ok (i, _) => some i
    | .error _ => none
  else
    match decode (leBytes 4 w) with
    | .ok (i, _) => some i
    | .error _ => decodeXaedq w

end Sys2Proof
end

