-- ==== Sys2Proof/Machine/Store.lean ====
section
/-! DEFINITION. Sparse storage by number: register files, memories and tables of records are lists of (key, value) pairs in
one canonical form. -/

/-- Puts an element before the first one it does not come after. -/
def List.insertBy {α : Type} (le : α → α → Bool) (x : α) : List α → List α
  | [] => [x]
  | y :: r => if le x y then x :: y :: r else y :: List.insertBy le x r

/-- Sorts a list, keeping the order of elements that rank alike. -/
def List.sortBy {α : Type} (xs : List α) (le : α → α → Bool) : List α := xs.foldr (List.insertBy le) []

namespace Sys2Proof.Machine

/-- A sparse map from numbers: a key that is not listed holds the map's default value. -/
abbrev Store (α : Type) := List (Nat × α)

/-- The value at a key; an unlisted key holds `d`. -/
def Store.get {α : Type} (d : α) : Store α → Nat → α
  | [], _ => d
  | (k, x) :: r, i => if k = i then x else Store.get d r i

/-- Lists the pair (k, x) in its place, replacing what the key held. -/
def Store.insert {α : Type} (k : Nat) (x : α) : Store α → Store α
  | [] => [(k, x)]
  | (j, y) :: r =>
    if k < j then (k, x) :: (j, y) :: r
    else if k = j then (k, x) :: r
    else (j, y) :: Store.insert k x r

/-- Takes a key off the list. -/
def Store.erase {α : Type} (k : Nat) : Store α → Store α
  | [] => []
  | (j, y) :: r => if j = k then Store.erase k r else (j, y) :: Store.erase k r

/-- Writes a value at a key; writing the default value removes the entry. -/
def Store.put {α : Type} [DecidableEq α] (d : α) (st : Store α) (k : Nat) (x : α) : Store α :=
  if x = d then st.erase k else st.insert k x

/-- The canonical form: keys strictly rising, and no entry equal to the default. -/
def Store.canon {α : Type} [DecidableEq α] (d : α) : Store α → Bool
  | [] => true
  | [(_, x)] => decide (x ≠ d)
  | (k, x) :: (j, y) :: r => decide (x ≠ d) && decide (k < j) && Store.canon d ((j, y) :: r)

/-- Writes a run of values from key `k` upwards. -/
def Store.puts {α : Type} [DecidableEq α] (d : α) (st : Store α) (k : Nat) : List α → Store α
  | [] => st
  | x :: xs => Store.puts d (st.put d k x) (k + 1) xs

/-- Reads `n` values from key `k` upwards. -/
def Store.gets {α : Type} (d : α) (st : Store α) (k : Nat) : Nat → List α
  | 0 => []
  | n + 1 => st.get d k :: Store.gets d st (k + 1) n

end Sys2Proof.Machine
end

