-- ==== Sys2Proof/Machine/State.lean ====
section
/-! DEFINITION. The state of the machine: everything the spec gives one package (INVENTORY.md, heading State, lists every
piece with its rule and its reset value), as plain data. -/

namespace Sys2Proof.Machine

/-! ## How a step can stop -/

/-- Device-level stops. A fault of a wave (14_traps.md R236) is none of these: it is a next state. -/
inductive Fault where
  /-- Raised by the meaning of an event of the device when the state holds nothing the event could act on (a commit of a
  quantum that is still open, a completion of an operation that is not queued). The device never performs such an event and
  `step` never asks for one; only an event placed in the inbox can. Safe: the model stops. -/
  | noOccasion
  deriving DecidableEq, Repr

/-- Refusals by name. -/
inductive Refusal where
  /-- An instruction without a meaning in this model, by its mnemonic. Safe: the model stops. -/
  | notModelled (mnemonic : String)
  deriving DecidableEq, Repr

/-! ## The wave (03_execution.md; 14_traps.md Table 14-5) -/

/-- What follows the delay slot of a branch (R148): control passes to one address, or the fragment splits (R56, R178) into
the groups listed, in service order, with the join given. It is the delay-slot marker of R252, and, kept by a handler, the
saved branch of R239 or the pending split of R241. -/
inductive After where
  | goto (target : Dword)
  | split (groups : List (Dword × Mask)) (join : Dword)
  deriving DecidableEq, Repr

/-- A fragment (R55): PC, lanes, join PC, FMT, the roll-call signature (R387) and the delay-slot marker, with the PC of its branch where that is not the
word before the slot (ERET to a slot that the handler named, R245). -/
structure Frag where
  pc : Dword := 0
  mask : Mask := 0
  join : Option Dword := none
  fmt : Word := 0
  sig : Word := 0
  after : Option After := none
  branch : Option Dword := none
  deriving DecidableEq, Repr

/-- A register a far access leaves pending (R147): a vector or a scalar register. -/
inductive Reg where
  | v (n : Nat)
  | s (n : Nat)
  deriving DecidableEq, Repr

/-- A register result: a destination and what lands there. Vector results carry the lanes they write; `bits` writes the bits `m` of a
mask register. -/
inductive Res where
  | vec (r : Nat) (xs : List (Nat × Word))
  | sca (r : Nat) (x : Dword)
  | adr (r : Nat) (x : Dword)
  | kmod (r : Nat) (x : Dword)
  | msk (r : Nat) (x : Word)
  | bits (r : Nat) (x m : Word)
  | hnd (r : Nat) (x : Option Nat)
  | two (a b : Res)
  deriving DecidableEq, Repr

/-- A result in flight (R62): the slot whose fragment issued it, the issue slots left until it lands, and the access that
still owes its value (C-mode near loads), if any. -/
structure Flight where
  slot : Bool
  left : Nat
  res : Res
  acc : Option Nat := none
  /-- A near acquire of C-mode, whose value later accesses wait for (R215). -/
  acq : Bool := false
  deriving DecidableEq, Repr

/-- A far load or atomic under way (R65, R213): the registers it leaves pending, its result, the quantum at whose commit an
L-mode atomic returns, the chorus count at which it lands once known, the fault it met (R216), the quantum it was issued in. -/
structure Far where
  id : Nat
  pend : List Reg
  res : List Res := []
  quantum : Option Nat := none
  due : Option Nat := none
  err : Option (Nat × Dword) := none
  pc : Dword := 0
  acq : Bool := false
  issued : Nat := 0
  deriving DecidableEq, Repr

/-- What a wave waits for at a switch point (Table 3-2). -/
inductive Wait where
  /-- Nothing: the wave may issue. -/
  | none
  /-- The commit of every quantum below `n` (R47). -/
  | commit (n : Nat)
  /-- The phase `p` of the barrier object at slice key `key` (R228). -/
  | phase (key p : Nat)
  /-- A remote arrival that has not been applied yet (R228). -/
  | arrival
  /-- The comparison of a monitor with the word at slice key `key` (R232). -/
  | word (key : Nat) (cnd : Nat) (wide : Bool) (b : Dword)
  /-- Generation `gen` of the grid's barrier (R231). -/
  | grid (gen : Nat)
  /-- A child grid's handle (R275). -/
  | child (h : Nat)
  deriving DecidableEq, Repr

/-- What an instruction that waits has already done: it is issued again and must not act twice. -/
inductive Ticket where
  /-- The condition waited for has held. -/
  | done
  /-- The arrival was applied in phase `p` (R228). -/
  | arrived (p : Nat)
  /-- The arrival is under way. -/
  | sent
  /-- The wave's quantum was ended for this instruction (R227, R285, R123). -/
  | ended
  /-- FENCE.SC drains the core (R123). -/
  | drain
  /-- FENCE.SC has drained and waits for the tick at this count (R123). -/
  | tick (at_ : Nat)
  /-- The wave waits in place in C-mode: the next instruction issues in the cycle in which this one retires (R275, R291). -/
  | waiting
  deriving DecidableEq, Repr

/-- A stream-pattern slot (R220). -/
structure Pat where
  base : Dword := 0
  lstr : Word := 0
  astr : Word := 0
  count : Word := 0
  i : Word := 0
  cur : Dword := 0
  valid : Bool := false
  deriving DecidableEq, Repr

/-- One argument of an operator (R294): role, number within the role, range, element format. -/
structure OpArg where
  role : Nat
  num : Nat
  addr : Nat
  len : Nat
  efmt : Nat
  deriving DecidableEq, Repr

/-- The open operator of a wave (R293, R297). -/
structure OpenOp where
  cls : Nat
  args : List OpArg := []
  retired : Nat := 0
  deriving DecidableEq, Repr

/-- Accounting of one REJOIN entry (R389): depth of the entry, its join and mask, lanes arrived, lanes that arrived twice, lanes outside the mask,
lanes that exited since the push. -/
structure JoinAcct where
  level : Nat
  join : Dword
  mask : Mask
  arrived : Mask := 0
  twice : Mask := 0
  outside : Mask := 0
  exited : Mask := 0
  deriving DecidableEq, Repr

/-- The restart record of a wave (R307); `off` is the offset from %base at which it was made, `ended` that the wave has
ended since. -/
structure Restart where
  epoch : Nat
  off : Nat
  pc : Dword
  live : Mask := 0
  s : Store Dword := []
  a : Store Dword := []
  k : Store Dword := []
  m : Store Word := []
  fmt : Word := 0
  sig : Word := 0
  lcnt : Dword := 0
  loopStart : Dword := 0
  loopEnd : Dword := 0
  pats : Store Pat := []
  opSeq : Nat := 0
  deriving DecidableEq, Repr

/-- Where a wave stands: no wave; issuing or waiting; ended (R57); stopped by a fault (R242) or at an instruction boundary
by a debug stop or a save (R248, R70). -/
inductive Status where
  | idle | live | ended | faulted | stopped
  deriving DecidableEq, Repr

/-- A fault of an instruction (R236 to R238): code, lanes (none: the fragment's mask), %faddr, %fdat, the timing class (R108), and
the DETAIL of a join check (R389). -/
structure Flt where
  code : Nat
  lanes : Option Mask := none
  addr : Dword := 0
  fdat : Dword := 0
  tcls : Bool := false
  detail : Nat := 0
  pc : Option Dword := none
  deriving DecidableEq, Repr

/-- One wave with all its registers. Vector registers are keyed 32 × register + lane. -/
structure Wave where
  status : Status := .idle
  tree : Nat := 0
  grid : Nat := 0
  core : Nat := 0
  slot : Nat := 0
  team : Nat := 0
  tw : Nat := 0
  wpt : Nat := 1
  tbase : Dword := 0
  v : Store Word := []
  s : Store Dword := []
  a : Store Dword := []
  k : Store Dword := []
  m : Store Word := []
  h : Store (Option Nat) := []
  slotA : Option Frag := none
  slotB : Option Frag := none
  cur : Bool := false
  launched : Mask := 0
  live : Mask := 0
  depth : Nat := 0
  joins : List JoinAcct := []
  flight : List Flight := []
  far : List Far := []
  fc : Dword := 0
  fflags : Word := 0
  lcnt : Dword := 0
  loopStart : Dword := 0
  loopEnd : Dword := 0
  fault : Dword := 0
  faddr : Dword := 0
  epc : Dword := 0
  etgt : Dword := 0
  hpc : Dword := 0
  fdat : Dword := 0
  psplit : Option (Dword × After) := none
  pats : Store Pat := []
  wait : Wait := .none
  ticket : Option Ticket := none
  stalled : Bool := false
  parked : Bool := false
  qnt : Nat := 0
  retired : Nat := 0
  dispre : Option Nat := none
  op : Option OpenOp := none
  opSeq : Nat := 0
  epoch : Nat := 0
  records : List Restart := []
  errs : List Flt := []
  fwaited : Bool := false
  engErrs : List (Nat × Dword × Option Nat) := []
  sigmis : Option (Option Bool × Dword × Mask) := none
  faulted : Option (Nat × Dword × Mask) := none
  issueAt : Nat := 0
  latch : List (Nat × Nat) := []
  qdelay : Option Bool := none
  deriving DecidableEq, Repr

/-! ## Core, team, grid, tree -/

/-- A buffer-table entry (R130, Table 14-10): state 0 FREE, 1 FILLING, 2 FULL, 3 DRAINING; `since` is the count at which a sector
filled it. -/
structure Buf where
  state : Nat := 0
  count : Nat := 0
  expect : Nat := 0
  target : Nat := 0
  tree : Nat := 0
  since : Nat := 0
  deriving DecidableEq, Repr

/-- A handle-table entry (R274, Table 14-11): kind 0 free, 1 compute, 2 LDSW, 3 SWAPW, 4 CPYQ, 5 OPEND, 6 LNCH, 7 bound,
8 TSEND; state 0 incomplete, 1 complete, 2 cancelled, 3 complete with an error. -/
structure Handle where
  kind : Nat := 0
  state : Nat := 0
  code : Nat := 0
  addr : Dword := 0
  flags : Word := 0
  partA : Nat := 0
  partB : Nat := 0
  wid : Nat := 0
  quantum : Nat := 0
  waited : Bool := false
  wptr : Nat := 0
  total : Nat := 0
  comp : Nat := 0
  tree : Nat := 0
  deriving DecidableEq, Repr

/-- A weight plane (R260) with its descriptor (Table 14-9); `bytes` is the operand loaded, empty for all zero. -/
structure Plane where
  bytes : List Byte := []
  bfmt : Nat := 6
  scale : Nat := 0
  t : Bool := false
  src : Dword := 0
  k : Dword := 0
  loaded : Bool := false
  deriving DecidableEq, Repr

/-- The user of a slice bank in C-mode (R126): class 0 WV, 1 MS, 2 EN, 3 MX; logical core and %wave of a wave or sender, or
4 × engine + channel; the PC of the instruction. -/
structure User where
  cls : Nat
  place : Nat
  wave : Nat := 0
  sender : Bool := false
  pc : Nat := 0
  deriving DecidableEq, Repr

/-- Which matrix instruction an operation is (Table 16-2). -/
inductive MKind where
  | aczero | acrd | acwr | accvt | ldsw | swapw | mma
  deriving DecidableEq, Repr

/-- A matrix instruction under way (R264, R272): its handle, start, busy end and completion counts, operand range (slice
offsets `lo` to `hi`), tile, plane, rows, formats, the source bytes read so far, and the slice bytes it wrote that are not yet
attributed to a quantum (R265). -/
structure MatOp where
  id : Nat
  kind : MKind
  wid : Nat
  tree : Nat
  handle : Option Nat
  issue : Nat
  start : Nat
  busy : Nat
  comp : Nat
  e1 : Bool := false
  ow : Bool := false
  t : Bool := false
  base : Dword := 0
  k : Dword := 0
  len : Nat := 0
  lo : Nat := 0
  hi : Nat := 0
  bank : Nat := 0
  plane : Bool := false
  rows : Mask := 0
  fmt : Word := 0
  src : List (Nat × Byte) := []
  out : List (Nat × Byte) := []
  /-- Outside chorus mode, what stood in the slice where it wrote (R46, R265). -/
  under : List (Nat × Byte) := []
  words : List Word := []
  moved : Nat := 0
  applied : Bool := false
  quantum : Option Nat := none
  attributed : Bool := true
  bt : Bool := false
  acc : Nat := 0
  user : User := { cls := 3, place := 0 }
  deriving DecidableEq, Repr

/-- One use of a bank in one count (R126): the word used, whether a plain read, and the access. -/
structure Claim where
  at_ : Nat
  bank : Nat
  word : Nat
  rd : Bool
  acc : Nat
  user : User
  deriving DecidableEq, Repr

/-- The core record of a restart epoch (R307). -/
structure CoreRec where
  epoch : Nat
  vgen : Word
  dgen : Word
  tags : Store Nat := []
  bufs : Store Buf := []
  plane0 : Plane := {}
  plane1 : Plane := {}
  active : Bool := false
  owners : List (Nat × Store Nat) := []
  deriving DecidableEq, Repr

/-- The loop buffer of a core (R182): the wave whose LOOPB loaded it, the body's start and last instruction, the loop's count, the body's bytes. -/
structure LoopBuf where
  wid : Nat
  start : Dword
  last : Dword
  count : Nat
  bytes : List Byte
  deriving DecidableEq, Repr

/-- A logical core of a desk. `awaits` holds, by launch tree, the quanta that must have committed before the core chooses a wave of the tree
again (R48). -/
structure Core where
  tree : Nat := 0
  vgen : Word := 1
  dgen : Word := 1
  bufs : Store Buf := []
  handles : Store Handle := []
  plane0 : Plane := {}
  plane1 : Plane := {}
  active : Bool := false
  ops : List MatOp := []
  tags : Store Nat := []
  sendBusy : Nat := 0
  loopBuf : Option LoopBuf := none
  running : Option Nat := none
  yielded : Option Nat := none
  awaits : Store Nat := []
  recs : List CoreRec := []
  claims : List Claim := []
  /-- Outside chorus mode, by bank, the first 8-count frame whose read-modify-write window no atomic has taken (R125, Table 7-6). -/
  windows : Store Nat := []
  testDue : Bool := false
  overdue : Bool := false
  deriving DecidableEq, Repr

/-- A resident team (R37, Table 14-13): its first wave slot, slice area, bank pool, and the bank owners (%tw + 1; 0 none). -/
structure Team where
  tree : Nat
  grid : Nat
  core : Nat
  t : Nat
  j : Nat
  w0 : Nat
  w : Nat
  sbase : Nat
  s : Nat
  abase : Nat
  a : Nat
  owners : Store Nat := []
  deriving DecidableEq, Repr

/-- A grid (Table 14-7; R30 to R39). `next` counts, per logical core, the teams started; `gone` holds, under core × 2^32 + i,
the quantum after the one in which the core's i-th team retired. -/
structure Grid where
  ord : Nat := 0
  parent : Option Nat := none
  x : Nat := 1
  y : Nat := 1
  z : Nat := 1
  tl : Nat := 32
  w : Nat := 1
  p : Nat := 1
  s : Nat := 0
  a : Nat := 0
  depth : Nat := 0
  kidx : Nat := 0
  entry : Nat := 0
  fmt : Word := 0
  args : Option (List Dword) := none
  slice : List Byte := []
  firstQ : Nat := 0
  next : Store Nat := []
  gone : Store Nat := []
  ended : Nat := 0
  bargGen : Nat := 0
  bargIn : List Nat := []
  handle : Option (Nat × Nat) := none
  retired : Bool := false
  deriving DecidableEq, Repr

/-- How the words a load reads form its result: 32-bit lanes of a vector register; a scalar of `size` bytes, extended;
BTRY's answer about phase `p` (R228); or no result. -/
inductive LoadAs where
  | lanes (r : Nat)
  | scalar (r size : Nat) (sx : Bool)
  | btry (r p : Nat)
  /-- An atomic's 64-bit old values: a register pair per lane. -/
  | pairs (r : Nat)
  /-- The words are kept for the instruction that stalls on them (JTV's table R179, SPREC's record R220). -/
  | latch
  | nothing
  deriving DecidableEq, Repr

/-- What a pending commit record does (Table 14-12); addresses are virtual and are resolved when the record applies. -/
inductive Effect where
  /-- Bytes stored, by address. -/
  | store (bytes : List (Nat × Byte))
  /-- An atomic: operation, lanes with address, operand and compare value, where the old values go, the far access. -/
  | atomic (aop : Nat) (lanes : List (Nat × Nat × Dword × Dword)) (form : LoadAs) (acc : Nat)
  /-- A barrier arrival, with the bytes BARX adds. -/
  | arrive (key : Nat) (bytes : Option Dword)
  /-- BINIT of a remote object: its two words. -/
  | binit (key : Nat) (w0 w1 : Dword)
  /-- BARG's arrival. -/
  | barg
  | pub (addr len : Nat)
  /-- A CPYQ request: packet, channel key, handle entry, start. -/
  | engine (packet : List Byte) (chan : Nat) (handle : Option Nat) (start : Nat)
  /-- LNCH: the 64-byte record and the handle entry. -/
  | lnch (record : List Byte) (handle : Option Nat)
  | opbeg (cls : Nat)
  | oparg (arg : OpArg)
  /-- OPEND: the operator, its sequence number, the witness record, the handle entry. -/
  | opend (op : OpenOp) (seq : Nat) (record : List Byte) (handle : Option Nat)
  deriving DecidableEq, Repr

/-- A pending commit record (R45, R70). -/
structure Commit where
  q : Nat
  grid : Nat
  wave : Nat
  wid : Nat
  core : Nat
  eff : Effect
  /-- The PC of the instruction (R216). -/
  pc : Dword := 0
  /-- What AUX of Table 14-12 tells of it beyond the effect: the scope of an atomic, the .REL of an arrival. -/
  aux : Nat := 0
  deriving DecidableEq, Repr

/-- A C-mode access on its way, or the lanes of one that take effect together (R119), at `at_`. `owner` is the far access or result
in flight that receives its values. A load lists lane and address. -/
structure Access where
  id : Nat
  owner : Nat
  wid : Nat
  core : Nat
  at_ : Nat
  pc : Dword
  far : Bool
  eff : Option Effect := none
  load : List (Nat × Nat) := []
  form : LoadAs := .nothing
  /-- The chorus count at which the instruction issued. -/
  issued : Nat := 0
  deriving DecidableEq, Repr

/-- An access to a slice that serves only a chorus task, held at the core's mesh port until the task has ended or stopped (R127), in order of
arrival: a far load of L-mode, with the bytes it need not wait for, or a committed record of a launch tree with the quantum it was committed in. -/
inductive Waiting where
  | load (far wid core tree : Nat) (lanes : List (Nat × Nat)) (form : LoadAs) (known : List (Nat × Byte))
  | record (tree quantum : Nat) (r : Commit)
  | run (src chan seq op dest att exp : Nat) (coll : Option (Nat × Nat)) (mark : Dword) (payload : List Byte)
  deriving DecidableEq, Repr

/-- A bank conflict met when its uses were scheduled (R126): count, core, bank, word, and both accesses with their users. -/
structure Clash where
  at_ : Nat
  core : Nat
  bank : Nat
  word : Nat
  a : Nat
  b : Nat
  ua : User
  ub : User
  /-- Whether its fault has been raised: a conflict is one fault. -/
  raised : Bool := false
  deriving DecidableEq, Repr

/-- What an atomic of C-mode has changed while its bank window is open (R125, R126): the access, the count of the window's last cycle, the slice bytes
as they stood, by key, and the far access with the old values handed to it. -/
structure Undo where
  acc : Nat
  last : Nat
  bytes : List (Nat × Byte)
  far : Nat
  res : List Res
  deriving DecidableEq, Repr

/-- A fault a tree stops on (R242): quantum, logical core, %wave, code, and the entry's fields; `first` is the %wave of the first
requester of a bank conflict. -/
structure Raised where
  q : Nat
  core : Nat
  wave : Nat
  code : Nat
  detail : Nat := 0
  flags : Nat := 0
  pc : Nat := 0
  lanes : Mask := 0
  addr : Nat := 0
  kind : Nat := 1
  grid : Nat := 0
  first : Option Nat := none
  /-- The chorus count it was raised at. -/
  chc : Nat := 0
  deriving DecidableEq, Repr

/-- A fault that a debug session with stop-on-fault holds before it is delivered (R249): its wave, the fault, whether the instruction
retired (TRAP), the quantum it was raised in; and, of a fault that no instruction of a fragment raises (QTIME, SIGMIS at the last EXIT, an engine's
error after it), the record with which it stops the tree. -/
structure Held where
  wid : Nat
  flt : Flt
  ret : Bool := false
  q : Nat := 0
  stop : Option Raised := none
  deriving DecidableEq, Repr

/-- A kernel descriptor of a code object (15 R158; 09 R155 to R160). -/
structure Kernel where
  entry : Nat
  cmode : Bool := false
  q : Nat := 4096
  tl : Nat := 32
  x : Nat := 1
  y : Nat := 1
  z : Nat := 1
  s : Nat := 0
  a : Nat := 0
  fmt : Word := 0
  cores : Bool := false
  resv : Nat × Nat × Nat := (0, 0, 0)
  slice : List Byte := []
  deriving DecidableEq, Repr

/-- A code object (15, 09 R155 to R160): address of its image, kernels, pinned pages, stencil tables, the child kernels its
LNCH may name, collective groups. -/
structure CodeObj where
  desk : Nat
  addr : Nat
  len : Nat
  kernels : List Kernel
  pins : List Nat := []
  stencils : List (List Byte) := []
  groups : List Nat := []
  data : List (Nat × List Byte) := []
  dram : List (Nat × Nat) := []
  staging : List Nat := []
  deriving DecidableEq, Repr

/-- The parameters of a launch (Table 24-4, Table 17-5). -/
structure Launch where
  cobj : Nat := 0
  kidx : Nat := 0
  x : Nat := 0
  y : Nat := 0
  z : Nat := 0
  tl : Nat := 0
  fmtv : Option Word := none
  args : Option (List Dword) := none
  ctask : Nat := 0
  nmem : Nat := 0
  deriving DecidableEq, Repr


/-- A page in the pinned translation cache of a C-mode grid's cores (R108): its address, where its entry stands, the entry, its size. -/
structure Pin where
  va : Nat
  pte : Nat
  raw : Nat
  size : Nat
  deriving DecidableEq, Repr

/-- The slice area of a team that has retired from its core, kept until the commit of its last quantum makes its near effects visible
(R117): core, first byte, length, quantum; and the wave slots and banks it freed (R38, R49). -/
structure Leaving where
  core : Nat
  lo : Nat
  len : Nat
  q : Nat
  w0 : Nat := 0
  w : Nat := 0
  abase : Nat := 0
  a : Nat := 0
  deriving DecidableEq, Repr

/-- A launch tree (R34). `held` lists the faults a debug session holds, oldest first. -/
structure Tree where
  id : Nat
  desk : Nat
  cmode : Bool := false
  coRes : Bool := false
  n : Nat := 1
  q : Nat := 4096
  code : CodeObj
  launch : Launch := {}
  grids : List Grid := []
  nextOrd : Nat := 1
  committed : Nat := 0
  pend : List Commit := []
  base : Nat := 0
  started : Bool := false
  resv : Nat × Nat × Nat := (0, 0, 0)
  stop : Option (Nat × List Raised) := none
  debug : Bool := false
  held : List Held := []
  leaving : List Leaving := []
  save : Bool := false
  saveWhy : Nat := 0
  saveEpoch : Nat := 0
  noStart : Bool := false
  /-- A second pre-emption period has passed: a C-mode tree stops where it is and is saved at its last common epoch (R71). -/
  saveNow : Bool := false
  /-- A die of the tree has reached its throttle point since its save was asked for (R26). -/
  hot : Bool := false
  /-- A forced save did not fit: the tree keeps running and is not pre-empted until the desk's save area changes (R378). -/
  unsaved : Bool := false
  /-- A resumed L-mode tree whose pending records have still to commit: no wave of it issues before (R255). -/
  resuming : Bool := false
  /-- The commit of quantum `committed` has begun (R45): waits that come to hold are due to it. -/
  committing : Bool := false
  pins : List Pin := []
  manifest : List Byte := []
  mdig : List Byte := []
  vseed : Word := 1
  dseed : Word := 1
  eseed : Word := 0
  /-- Physical compute die of each logical die of the tree: its desk's (R17), but for a replay's (R362). -/
  dies : List Nat := List.range 4
  /-- Logical dies that a replay of the tree must move because a core of theirs failed its test (R397). -/
  moved : List Nat := []
  /-- Table slots of the tree's stencil tables, by logical die (R321). -/
  tslots : List (List Nat) := []
  slot : Option (Nat × Nat × Nat) := none
  replayOf : Option Nat := none
  attempt : Nat := 0
  ctask : Nat := 0
  dispatch : Nat := 0
  deriving DecidableEq, Repr

/-- A chorus task on this device (R329, R343 to R348, R376, R417). -/
structure CTask where
  id : Nat
  tag : Nat
  desk : Nat
  tree : Nat := 0
  lead : Nat
  members : List (Nat × Nat)
  nmem : Nat := 1
  dispatched : Bool := false
  base : Nat := 0
  att : Nat := 0
  abort : Option Nat := none
  reports : List (Nat × Nat × Nat) := []
  deadline : Nat := 0
  rewinds : Nat := 0
  lastE : Nat := 0
  passed : Bool := true
  failed : Bool := false
  since : Nat := 0
  deriving DecidableEq, Repr

/-- A saved launch tree (R378): everything its context image restores, the image's place and header, and whether the device still holds it
for its own resume. -/
structure Saved where
  tree : Tree
  teams : List Team
  waves : List Wave
  cores : Store Core
  slices : Store Byte
  slicesC : Store Byte
  accs : Store Word
  image : Nat × Nat
  nonce : Nat
  header : List Byte := []
  held : Bool := true
  task : Option CTask := none
  epoch : Nat := 0
  /-- Physical cores the tree was saved from (Table 14-8), by logical core. -/
  places : List Nat := []
  deriving DecidableEq, Repr

/-! ## Copy engines, links, chorus -/

/-- A request in a channel's queue: packet, requester, handle, start count (C-mode), completing slot (ENGINE), place in commit order, and its
ranges by lowest byte and end (R118; a source of no bytes for FILL). -/
structure EngReq where
  packet : List Byte
  desk : Nat
  tree : Nat := 0
  core : Option Nat := none
  wid : Nat := 0
  wave : Nat := 0
  handle : Option Nat := none
  start : Option Nat := none
  slot : Option (Nat × Nat × Nat) := none
  issued : Nat := 0
  grid : Nat := 0
  seq : Nat := 0
  src : Nat × Nat := (0, 0)
  dst : Nat × Nat := (0, 0)
  /-- Of a gathered COPY: table address, entries, row base, row stride, row bytes (R312); `src` is then the table. -/
  gath : Option (Nat × Nat × Nat × Int × Nat) := none
  deriving DecidableEq, Repr

/-- One destination sector of an operation (R129, R315): the destination bytes it writes, the source bytes they come from (COPY and COLL, in
the same order; LEVEL and FILL: none), the elements it holds (LEVEL, by number in delivery order), and the count at which it lands. -/
structure Sector where
  dst : List Nat
  src : List Nat := []
  elems : List Nat := []
  due : Nat := 0
  acc : Nat := 0
  deriving DecidableEq, Repr

/-- What a channel has still to issue, in order: a sector, or the table entry of a row of a gathered COPY (R418). -/
inductive Item where
  | sector (x : Sector)
  | row (i : Nat)
  deriving DecidableEq, Repr

/-- The operation a channel performs: its request, what it has still to issue, the sectors that await their source and those on their way
(C-mode), the source lines read and the counts at which lines are available (C-mode), the bytes delivered and in all (R314), the number of the last counted
sector, its ranges by lowest and highest byte (R118), the error met (R284), the first sector of a pair bound for another device, and the bytes on
their way there that have not landed (R339). -/
structure EngOp where
  req : EngReq
  items : List Item
  waiting : List Sector := []
  out : List Sector := []
  lines : List (Nat × List Byte) := []
  avail : List (Nat × Nat) := []
  lastAvail : Nat := 0
  lastDue : Nat := 0
  wptr : Nat := 0
  total : Nat := 0
  counted : Option Nat := none
  srcLo : Nat := 0
  srcHi : Nat := 0
  dstLo : Nat := 0
  dstHi : Nat := 0
  err : Option (Nat × Nat) := none
  exp : Nat := 0
  half : List (Nat × Byte) := []
  away : Nat := 0
  deriving DecidableEq, Repr

/-- An engine channel (R309): its queue of up to 16 packets, the requests whose delivery a full queue delays (R287), the operation it performs, the count at which the last one ended, and the shared queues registered
with it (desk, descriptor address). -/
structure Chan where
  queue : List EngReq := []
  delayed : List EngReq := []
  op : Option EngOp := none
  doneAt : Nat := 0
  shared : List (Nat × Nat) := []
  deriving DecidableEq, Repr

/-- A TSEND under way (R304): source, peer, tag; the link run that carries its current flits (R337); the first of its accesses to banks. -/
structure Send where
  id : Nat
  wid : Nat
  core : Nat
  tree : Nat
  handle : Option Nat
  start : Nat
  len : Nat
  src : Nat
  pdev : Nat
  pcore : Nat
  doff : Nat
  tag : Nat
  attempt : Nat
  run : Nat := 0
  accs : Nat := 0
  deriving DecidableEq, Repr

/-- A timed flit on its way to a slice of this device (R304, R339); one of a sector pair names its destination address, its operation, the
attempt its header carries and its mark (assumption log 14), and may be missing (R315): no bytes. -/
structure Flit where
  id : Nat
  at_ : Nat
  task : Nat
  attempt : Nat
  core : Nat
  off : Nat
  tag : Nat
  bytes : List Byte
  va : Option Nat := none
  op : Nat := 0
  att : Nat := 0
  mark : Dword := 0
  /-- Source device and export index of its header (R366). -/
  src : Nat := 0
  exp : Nat := 0
  deriving DecidableEq, Repr

/-- The run in progress on a receiving link (R336): its header, the flits still to come and those received (none for one that was dropped), the
payload's bytes and its mark (assumption log 14), and the run on the next link that forwards it (R339). -/
structure RunIn where
  kind : Nat
  left : Nat
  ddev : Nat
  sdev : Nat
  att : Nat
  tag : Nat
  dest : Nat
  flow : Nat
  task : Nat
  got : List (List Byte) := []
  count : Nat := 0
  mark : Dword := 0
  out : Nat := 0
  deriving DecidableEq, Repr

/-- An untimed run a source keeps until it is acknowledged (R340). -/
structure RunOut where
  dev : Nat
  chan : Nat
  seq : Nat
  op : Nat
  dest : Nat
  group : Nat
  att : Nat
  exp : Nat
  payload : List Byte
  deriving DecidableEq, Repr

/-- The sending side of a flow: next number, runs kept, resends without progress, deadline (R340); the old values
returned by the last 64 ADD.I64 runs (R342). -/
structure FlowOut where
  next : Nat := 0
  kept : List RunOut := []
  resends : Nat := 0
  deadline : Nat := 0
  replies : List (Nat × Dword) := []
  deriving DecidableEq, Repr

/-- The receiving side of a flow: lowest number not received, numbers received above it, the old values of its atomic runs (R341: those of an
ADD.I64 run are answered), and the number and the next address of the last run that gave way (R337). -/
structure FlowIn where
  low : Nat := 0
  got : List Nat := []
  cache : List (Nat × List Byte) := []
  cut : Option (Nat × Nat) := none
  deriving DecidableEq, Repr

/-- A flit handed to a port (R335): port and the 64 bytes, with the count and the check word. -/
structure FlitOut where
  port : Nat
  at_ : Nat
  control : Bool
  bytes : List Byte
  check : Word
  deriving DecidableEq, Repr

/-- A run that waits for a link or holds it (R337): whether it is timed, the ready count of its header, its source device and core (engine `e` as
1,024 + e), its header, the data flits handed over with their ready counts (none for one that was dropped on the way, R338), how many are still to
be sent, how many and with which header slot have been; an untimed run of a flow of this device, which takes its number as it goes out, or one that is
sent again under its number (R340); and, of a timed sector pair, its channel, bytes and address (R339). -/
structure LinkRun where
  id : Nat
  timed : Bool
  ready : Nat
  dev : Nat
  core : Nat := 0
  pdev : Nat := 0
  head : List Byte := []
  flits : List (Nat × Option (List Byte)) := []
  left : Nat := 0
  sent : Nat := 0
  slot : Nat := 0
  own : Option RunOut := none
  resent : Option RunOut := none
  pair : Option (Nat × Nat × Nat) := none
  deriving DecidableEq, Repr

/-- The sending side of an Eft link (R337): tokens and runs that wait, and the run that holds it. -/
structure Link where
  tokens : List (List Byte) := []
  runs : List LinkRun := []
  cur : Option LinkRun := none
  deriving DecidableEq, Repr

/-- Membership of a chorus domain (R328, R330, R334, R416), with the count of the last phase measurement (R331) and the number under which its path
lengths are drawn (R329, R416; assumption log 14). -/
structure Domain where
  dev : Nat
  root : Nat
  primary : Nat
  secondary : Nat
  inUse : Nat
  ports : List Nat
  routes : Store Nat := []
  locked : Bool := true
  measured : Nat := 0
  paths : Dword := 0
  deriving DecidableEq, Repr

/-! ## Desks, queues, Registrar -/

/-- A single step under way for a STEP command (R250): its slot, the wave, the fragment slots that have still to issue, the report's buffer,
and what stopped a fragment slot: its state and reason as the report codes them. -/
structure Stepping where
  queue : Nat
  index : Nat
  wid : Nat
  todo : List Bool := []
  buf : Nat := 0
  marks : List (Bool × Nat × Nat) := []
  deriving DecidableEq, Repr

/-- A desk (Table 24-1, R407); `records` lists the places of the completion records of its fetched slots (R365). -/
structure Desk where
  queues : Nat := 16
  asids : Nat := 1
  memLo : Nat := 0
  memLen : Nat := 0
  n : Nat := 88
  prio : Nat := 3
  preemptUs : Nat := 2000
  quantumUs : Nat := 50000
  spot : Option Nat := none
  deadlineUs : Nat := 100000
  unchecked : Bool := false
  gradeAddr : Nat := 0
  gradeSlots : Nat := 0
  debugOk : Bool := false
  saveAddr : Nat := 0
  saveLen : Nat := 0
  qbase : Nat := 0
  root : Nat := 0
  /-- Table roots of the ASIDs after the first (R103). -/
  roots : List Nat := []
  /-- Physical compute die of each logical die, and physical stack of each logical stack, as firmware fixed them at creation (R17, R106). -/
  dies : List Nat := List.range 4
  stackMap : List Nat := List.range 8
  /-- Physical core of each logical core (die × 96 + row × 12 + column), while the desk's cores are lent to it (R17, R369). -/
  places : List Nat := []
  vseed : Word := 0x2545F491
  dseed : Word := 0x6A09E667
  eseed : Word := 0x9E3779B9
  logged : Bool := false
  key : Option (List Byte) := none
  rkey : Word := 0
  stale : Nat := 0
  gradecons : Nat := 0
  gradeProd : Nat := 0
  gradeWait : List (List Byte) := []
  lastQueue : Nat := 4095
  held : Option Nat := none
  stopOnFault : Bool := false
  step : Option Stepping := none
  saveUse : List (Nat × Nat) := []
  groups : Store Nat := []
  records : List Nat := []
  deriving DecidableEq, Repr

/-- A queue as the Registrar keeps it (R371, R372, R381). -/
structure Queue where
  live : Bool := false
  ring : Nat := 0
  nslot : Nat := 0
  k : Nat := 0
  cons : Nat := 0
  deriving DecidableEq, Repr

/-- A fetched slot that is not complete (R373): its 256 bytes, whether started, trees launched and launches left, and the error of an
ENGINE slot's operation. -/
structure Slot where
  desk : Nat
  queue : Nat
  index : Nat
  bytes : List Byte
  started : Bool := false
  tree : Option Nat := none
  left : Nat := 0
  body : List Byte := []
  iter : Nat := 0
  err : Option Nat := none
  deriving DecidableEq, Repr

/-- A hart of the Registrar or an invigilator as Xaedq sees it (R385). -/
structure Hart where
  x : Store Dword := []
  mem : Store Byte := []
  pending : Dword := 0
  waiting : Bool := false
  mcause : Dword := 0
  mtval : Dword := 0
  mepc : Dword := 0
  mtvec : Dword := 0
  pc : Dword := 0
  queues : List (Nat × Nat) := []
  desks : List Nat := []
  lines : Dword := 0
  deriving DecidableEq, Repr

/-! ## Proctor -/

/-- A version of a staging page: desk, page address, VER, and which of the page's lives it belongs to: a launch that restarts VER (R157) and a desk
created anew begin another. -/
structure Version where
  desk : Nat
  page : Nat
  ver : Nat
  gen : Nat := 0
  deriving DecidableEq, Repr

/-- An operator record (R350) with its grading state; `vers` lists the versions of its arguments' pages, by argument, each with the number of times the
page had been cleared. -/
structure Oper where
  id : Nat
  desk : Nat
  tree : Nat
  grid : Nat
  wave : Nat
  seq : Nat
  cls : Nat
  args : List OpArg
  vers : List (Nat × Version × Nat)
  witness : List Byte
  core : Nat
  unit : Nat
  spot : Option Nat
  logged : Bool
  seed : List Byte
  deadline : Nat
  grade : Option Nat := none
  posted : Bool := false
  test : Nat := 0
  index : Nat := 0
  cls2 : Nat := 0
  root : Option Nat := none
  digests : List (List Byte) := []
  replayOf : Option Nat := none
  notice : Bool := false
  malformed : Bool := false
  unread : Bool := false
  deriving DecidableEq, Repr

/-- A fault-record entry (Table 26-1). -/
structure Entry where
  seq : Nat := 0
  chc : Nat := 0
  kind : Nat := 0
  code : Nat := 0
  unit : Nat := 0xFF
  flags : Nat := 0
  desk : Nat := 0xFFFF
  ploc : Nat := 0
  tree : Nat := 0
  wave : Nat := 0
  ord : Nat := 0
  pcoff : Nat := 0xFFFFFFFF
  addr : Nat := 0
  lanes : Nat := 0
  detail : Nat := 0
  deriving DecidableEq, Repr

/-- The Proctor and what survives power-off (R27, R392, R400, R404, R405). Which built cores a fresh part has fused off and which it holds as spares is
not in the spec: none is fused, and places 88 to 95 of each die are spares (DESIGN CHOICE, assumption log 4). -/
structure Proctor where
  ops : List Oper := []
  nextOp : Nat := 0
  revoked : List Version := []
  named : List Version := []
  released : List Version := []
  deps : List (Version × Nat × Nat) := []
  freed : List (Nat × Nat) := []
  /-- Exports of other devices that a revocation notice has named (R366). -/
  struck : List (Nat × Nat) := []
  /-- Exports (R366): index, the versions whose bytes went out under it, and the device; and how many there have been. -/
  exports : List (Nat × List Version × Nat) := []
  nextExport : Nat := 0
  /-- The versions that launch trees have published (R111, R362), with the tree. -/
  made : List (Version × Nat) := []
  /-- How often launches have restarted a page's VER, how often its frames were cleared, and how many desks of a number were destroyed. -/
  gens : Store Nat := []
  wipes : Store Nat := []
  deskGens : Store Nat := []
  /-- Trees to replay (R362), with the number of the operator whose REJECT asks for it. -/
  replays : List (Nat × Nat) := []
  /-- Ended trees whose operators may still be rejected. -/
  kept : List Tree := []
  ring : List Entry := []
  seq : Nat := 0
  counters : Store Nat := []
  logbook : List Entry := []
  stored : Store Nat := []
  storedLog : List Entry := []
  nonceS : Nat := 0
  nonce : Nat := 0
  lcs : Nat := 0
  unlocked : Bool := false
  scope : Nat := 0
  devid : List Byte := []
  authRsa : List Byte := []
  authSlh : List Byte := []
  svn : Nat := 0
  keys : Bool := false
  wkh : List Byte := []
  meas : List (List Byte) := []
  unonce : Option (List Byte × Nat) := none
  image : List Byte := []
  chunks : List (Nat × List Byte) := []
  charges : List (Nat × Nat) := []
  /-- The charges as the store holds them since the last write (R28, R364). -/
  storedCharges : List (Nat × Nat) := []
  /-- Powered seconds, soft errors on record and uncorrectable errors, as the store holds them since the last write (R28, R398, R399). -/
  storedSecs : Nat := 0
  storedCorr : List (Nat × Nat) := []
  storedUncorr : List (Nat × Nat) := []
  /-- Built cores (die × 96 + row × 12 + column) fused off at manufacture, held as spares, and retired; the others are enabled (R16, R364). -/
  fused : List Nat := []
  spares : List Nat := (List.range 4).flatMap fun d => (List.range 8).map fun i => d * 96 + 88 + i
  retired : List Nat := []
  /-- Compute dies retired whole (R364). -/
  deadDies : List Nat := []
  retireNext : List Nat := []
  granules : List Nat := []
  /-- Structures and stack channels with a corrected soft error on record, and the hour of powered time of the entry (R398). -/
  corrected : List (Nat × Nat) := []
  /-- Powered time, in seconds, of the last power-on, and of the last in-field test of each built core since (R393). -/
  onAt : Nat := 0
  tested : Store Nat := []
  uncorr : List (Nat × Nat) := []
  replies : List (List Byte) := []
  deriving DecidableEq, Repr

/-! ## The device -/

/-- Events of the device that fall due at a stated count. -/
inductive Event where
  | far (acc : Nat)
  | effect (acc : Nat)
  | tick (wid : Nat)
  /-- The check of a TRECV falls due (R305). -/
  | trecv (wid : Nat)
  /-- PUB's exchange; the wave and the count of its issue tell the operations it covers (R112). -/
  | pub (desk lo len wid issued : Nat)
  /-- A timed engine operation is due (R288). -/
  | start (chan : Nat)
  | matrix (core op : Nat)
  | unit (core op : Nat)
  | sector (chan : Nat)
  /-- A channel issues its next read (C-mode). -/
  | issue (chan : Nat)
  /-- A source line is read (C-mode). -/
  | line (chan line acc : Nat)
  /-- The next issued sector is available and its write begins (C-mode). -/
  | write (chan : Nat)
  /-- The table entry of a row is available (C-mode, R418). -/
  | entry (chan row : Nat)
  | send (send idx : Nat)
  | flit (flit : Nat)
  /-- A slot of an Eft link for which something waits (R335, R337). -/
  | slot (port : Nat)
  /-- Bytes of a timed sector pair land on another device (R339). -/
  | landed (chan n : Nat)
  | slip
  | resend (chan dev : Nat)
  | restartDeadline
  | abort (task count : Nat)
  | opAccept (core wid : Nat) (eff : Effect)
  /-- The phase measurement that falls due 2^22 cycles after the last (R331). -/
  | drift
  deriving DecidableEq, Repr

/-- A dated event. -/
structure Due where
  at_ : Nat
  ord : Nat
  ev : Event
  deriving DecidableEq, Repr

/-- The machine. `wave` is the wave that issues; `waves` the other resident ones. -/
structure State where
  /-- The Proctor has released the dies (R29). -/
  power : Bool := false
  /-- The 48 V input is applied (R23, R27). -/
  supply : Bool := true
  recovery : Bool := false
  chc : Nat := 0
  slip : Option (Nat × Bool) := none
  /-- The count of the last slip: no wave of the device issues there (R302). -/
  slipAt : Option Nat := none
  drift : Dword := 0
  /-- Powered time: whole seconds, and milliseconds beyond them. -/
  seconds : Nat := 0
  millis : Nat := 0
  throttled : List Nat := []
  gated : Bool := false
  shutdown : Option (Bool × Nat) := none
  wave : Wave := {}
  waves : List Wave := []
  teams : List Team := []
  trees : List Tree := []
  nextTree : Nat := 1
  saved : List Saved := []
  cores : Store Core := []
  slices : Store Byte := []
  slicesC : Store Byte := []
  accs : Store Word := []
  mem : List Host.Cell := []
  badLines : List Nat := []
  badWords : List Nat := []
  /-- Accumulator words with an uncorrectable error (R399). -/
  badBanks : List Nat := []
  accesses : List Access := []
  held : List Waiting := []
  clashes : List Clash := []
  /-- The atomics of C-mode whose bank windows are open. -/
  undo : List Undo := []
  nextAcc : Nat := 0
  calendar : List (Nat × Nat) := []
  chans : Store Chan := []
  stencils : Store (List Byte) := []
  sends : List Send := []
  flits : List Flit := []
  domain : Option Domain := none
  tasks : List CTask := []
  nextTask : Nat := 1
  runsIn : Store (Option RunIn) := []
  flowsOut : Store FlowOut := []
  flowsIn : Store FlowIn := []
  wire : List FlitOut := []
  links : Store Link := []
  /-- Tokens of tasks of other devices that this one has passed on (R344). -/
  relayed : List (List Byte) := []
  linkFree : Store Nat := []
  desks : Store (Option Desk) := []
  queues : Store Queue := []
  slots : List Slot := []
  /-- By priority, the desk whose slot was taken last; 1023 before any was (R380). -/
  lastDesk : Store Nat := []
  codes : List CodeObj := []
  /-- The harts that implement Xaedq (R385): 0 to 31 the Registrar's, 32 to 34 the Proctor's invigilators (assumption log 24). -/
  harts : Store Hart := []
  hart : Nat := 0
  hartWord : Option Nat := none
  nak : Bool := false
  rdma : List Byte := []
  proctor : Proctor := {}
  /-- In-field tests asked for or running (R393): physical die, place, and the logical core lent there. -/
  tests : List (Nat × Nat × Option Nat) := []
  /-- Built cores whose pending test is deferred, the deferral counted (R395, R396). -/
  deferrals : List Nat := []
  agenda : List Due := []
  nextOrd : Nat := 0
  inbox : List Instr := []
  /-- Frames for the management function that port 0 has received, oldest first (R413). -/
  mail : List (List Byte) := []
  turn : Nat := 0
  free : Nat := 0
  deriving DecidableEq, Repr

/-- The machine right after reset: the 48 V input is applied and POWER_ON has not run (R29); memory lists nothing. -/
def State.reset : State := { proctor := { meas := [List.replicate 48 0, List.replicate 48 0, List.replicate 48 0, List.replicate 48 0] } }

end Sys2Proof.Machine
end

