-- ==== Sys2Proof/Machine/Operands.lean ====
section
/-! DEFINITION. Registers and operand forms: reading and writing each kind of register, immediates, branch offsets, masks,
modulo addresses (09_encoding.md R135, R137; 11_isa_scalar.md R161, R171; 12_isa_vector.md R184; 13_isa_memory.md R211). -/

namespace Sys2Proof.Machine

/-- Scalar register `r`; s0 reads zero (R135). -/
def Wave.rs (w : Wave) (r : Nat) : Dword := if r = 0 then 0 else w.s.get 0 r
/-- Writes scalar register `r`; a write to s0 is discarded (R135). -/
def Wave.ws (w : Wave) (r : Nat) (x : Dword) : Wave := if r = 0 then w else { w with s := w.s.put 0 r x }
/-- Address register `r`. -/
def Wave.ra (w : Wave) (r : Nat) : Dword := w.a.get 0 r
/-- Writes address register `r`. -/
def Wave.wa (w : Wave) (r : Nat) (x : Dword) : Wave := { w with a := w.a.put 0 r x }
/-- Modulo register `r` as LEN : BASE; k0 reads zero (R135, R171). -/
def Wave.rk (w : Wave) (r : Nat) : Dword := if r = 0 then 0 else w.k.get 0 r
/-- Writes modulo register `r`; a write to k0 is discarded. -/
def Wave.wk (w : Wave) (r : Nat) (x : Dword) : Wave := if r = 0 then w else { w with k := w.k.put 0 r x }
/-- Mask register `r`; m0 reads all ones (R30, R135). -/
def Wave.rm (w : Wave) (r : Nat) : Mask := if r = 0 then 0xFFFFFFFF else w.m.get 0 r
/-- Writes mask register `r`; a write to m0 is discarded. -/
def Wave.wm (w : Wave) (r : Nat) (x : Mask) : Wave := if r = 0 then w else { w with m := w.m.put 0 r x }
/-- Handle register `r`; h0 names no operation (R274). -/
def Wave.rh (w : Wave) (r : Nat) : Option Nat := if r = 0 then none else w.h.get none r
/-- Writes handle register `r`; h0 keeps naming no operation. -/
def Wave.wh (w : Wave) (r : Nat) (x : Option Nat) : Wave := if r = 0 then w else { w with h := w.h.put none r x }
/-- Lane `l` of vector register `r`. -/
def Wave.rv (w : Wave) (r l : Nat) : Word := w.v.get 0 (32 * r + l)
/-- Writes lane `l` of vector register `r`. -/
def Wave.wv (w : Wave) (r l : Nat) (x : Word) : Wave := { w with v := w.v.put 0 (32 * r + l) x }
/-- Writes the lanes listed of vector register `r`. -/
def Wave.wvs (w : Wave) (r : Nat) : List (Nat × Word) → Wave
  | [] => w
  | (l, x) :: xs => (w.wv r l x).wvs r xs

/-- Lands a result in its register (R62). -/
def Wave.land1 (w : Wave) : Res → Wave
  | .vec r xs => w.wvs r xs
  | .sca r x => w.ws r x
  | .adr r x => w.wa r x
  | .kmod r x => w.wk r x
  | .msk r x => w.wm r x
  | .bits r x m => w.wm r ((w.rm r &&& ~~~ m) ||| (x &&& m))
  | .hnd r x => w.wh r x
  | .two a b => (w.land1 a).land1 b

/-- The fragment in the slot that issues (R55, R58). -/
def Wave.frag (w : Wave) : Option Frag := if w.cur then w.slotB else w.slotA
/-- Puts a fragment, or none, in a slot: false is A, true is B. -/
def Wave.setSlot (w : Wave) (x : Bool) (f : Option Frag) : Wave :=
  if x then { w with slotB := f } else { w with slotA := f }
/-- The fragment of a slot. -/
def Wave.getSlot (w : Wave) (x : Bool) : Option Frag := if x then w.slotB else w.slotA
/-- Replaces the issuing fragment. -/
def Wave.setFrag (w : Wave) (f : Frag) : Wave := w.setSlot w.cur (some f)

/-- Updates the issuing wave. -/
def State.upd (s : State) (f : Wave → Wave) : State := { s with wave := f s.wave }

/-- The lanes of a mask in ascending order. -/
def lanesOf (m : Mask) : List Nat := (List.range 32).filter fun l => m.getLsbD l
/-- The mask of a list of lanes. -/
def maskOf (ls : List Nat) : Mask := ls.foldl (fun m l => m ||| (1#32 <<< l)) 0

/-- The effective mask E of an instruction with mask operand `mk` (R55, R184). -/
def Wave.eff (w : Wave) (f : Frag) (mk : Nat) : Mask := f.mask &&& w.rm mk

/-- A result of the issuing fragment with exposed latency `lat` (R62, R145). -/
def State.result (s : State) (lat : Nat) (r : Res) : State :=
  s.upd fun w => { w with flight := w.flight ++ [{ slot := w.cur, left := lat, res := r }] }

/-- A branch target or join PC: the instruction's address plus twice the signed parcel offset (R137). -/
def target {n : Nat} (pc : Dword) (off : BitVec n) : Dword := pc + 2 * off.signExtend 64

/-- Low 32 bits of a 64-bit value. -/
def lo32 (x : Dword) : Word := x.setWidth 32
/-- BASE of a modulo register (R171). -/
def kBase (k : Dword) : Nat := k.toNat % 2 ^ 32
/-- LEN of a modulo register (R171). -/
def kLen (k : Dword) : Nat := k.toNat / 2 ^ 32

/-- Wrap of R211: the address `a` moved by `d` bytes under modulo register value `k`; none when `a` lies outside its region
(ALIGN). -/
def wrap (a k d : Dword) : Option Dword :=
  if kLen k = 0 then some (a + d)
  else
    let off := (a.toNat % 2 ^ 32 + 2 ^ 32 - kBase k) % 2 ^ 32
    if kLen k ≤ off then none
    else
      let m := (((off : Int) + d.toInt) % (kLen k : Int)).toNat
      some (BitVec.ofNat 64 (a.toNat / 2 ^ 32 * 2 ^ 32 + (kBase k + m) % 2 ^ 32))

/-- A field of FMT (Table 5-7). -/
def fmtA (f : Word) : Nat := f.toNat % 16
/-- BFMT. -/
def fmtB (f : Word) : Nat := f.toNat / 2 ^ 4 % 16
/-- CFMT. -/
def fmtC (f : Word) : Nat := f.toNat / 2 ^ 8 % 16
/-- SCALE. -/
def fmtScale (f : Word) : Nat := f.toNat / 2 ^ 12 % 4
/-- RND. -/
def fmtRnd (f : Word) : Nat := f.toNat / 2 ^ 16 % 8
/-- SREN. -/
def fmtSren (f : Word) : Bool := f.toNat / 2 ^ 19 % 2 = 1
/-- Writes to FMT ignore its reserved fields (R93). -/
def fmtMask : Word := 0x000F3FFF

/-- Little-endian value of a list of bytes (R1). -/
def leNat : List Byte → Nat
  | [] => 0
  | b :: bs => b.toNat + 256 * leNat bs

/-- Field of bytes `lo` to `lo + n - 1` of a record, as a number. -/
def field (bs : List Byte) (lo n : Nat) : Nat := leNat ((bs.drop lo).take n)

/-- The byte at an offset of a record. -/
def byteAt (bs : List Byte) (i : Nat) : Nat := (bs.getD i 0).toNat

end Sys2Proof.Machine
end

