-- ==== Sys2Proof/Machine/Flags.lean ====
section
/-! DEFINITION. Flags and conditions: %fflags (05_formats.md R84, Table 5-5), the comparison codes (09_encoding.md R140, Table 9-11), the
stochastic-rounding generators (R90 to R92) and the roll-call signature (26_reliability.md R387, R388). -/

namespace Sys2Proof.Machine

/-- ORs flags into the wave's %fflags (R84). -/
def Wave.flag (w : Wave) (g : Word) : Wave := { w with fflags := w.fflags ||| g }

/-- ORs flags into %fflags of the issuing wave. -/
def State.flag (s : State) (g : Word) : State := s.upd (·.flag g)

/-- A condition of BC and WAITC on `n`-bit values (Table 9-11); codes 6 and 7 are not conditions. -/
def scalarCond {n : Nat} (cnd : Nat) (a b : BitVec n) : Bool :=
  match cnd with
  | 0 => a == b
  | 1 => a != b
  | 2 => a.slt b
  | 3 => !a.slt b
  | 4 => a.ult b
  | _ => !a.ult b

/-- A condition of VCMP (Table 9-11), signed or unsigned by its type field. -/
def laneCond (signed : Bool) (cnd : Nat) (a b : Word) : Bool :=
  let lt := if signed then a.slt b else a.ult b
  let gt := if signed then b.slt a else b.ult a
  match cnd with
  | 0 => a == b
  | 1 => a != b
  | 2 => lt
  | 3 => !gt
  | 4 => gt
  | _ => !lt

/-- One step of a generator (R90). -/
def genStep (g : Word) : Word :=
  let n := (g.getLsbD 31 ^^ g.getLsbD 30 ^^ g.getLsbD 29 ^^ g.getLsbD 9)
  (g <<< 1) ||| (if n then 1 else 0)

/-- `n` steps of a generator. -/
def genSteps (g : Word) : Nat → Word
  | 0 => g
  | n + 1 => genSteps (genStep g) n

/-- The random word of a rotation of 5 × lane, plus 16 for the high half of a pair (R91). -/
def laneWord (g : Word) (lane : Nat) (high : Bool) : Word :=
  g.rotateLeft ((5 * lane + (if high then 16 else 0)) % 32)

/-- A generator half is never stored as zero (R92). -/
def seedHalf (x : Word) : Word := if x = 0 then 1 else x

/-- One bit of the CRC-32C register (polynomial 0x1EDC6F41 reflected, R387). -/
def crcBit (c : Nat) : Nat := if c % 2 = 1 then (c / 2) ^^^ 0x82F63B78 else c / 2

/-- One byte of the CRC-32C register. -/
def crcByte (c b : Nat) : Nat :=
  let c := c ^^^ b
  crcBit (crcBit (crcBit (crcBit (crcBit (crcBit (crcBit (crcBit c)))))))

/-- CRC-32C continued from a finished value (R387: Extend). -/
def crcExtend (sig : Word) (bs : List Byte) : Word :=
  ~~~ (BitVec.ofNat 32 (bs.foldl (fun c b => crcByte c b.toNat) (~~~ sig).toNat))

/-- SIG after a reconvergence event at code offset `off` with the new fragment's mask (R388). -/
def sigAt (off : Nat) (m : Mask) : Word := crcExtend 0 (leBytes 4 off ++ leBytes 4 m.toNat)

/-- SIG after an instruction retires (R387). -/
def sigRetire (sig : Word) (i : Instr) : Word := crcExtend sig i.bytes

end Sys2Proof.Machine
end

