-- ==== Sys2Proof/Machine/Ops.lean ====
section
/-! DEFINITION. The shared operations: records by name, memory and translation, faults and their delivery (taking an exception and
returning from one), results landing, the split stack, and the retirement of an instruction. -/

namespace Sys2Proof.Machine

/-! ## Records by name -/

/-- The launch tree with an identifier. -/
def State.tree? (s : State) (id : Nat) : Option Tree := s.trees.find? fun t => t.id == id
/-- Updates a launch tree. -/
def State.updTree (s : State) (id : Nat) (f : Tree → Tree) : State :=
  { s with trees := s.trees.map fun t => if t.id == id then f t else t }
/-- A grid of a tree. -/
def Tree.grid? (t : Tree) (ord : Nat) : Option Grid := t.grids.find? fun g => g.ord == ord
/-- Updates a grid of a tree. -/
def Tree.updGrid (t : Tree) (ord : Nat) (f : Grid → Grid) : Tree :=
  { t with grids := t.grids.map fun g => if g.ord == ord then f g else g }
/-- A core by its key: desk × 512 + logical core. -/
def State.core (s : State) (key : Nat) : Core := s.cores.get {} key
/-- Writes a core. -/
def State.setCore (s : State) (key : Nat) (c : Core) : State := { s with cores := s.cores.put {} key c }
/-- Updates a core. -/
def State.updCore (s : State) (key : Nat) (f : Core → Core) : State := s.setCore key (f (s.core key))
/-- A desk, if it exists. -/
def State.desk? (s : State) (d : Nat) : Option Desk := s.desks.get none d
/-- Updates a desk that exists. -/
def State.updDesk (s : State) (d : Nat) (f : Desk → Desk) : State :=
  match s.desk? d with
  | none => s
  | some k => { s with desks := s.desks.put none d (some (f k)) }
/-- A wave's identity: its core and wave slot. -/
def Wave.wid (w : Wave) : Nat := w.core * 16 + w.slot
/-- %wave (R31): t × W + tw. -/
def Wave.num (w : Wave) : Nat := w.team * w.wpt + w.tw
/-- Every resident wave, the issuing one first. -/
def State.allWaves (s : State) : List Wave := s.wave :: s.waves
/-- Updates a wave wherever it stands. -/
def State.updWave (s : State) (wid : Nat) (f : Wave → Wave) : State :=
  let g := fun w : Wave => if w.wid == wid && w.status != .idle then f w else w
  { s with wave := g s.wave, waves := s.waves.map g }
/-- Updates every wave. -/
def State.mapWaves (s : State) (f : Wave → Wave) : State :=
  let g := fun w : Wave => if w.status == .idle then w else f w
  { s with wave := g s.wave, waves := s.waves.map g }
/-- A wave by its identity. -/
def State.wave? (s : State) (wid : Nat) : Option Wave := s.allWaves.find? fun w => w.wid == wid && w.status != .idle
/-- The team of a wave. -/
def State.team? (s : State) (w : Wave) : Option Team :=
  s.teams.find? fun m => m.tree == w.tree && m.grid == w.grid && m.t == w.team && m.core == w.core
/-- Updates the team of a wave. -/
def State.updTeam (s : State) (w : Wave) (f : Team → Team) : State :=
  { s with teams := s.teams.map fun m => if m.tree == w.tree && m.grid == w.grid && m.t == w.team && m.core == w.core then f m else m }

/-! ## Fault codes (Table 14-1) -/

/-- Illegal encoding or format code. -/
def ILLOP : Nat := 0x01
/-- Misaligned access. -/
def ALIGN : Nat := 0x02
/-- Translation. -/
def XLATE : Nat := 0x03
/-- Permission, privilege and placement. -/
def PERM : Nat := 0x04
/-- Bank conflict. -/
def BANKCF : Nat := 0x05
/-- Late operand or result. -/
def TLATE : Nat := 0x06
/-- Table jump index out of range. -/
def JTRANGE : Nat := 0x07
/-- Split stack full. -/
def SPLITOV : Nat := 0x08
/-- Last EXIT while owning banks. -/
def ACLEAK : Nat := 0x09
/-- Bank refused. -/
def ACBANK : Nat := 0x0A
/-- Signature mismatch. -/
def SIGMIS : Nat := 0x0B
/-- Control instruction in a delay slot. -/
def DSLOT : Nat := 0x0C
/-- BARG without co-residency. -/
def BARGNE : Nat := 0x0D
/-- LDSW into a draining plane. -/
def PLANE : Nat := 0x0E
/-- Cancelled handle. -/
def FUTCAN : Nat := 0x0F
/-- Child grid at depth 11. -/
def DEPTH : Nat := 0x10
/-- Uncorrectable memory error. -/
def MEMERR : Nat := 0x11
/-- Buffer-table, barrier or pattern-slot misuse. -/
def HANDLE : Nat := 0x12
/-- Quantum wait over the limit. -/
def QTIME : Nat := 0x13

/-- Whether a fault is of class H (R236). -/
def Flt.handleable (f : Flt) : Bool :=
  if f.code = XLATE then !f.tcls
  else !(f.code = BANKCF || f.code = TLATE || f.code = SIGMIS || f.code = PLANE || f.code = MEMERR || f.code = QTIME)

/-! ## The fault record and the logbook (26_reliability.md R390 to R392) -/

/-- Draws a free value (assumption log 6). -/
def State.draw (s : State) : Dword × State := (Config.freeWord s.free, { s with free := s.free + 1 })

/-- Appends an entry for an event at count `chc` with the next sequence number; the ring keeps 65,536, the logbook the latest 1,024 of its
kinds. -/
def State.logAt (s : State) (chc : Nat) (e : Entry) : State :=
  let e := { e with seq := s.proctor.seq, chc := chc }
  let ring := s.proctor.ring ++ [e]
  let ring := if ring.length > 65536 then ring.drop 1 else ring
  let lb := if e.kind = 2 || e.kind = 4 || e.kind = 5 || e.kind = 6 || e.kind = 10 then s.proctor.logbook ++ [e] else s.proctor.logbook
  let lb := if lb.length > 1024 then lb.drop 1 else lb
  { s with proctor := { s.proctor with ring := ring, logbook := lb, seq := (s.proctor.seq + 1) % 2 ^ 64 } }

/-- Appends an entry for an event at this count. -/
def State.log (s : State) (e : Entry) : State := s.logAt s.chc e

/-- Adds one to a counter of the logbook, saturating at its width (Table 26-3). -/
def State.count (s : State) (key width : Nat) : State :=
  let n := s.proctor.counters.get 0 key
  { s with proctor := { s.proctor with counters := s.proctor.counters.put 0 key (if n + 1 < 2 ^ width then n + 1 else n) } }

/-- Counters of Table 26-3 as keys: a table row times 2^32 plus the place counted. -/
def counterKey (row place : Nat) : Nat := row * 2 ^ 32 + place

/-! ## Physical places (01_device.md R9, R16, R17) -/

/-- The built core that a logical core is mapped to, as die × 96 + row × 12 + column (R17). -/
def State.place (s : State) (core : Nat) : Nat :=
  match (s.desk? (core / 512)).bind fun d => d.places[core % 512]? with
  | some p => p
  | none => core % 512 / 88 * 96 + core % 512 % 88

/-- Unit code of a built core. -/
def placeUnit (p : Nat) : Nat := p / 96
/-- PLOC of a built core (Table 26-1): mesh row in [15:12], mesh column in [11:8]. -/
def placePloc (p : Nat) : Nat := p % 96 / 12 * 2 ^ 12 + p % 12 * 2 ^ 8

/-- An entry about a core, with the core's unit code and place (R9). -/
def State.atCore (s : State) (core : Nat) (e : Entry) : Entry :=
  { e with unit := placeUnit (s.place core), ploc := placePloc (s.place core) }

/-! ## The agenda -/

/-- Inserts a dated event in order of count, then of the order given (R119). -/
def insertDue (d : Due) : List Due → List Due
  | [] => [d]
  | x :: xs => if d.at_ < x.at_ || (d.at_ = x.at_ && d.ord < x.ord) then d :: x :: xs else x :: insertDue d xs

/-- Schedules an event at a count; `cls` orders events of one count: 0 engines, 1 flits, 2 cores, 3 matrix units (R119), 4 what follows the
issue of every wave whose cycle the count is. -/
def State.schedule (s : State) (at_ cls place : Nat) (ev : Event) : State :=
  { s with agenda := insertDue { at_ := at_, ord := cls * 2 ^ 64 + place, ev := ev } s.agenda }

/-- Schedules an event before every other one of its count: a slip, which meets each action of the grid there (R302). -/
def State.scheduleFirst (s : State) (at_ : Nat) (ev : Event) : State :=
  { s with agenda := (s.agenda.filter fun d => decide (d.at_ < at_)) ++ { at_ := at_, ord := 0, ev := ev } :: s.agenda.filter fun d => decide (at_ ≤ d.at_) }

/-! ## Memory (07_memory.md R100 to R106, 01_device.md R20, R22) -/

/-- The byte an unlisted address of device memory or of a slice reads as (assumption log 1). -/
def emptyByte : Byte := 0

/-- Canonical form of a memory. -/
abbrev Memory.wf (m : List Host.Cell) : Bool := Store.canon emptyByte m

/-- Key of a byte of a slice: core key × 4 MiB + offset. -/
def sliceKey (core off : Nat) : Nat := core * 0x400000 + off

/-- A byte of device memory, by physical address. -/
def State.devByte (s : State) (pa : Nat) : Byte := Store.get emptyByte s.mem pa
/-- `n` bytes of device memory as a number. -/
def State.devNat (s : State) (pa n : Nat) : Nat := leNat (Store.gets emptyByte s.mem pa n)
/-- Stores bytes in device memory. -/
def State.devPut (s : State) (pa : Nat) (bs : List Byte) : State := { s with mem := Store.puts emptyByte s.mem pa bs }

/-- A leaf of the page tables as a walk finds it (Table 7-1): where the entry stands, its value, the page's size, the offset, and the
physical stack of each logical stack (R106). -/
structure Xlat where
  pte : Nat
  raw : Nat
  size : Nat
  off : Nat
  stackMap : List Nat := List.range 8
  deriving DecidableEq, Repr

/-- A bit of a number. -/
def bit (x n : Nat) : Bool := x / 2 ^ n % 2 = 1
/-- FRAME of an entry: bits [39:14] in place. -/
def pteFrame (e : Nat) : Nat := e / 2 ^ 14 % 2 ^ 26 * 2 ^ 14
/-- PBL. -/
def Xlat.pbl (x : Xlat) : Bool := bit x.raw 63
/-- RREQ: a staging page (R113). -/
def Xlat.rreq (x : Xlat) : Bool := bit x.raw 62
/-- VER. -/
def Xlat.ver (x : Xlat) : Nat := x.raw / 2 ^ 46 % 2 ^ 16
/-- CUR. -/
def Xlat.cur (x : Xlat) : Bool := bit x.raw 45
/-- The frame loads read, on its logical stack (R105, R111). -/
def Xlat.readLog (x : Xlat) : Nat := if x.pbl && x.cur then pteFrame x.raw + x.size else pteFrame x.raw
/-- The frame stores write, on its logical stack: the shadow of a publishable page (R105, R111). -/
def Xlat.writeLog (x : Xlat) : Nat := if x.pbl && !x.cur then pteFrame x.raw + x.size else pteFrame x.raw
/-- A physical address, given one that names a logical stack (R22, R106). -/
def onStack (stackMap : List Nat) (a : Nat) : Nat := stackMap.getD (a / 2 ^ 36 % 8) 0 * 2 ^ 36 + a % 2 ^ 36
/-- The physical frame loads read. -/
def Xlat.readFrame (x : Xlat) : Nat := onStack x.stackMap x.readLog
/-- The physical frame stores write. -/
def Xlat.writeFrame (x : Xlat) : Nat := onStack x.stackMap x.writeLog

/-- Whether an entry is treated as invalid (R104) at a level whose leaves have `size` bytes; `last` marks level 3. -/
def pteBad (e size : Nat) (last : Bool) : Bool :=
  let leaf := bit e 1
  let pbl := bit e 63
  !bit e 0 || (last && !leaf) || e / 2 ^ 40 % 2 ^ 5 ≠ 0 || e / 2 ^ 6 % 2 ^ 8 ≠ 0 || bit e 39 ||
    (bit e 62 && !pbl) || (!(leaf && pbl) && e / 2 ^ 45 % 2 ^ 17 ≠ 0) ||
    (leaf && pteFrame e % size ≠ 0) || (leaf && pbl && pteFrame e % (2 * size) ≠ 0)

/-- A walk of the tables from the table at physical address `tbl` (R103), one level per shift; none when an entry is invalid. -/
def State.walkFrom (s : State) (stackMap : List Nat) (va : Nat) : List Nat → Nat → Option Xlat
  | [], _ => none
  | sh :: rest, tbl =>
    let pa := tbl + 8 * (va / 2 ^ sh % 2048)
    let e := s.devNat pa 8
    if pteBad e (2 ^ sh) rest.isEmpty then none
    else if bit e 1 then some { pte := pa, raw := e, size := 2 ^ sh, off := va % 2 ^ sh, stackMap := stackMap }
    else s.walkFrom stackMap va rest (onStack stackMap (pteFrame e))

/-- Table root of one of a desk's ASIDs, from 0 (R103). -/
def Desk.rootOf (d : Desk) (asid : Nat) : Nat := if asid = 0 then d.root else d.roots.getD (asid - 1) d.root

/-- The translation of a virtual address through the tables of one of a desk's ASIDs. -/
def State.walkIn (s : State) (desk asid va : Nat) : Option Xlat :=
  match s.desk? desk with
  | none => none
  | some d => s.walkFrom d.stackMap va [36, 25, 14] (d.rootOf asid)

/-- The translation of a virtual address through the tables of a desk's first ASID. -/
def State.walk (s : State) (desk va : Nat) : Option Xlat := s.walkIn desk 0 va

/-- The pinned translation cache of a core, while a C-mode grid runs on it (R108). -/
def State.pinsOf (s : State) (core : Nat) : Option (List Pin) :=
  match s.tree? (s.core core).tree with
  | some t => if t.cmode then some t.pins else none
  | none => none

/-- The translation of an address as core `core` (key) makes it: in its pinned cache (R108), or by a walk (R103). -/
def State.xlate (s : State) (core va : Nat) : Option Xlat :=
  match s.pinsOf core with
  | none => s.walk (core / 512) va
  | some ps => (ps.find? fun p => decide (p.va ≤ va) && decide (va < p.va + p.size)).map fun p =>
    { pte := p.pte, raw := p.raw, size := p.size, off := va - p.va
      stackMap := match s.desk? (core / 512) with | some d => d.stackMap | none => [] }

/-- The key under which a desk's memory is seen by none of its cores: no core has this number (R103, R377, R384). -/
def deskView (desk : Nat) : Nat := desk * 512 + 511

/-- Where a virtual address leads (Table 1-4). -/
inductive Loc where
  | slice (core off : Nat)
  | page (x : Xlat)
  deriving DecidableEq, Repr

/-- Resolves a virtual address as core `core` (key) of a desk with `n` logical cores sees it (R20, R60): a place, or XLATE or PERM. -/
def State.locate (s : State) (core n va : Nat) : Except Nat Loc :=
  let inSlice := fun key off =>
    if off < 0x27C000 then Except.ok (Loc.slice key off) else if off < 0x280000 then .error PERM else .error XLATE
  if va < 0x400000 then inSlice core va
  else if va < 0x7E0000000000 then
    match s.xlate core va with
    | some x => .ok (.page x)
    | none => .error XLATE
  else if va < 0x7E0058000000 then
    let l := (va - 0x7E0000000000) / 0x400000
    if n ≤ l then .error XLATE else inSlice (core / 512 * 512 + l) (va % 0x400000)
  else .error XLATE

/-- What an access needs of a page (Table 7-1). -/
inductive Need where
  | read | write | fetch
  deriving DecidableEq, Repr

/-- Whether a page's leaf allows an access. -/
def Xlat.allows (x : Xlat) : Need → Bool
  | .read => bit x.raw 3
  | .write => bit x.raw 4
  | .fetch => bit x.raw 5

/-- Whether a translation that failed is a miss of the pinned cache (R108): its fault is of the timing class. -/
def State.missTimed (s : State) (core va c : Nat) : Bool :=
  c = XLATE && 0x400000 ≤ va && decide (va < 0x7E0000000000) && (s.pinsOf core).isSome

/-- The fault of one access of `size` bytes at `va` (R104, R107, R108, R212), if any: code and timing class. -/
def State.accessFault (s : State) (core n : Nat) (need : Need) (size va : Nat) : Option (Nat × Bool) :=
  match s.locate core n va with
  | .error c => some (c, s.missTimed core va c)
  | .ok (.slice _ _) => if need = .fetch then some (PERM, false) else if va % size ≠ 0 then some (ALIGN, false) else none
  | .ok (.page x) =>
    if !x.allows need then some (PERM, false)
    else if va % size ≠ 0 then some (ALIGN, false)
    else none

/-- Rank of a code among XLATE, PERM and ALIGN (R107). -/
def faultRank (c : Nat) : Nat := if c = XLATE then 3 else if c = PERM then 2 else 1

/-- The fault of an instruction whose lanes access the addresses listed (R107): the highest-ranked code, the mask of the lanes that
have it, and the address of the lowest of them. An access that is no lane's goes under the lane number 32: its fault is instruction-wide. -/
def worst (fs : List (Nat × Nat × Option (Nat × Bool))) : Option Flt :=
  let top := fs.foldl (fun r x => match x.2.2 with | some (c, _) => max r (faultRank c) | none => r) 0
  let hit := fs.filter fun x => match x.2.2 with | some (c, _) => faultRank c == top | none => false
  match hit with
  | [] => none
  | x :: _ =>
    match x.2.2 with
    | none => none
    | some (c, t) =>
      let m := maskOf (hit.map (·.1))
      some { code := c, tcls := t, lanes := if m = 0 then none else some m, addr := BitVec.ofNat 64 x.2.1 }

/-- Checks the lanes of a memory instruction (R212). -/
def State.checkLanes (s : State) (t : Tree) (core : Nat) (need : Need) (size : Nat) (ls : List (Nat × Nat)) : Option Flt :=
  worst (ls.map fun (l, va) => (l, va, s.accessFault core t.n need size va))

/-- A number that names the byte at a place for reading. -/
def Loc.readKey : Loc → Nat
  | .slice c o => sliceKey c o
  | .page x => 2 ^ 50 + x.readFrame + x.off

/-- A byte as a core reads it at place `l`: of a slice as it stands, or as committed for another core in L-mode (R117). -/
def State.byteAtLoc (s : State) (committed : Bool) : Loc → Byte
  | .slice c o => if committed then s.slicesC.get emptyByte (sliceKey c o) else s.slices.get emptyByte (sliceKey c o)
  | .page x => s.devByte (x.readFrame + x.off)

/-- Stores a byte at a virtual address: into the slice, or into the frame stores write (R111). An address that resolves nowhere takes
nothing. -/
def State.storeByte (s : State) (core n va : Nat) (b : Byte) : State :=
  match s.locate core n va with
  | .error _ => s
  | .ok (.slice c o) => { s with slices := s.slices.put emptyByte (sliceKey c o) b }
  | .ok (.page x) => { s with mem := Store.put emptyByte s.mem (x.writeFrame + x.off) b }

/-- Stores bytes, each at its virtual address, in order. -/
def State.storeBytes (s : State) (core n : Nat) : List (Nat × Byte) → State
  | [] => s
  | (va, b) :: r => (s.storeByte core n va b).storeBytes core n r

/-- A slice byte that a matrix instruction wrote and no commit has made visible belongs to whatever writes it next (R265): the instructions of a core
give up the bytes at the keys listed. -/
def State.supersede (s : State) (core : Nat) (keys : List Nat) : State :=
  if (s.core core).ops.all fun o => o.under.isEmpty then s
  else s.updCore core fun c => { c with ops := c.ops.map fun o =>
    if o.under.isEmpty then o
    else { o with out := o.out.filter fun x => !keys.contains x.1, under := o.under.filter fun x => !keys.contains x.1 } }

/-- The keys of the slice bytes among virtual addresses. -/
def State.keysOf (s : State) (core n : Nat) (vas : List Nat) : List Nat :=
  vas.filterMap fun va => match s.locate core n va with | .ok (.slice c o) => some (sliceKey c o) | _ => none

/-- Stores bytes as `State.storeBytes` does, and takes those in slices from the matrix instructions that wrote them (R265). -/
def State.putBytes (s : State) (core n : Nat) (bs : List (Nat × Byte)) : State :=
  let keys := s.keysOf core n (bs.map (·.1))
  (((keys.map (· / 0x400000)).eraseDups).foldl (fun (s : State) c => s.supersede c keys) s).storeBytes core n bs

/-- The bytes of a value at consecutive virtual addresses. -/
def bytesAt (va size x : Nat) : List (Nat × Byte) := (List.range size).map fun i => (va + i, BitVec.ofNat 8 (x / 256 ^ i))

/-- Bytes of a slice as they stand. -/
def State.sliceBytes (s : State) (core off n : Nat) : List Byte := s.slices.gets emptyByte (sliceKey core off) n
/-- Writes bytes into a slice. -/
def State.slicePut (s : State) (core off : Nat) (bs : List Byte) : State :=
  { s with slices := s.slices.puts emptyByte (sliceKey core off) bs }
/-- Whether an uncorrectable error stands where an access reaches memory (R111, 26 R398, R399): `write` for a store, an atomic or an engine
write, which reach the frame stores write. -/
def State.badAt (s : State) (l : Loc) (write : Bool := false) : Bool :=
  match l with
  | .slice c o => s.badWords.contains (sliceKey c o / 16)
  | .page x => s.badLines.contains (((if write then x.writeFrame else x.readFrame) + x.off) / 128)

/-- BYTES of a barrier object fell below zero while PEND is zero (R122): an entry with the object's address. `e` names what updated it. -/
def State.underflow (s : State) (key : Nat) (e : Entry) (bs : List Byte) (under : Bool) : State :=
  if !under then s
  else s.log (s.atCore (key / 0x400000) { e with kind := 9, desk := key / 0x400000 / 512, addr := key % 0x400000, detail := field bs 8 4 })

/-! ## Delivering a fault (14_traps.md R236 to R242) -/

/-- %fault.HND: the wave is in handler state (Table 14-3). -/
def Wave.hnd (w : Wave) : Bool := w.fault.getLsbD 15

/-- Whether a fragment's delay-slot marker holds a split. -/
def After.isSplit : After → Bool
  | .goto _ => false
  | .split _ _ => true

/-- %fault of a delivered fault (Table 14-3). -/
def faultWord (lanes : Mask) (hnd spl tcls ret dly slot : Bool) (code : Nat) : Dword :=
  BitVec.ofNat 64 (lanes.toNat * 2 ^ 32 + (if hnd then 2 ^ 15 else 0) + (if spl then 2 ^ 14 else 0) + (if tcls then 2 ^ 13 else 0) +
    (if ret then 2 ^ 12 else 0) + (if dly then 2 ^ 11 else 0) + (if slot then 2 ^ 10 else 0) + code)

/-- The PC of the branch in whose delay slot a fragment stands: 4 bytes before it (R148), unless it is kept. -/
def Frag.branchPc (f : Frag) : Dword := f.branch.getD (f.pc - 4)

/-- The fault state a delivered fault leaves (R238, R239), in handler state or not: %fault, %faddr, %epc and %fdat are written; in a delay slot
%etgt holds the saved control target, or the decision is kept as the pending split (R241), and the branch's PC with it. -/
def Wave.faultState (w : Wave) (fr : Frag) (f : Flt) (hnd ret : Bool) : Wave :=
  let spl := match fr.after with | some a => a.isSplit | none => false
  { w with
    fault := faultWord (f.lanes.getD fr.mask) hnd spl f.tcls ret fr.after.isSome w.cur f.code
    faddr := f.addr
    fdat := f.fdat
    epc := fr.pc
    etgt := match fr.after with | some (.goto t) => t | _ => w.etgt
    psplit := fr.after.map fun a => (fr.branchPc, a) }

/-- TAKING AN EXCEPTION: entry into the wave's handler (R239, R240). The fault state is written with HND set; the fragment keeps its mask, join
and FMT, and its PC goes to the handler at CodeBase + %hpc. -/
def Wave.enterHandler (w : Wave) (fr : Frag) (codeBase : Dword) (f : Flt) (ret : Bool) : Wave :=
  let w := (w.faultState fr f true ret).setFrag { fr with pc := codeBase + w.hpc, after := none, branch := none }
  { w with stalled := false, ticket := none }

/-- The record of a fault that stops a tree (R242, Table 26-1). -/
def Wave.raised (w : Wave) (fr : Frag) (t : Tree) (f : Flt) (q : Nat) : Raised :=
  let double := w.hnd && f.handleable && !t.cmode
  { q := q, core := w.core % 512, wave := w.num, grid := w.grid
    code := if double then w.fault.toNat % 256 else f.code
    detail := if double then f.code else f.detail
    flags := (if f.tcls then 1 else 0) + (if fr.after.isSome then 2 else 0) + (if w.cur then 4 else 0) + (if double then 8 else 0)
    pc := ((f.pc.getD fr.pc) - BitVec.ofNat 64 t.code.addr).toNat % 2 ^ 32
    lanes := f.lanes.getD fr.mask, addr := f.addr.toNat }

/-- Abort count of the token that stops a whole task (R417). -/
def allOnes : Nat := 2 ^ 64 - 1

/-- The slip that is pending is dropped, with its event (R344). -/
def State.dropSlip (s : State) : State :=
  { s with slip := none, agenda := s.agenda.filter fun d => d.ev != .slip }

/-- Stops a launch tree on a fault (R242): in L-mode the least quantum with a fault becomes q*; in C-mode every wave of the grid
forfeits every later cycle (`State.cmodeMay`), a fault of a later cycle is not counted, a pending slip is dropped (R344), and the token of
R417 falls due once every wave whose cycle this is has issued. -/
def State.stopTree (s : State) (t : Tree) (r : Raised) : State :=
  let r := { r with chc := s.chc }
  if t.cmode then
    let token := fun (s : State) => s.dropSlip.schedule s.chc 4 0 (.abort t.ctask allOnes)
    match t.stop with
    | some (c, rs) =>
      if c < r.q then s
      else
        let s := s.updTree t.id fun t => { t with stop := some (c, rs ++ [r]) }
        if rs.isEmpty then token s else s
    | none => token (s.updTree t.id fun t => { t with stop := some (r.q, [r]) })
  else
    s.updTree t.id fun t => { t with stop := match t.stop with
      | some (q, rs) => some (min q r.q, rs ++ [r])
      | none => some (r.q, [r]) }

/-- TLATE (R343, R344): the grid stops at this count, every wave forfeiting every later cycle; a pending slip is dropped; and the abort
token of its task falls due. -/
def State.tlate (s : State) (t : Tree) : State :=
  match t.stop with
  | some _ => s
  | none => (s.updTree t.id fun t => { t with stop := some (s.chc, []) }).dropSlip.schedule s.chc 4 0 (.abort t.ctask s.chc)

/-- Delivers a fault that the issuing wave raised in quantum `q` (R236): class H in L-mode enters the handler when %hpc is set and the wave is
not in handler state; TLATE rewinds; everything else stops the tree. -/
def State.deliver (s : State) (t : Tree) (fr : Frag) (f : Flt) (ret : Bool) (q : Nat) : State :=
  if !t.cmode && f.handleable && !s.wave.hnd && s.wave.hpc ≠ 0 then
    s.upd fun w => w.enterHandler fr (BitVec.ofNat 64 t.code.addr) f ret
  else if f.code = TLATE && t.cmode then (s.tlate t).count (counterKey 7 (s.place s.wave.core)) 32
  else
    let r := s.wave.raised fr t f (if t.cmode then s.chc else q)
    let double := s.wave.hnd && f.handleable && !t.cmode
    let s := s.upd fun w => if double then w else w.faultState fr f w.hnd ret
    let s := s.upd fun w => { w with status := .faulted, stalled := false }
    let s := s.updCore s.wave.core fun c => { c with running := none }
    s.stopTree t r

/-- Whether a debug session holds the tree with stop-on-fault (R249). -/
def State.holdsFaults (s : State) (t : Tree) : Bool :=
  match s.desk? t.desk with
  | some d => d.stopOnFault && d.held == some t.id && !t.cmode
  | none => false

/-- Stops a tree on a fault that no instruction of a fragment raises (QTIME, SIGMIS at the last EXIT, an engine's error after it), unless a debug
session with stop-on-fault holds the tree first (R249). `wid` is the wave it is of. -/
def State.halt (s : State) (t : Tree) (wid : Nat) (r : Raised) : State :=
  if s.holdsFaults t then
    s.updTree t.id fun t => { t with debug := true, held := t.held ++ [{ wid := wid, flt := { code := r.code }, q := r.q, stop := some { r with chc := s.chc } }] }
  else s.stopTree t r

/-- Raises a fault at the issuing fragment (R237 to R242, R249): a debug session with stop-on-fault holds an L-mode tree and the fault first. -/
def State.raise (s : State) (f : Flt) (ret : Bool := false) : State :=
  match s.wave.frag, s.tree? s.wave.tree with
  | some fr, some t =>
    if s.holdsFaults t then
      s.updTree t.id fun t => { t with debug := true, held := t.held ++ [{ wid := s.wave.wid, flt := f, ret := ret, q := s.wave.qnt }] }
    else s.deliver t fr f ret s.wave.qnt
  | _, _ => s

/-! ## The split stack (03_execution.md R56, R57, R60) -/

/-- Slice offset of entry `lvl` of a wave's split stack. -/
def stackOff (w : Wave) (lvl : Nat) : Nat := 0x27C000 + w.slot * 0x400 + 16 * lvl

/-- Pushes an entry (Table 3-3). -/
def State.pushEntry (s : State) (codeBase : Dword) (rejoin : Bool) (pc : Dword) (m : Mask) (join : Option Dword) (fmt : Word) : State :=
  let w := s.wave
  let off := fun p : Dword => (p - codeBase).toNat % 2 ^ 32
  let bs := leBytes 4 (off pc / 2 * 2 + (if rejoin then 1 else 0)) ++
    leBytes 4 (match join with | some j => off j | none => 0xFFFFFFFE) ++ leBytes 4 m.toNat ++ leBytes 4 fmt.toNat
  let s := s.slicePut w.core (stackOff w w.depth) bs
  let js := if rejoin then { level := w.depth, join := pc, mask := m : JoinAcct } :: w.joins else w.joins
  s.upd fun w => { w with depth := w.depth + 1, joins := js }

/-- A split-stack entry as read back. -/
structure StackEntry where
  rejoin : Bool
  pc : Dword
  mask : Mask
  join : Option Dword
  fmt : Word
  deriving DecidableEq, Repr

/-- The split-stack entry that 16 bytes hold (Table 3-3); reserved bits of FMT are ignored (R5). -/
def entryOf (codeBase : Dword) (bs : List Byte) : StackEntry :=
  let p := field bs 0 4
  let j := field bs 4 4
  { rejoin := p % 2 = 1, pc := codeBase + BitVec.ofNat 64 (p / 2 * 2)
    join := if j = 0xFFFFFFFE then none else some (codeBase + BitVec.ofNat 64 j)
    mask := BitVec.ofNat 32 (field bs 8 4), fmt := BitVec.ofNat 32 (field bs 12 4) &&& fmtMask }

/-- The top entry of the issuing wave's split stack. -/
def State.topEntry (s : State) (codeBase : Dword) : Option StackEntry :=
  let w := s.wave
  if w.depth = 0 then none else some (entryOf codeBase (s.sliceBytes w.core (stackOff w (w.depth - 1)) 16))

/-- Whether a slot's fragment has a join PC (R57: SlotHoldsJoin). -/
def Wave.holdsJoin (w : Wave) (j : Dword) : Bool :=
  let has := fun f : Option Frag => match f with | some f => f.join == some j | none => false
  has w.slotA || has w.slotB

/-- Counts an arriving fragment to its REJOIN entry (R389): the topmost with its join whose mask holds its lanes, else the topmost
with its join. -/
def arrive (j : Dword) (m : Mask) (js : List JoinAcct) : List JoinAcct :=
  let hit := fun x : JoinAcct =>
    { x with twice := x.twice ||| (x.arrived &&& m), outside := x.outside ||| (m &&& ~~~ x.mask), arrived := x.arrived ||| m }
  let rec go (p : JoinAcct → Bool) : List JoinAcct → Option (List JoinAcct)
    | [] => none
    | x :: xs => if p x then some (hit x :: xs) else (go p xs).map (x :: ·)
  match go (fun x => x.join == j && (m &&& ~~~ x.mask) == 0) js with
  | some r => r
  | none => (go (fun x => x.join == j) js).getD js

/-- The lanes that break the join check of R389. -/
def JoinAcct.broken (x : JoinAcct) : Mask := (x.mask &&& ~~~ (x.arrived ||| x.exited)) ||| x.twice ||| x.outside

/-! ## Results landing (R62, R64) -/

/-- Lands, in order of issue, the results whose time has come and whose value is known; keeps the others. A C-mode near load that is outstanding when
the slot of its fragment is freed therefore lands at its effect cycle, when its value is known, and not at the freeing: R64 leaves it open, and it is
this model's choice (assumption log 54). -/
def landReady (w : Wave) : List Flight → Wave × List Flight
  | [] => (w, [])
  | f :: r =>
    if f.left = 0 && f.acc.isNone then landReady (w.land1 f.res) r
    else
      let (w', k) := landReady w r
      (w', f :: k)

/-- Lands what is ready. -/
def Wave.land (w : Wave) : Wave :=
  let (w', k) := landReady w w.flight
  { w' with flight := k }

/-- The end of an issue slot of slot `x` (R62): every result of its fragment comes one slot nearer, and those due land. -/
def Wave.tickSlot (w : Wave) (x : Bool) : Wave :=
  ({ w with flight := w.flight.map fun f => if f.slot == x then { f with left := f.left - 1 } else f } : Wave).land

/-- Every result outstanding from slot `x` lands (R64). -/
def Wave.landSlot (w : Wave) (x : Bool) : Wave :=
  ({ w with flight := w.flight.map fun f => if f.slot == x then { f with left := 0 } else f } : Wave).land

/-- Most issue slots any result of slot `x` still needs. -/
def Wave.slotDelay (w : Wave) (x : Bool) : Nat := (w.flight.filter (·.slot == x)).foldl (fun m f => max m f.left) 0

/-- Frees a slot (R57, R64). -/
def Wave.freeSlot (w : Wave) (x : Bool) : Wave := (w.landSlot x).setSlot x none

/-- Refills free slots from the split stack (R57), checking each join that a pop completes (R389) and setting SIG (R388). -/
def State.fill (codeBase : Dword) : Nat → State → State
  | 0, s => s
  | n + 1, s =>
    let w := s.wave
    if w.slotA.isSome && w.slotB.isSome then s
    else match s.topEntry codeBase with
      | none => s
      | some e =>
        if e.rejoin && w.holdsJoin e.pc then s
        else
          let m := e.mask &&& w.live
          let acct := if e.rejoin then w.joins.head? else none
          let x := w.slotA.isSome
          let bad := match acct with
            | some a => if a.broken = 0 then none else some (if m = 0 then none else some x, a.join, a.broken)
            | none => none
          let w := { w with depth := w.depth - 1,
                            joins := if e.rejoin then w.joins.drop 1 else w.joins,
                            sigmis := if w.sigmis.isSome then w.sigmis else bad }
          let w := if m = 0 then w else
            w.setSlot x (some { pc := e.pc, mask := m, join := e.join, fmt := e.fmt, sig := sigAt (e.pc - codeBase).toNat m })
          State.fill codeBase n { s with wave := w }

/-- Whether a fragment stands at its join PC and would not issue a delay slot (R57). -/
def Frag.atJoin (f : Frag) : Bool := f.after.isNone && f.join == some f.pc

/-- Frees every slot whose fragment has arrived at its join, refilling after each freeing (R57). -/
def State.settle (codeBase : Dword) : Nat → State → State
  | 0, s => s
  | n + 1, s =>
    let w := s.wave
    let here := fun x => match w.getSlot x with | some f => f.atJoin | none => false
    let free := fun x =>
      match w.getSlot x with
      | some f =>
        let w := { w with joins := arrive f.pc f.mask w.joins }
        State.settle codeBase n (State.fill codeBase 130 { s with wave := w.freeSlot x })
      | none => s
    if here false then free false else if here true then free true else s

/-- A branch whose control leaves the body of the active loop ends it (R181): the branch stood in the body, and a target lies
outside. -/
def Wave.leaveLoop (w : Wave) (pc : Dword) (ts : List Dword) : Wave :=
  let inside := fun p : Dword => !p.ult w.loopStart && !w.loopEnd.ult p
  if w.lcnt ≠ 0 && inside pc && ts.any (fun t => !inside t) then { w with lcnt := 0 } else w

/-- Applies a split decision to the issuing fragment `f` (R56, R178): one group moves it; several push the REJOIN entry and the
PATH entries, and the first groups take the slots. Every result outstanding lands first (R64). -/
def State.applySplit (s : State) (codeBase : Dword) (f : Frag) (groups : List (Dword × Mask)) (join : Dword) : State :=
  let x := s.wave.cur
  let s := s.upd fun w => w.landSlot x
  let frag := fun (g : Dword × Mask) =>
    some { pc := g.1, mask := g.2, join := some join, fmt := f.fmt, sig := sigAt (g.1 - codeBase).toNat g.2 : Frag }
  match groups with
  | [] => s
  | [g] => s.upd fun w => w.setSlot x (some { f with pc := g.1, after := none })
  | g1 :: g2 :: rest =>
    let s := s.pushEntry codeBase true join f.mask f.join f.fmt
    let push := fun (s : State) (g : Dword × Mask) => s.pushEntry codeBase false g.1 g.2 (some join) f.fmt
    if (s.wave.getSlot (!x)).isNone then
      let s := rest.reverse.foldl push s
      s.upd fun w => { w with slotA := frag g1, slotB := frag g2 }
    else
      let s := (g2 :: rest).reverse.foldl push s
      s.upd fun w => w.setSlot x (frag g1)

/-- Split-stack entries a split of `g` groups needs (R56, R178). -/
def splitNeed (g : Nat) (otherFree : Bool) : Nat := if g ≤ 1 then 0 else if otherFree then g - 1 else g

/-! ## Quanta and waits (03_execution.md R44 to R50) -/

/-- Whether a fragment of the wave stands between a branch and its delay slot (R73), in handler state too. -/
def Wave.parted (w : Wave) : Bool :=
  let at_ := fun x => match w.getSlot x with | some f => f.after.isSome | none => false
  at_ false || at_ true

/-- Whether a fragment that may issue stands between a branch and its delay slot (R248). The other slot issues nothing in handler state
(R240). -/
def Wave.midBranch (w : Wave) : Bool :=
  let at_ := fun x => match w.getSlot x with | some f => f.after.isSome | none => false
  if w.hnd then at_ w.cur else at_ false || at_ true

/-- Every request of a channel: in its queue, delayed before it, or under way. -/
def Chan.reqs (c : Chan) : List EngReq := c.queue ++ c.delayed ++ (c.op.map (·.req)).toList

/-- Whether an engine operation or a matrix instruction that a tree issued is incomplete (R50). -/
def State.busyFor (s : State) (tree : Nat) : Bool :=
  s.chans.any (fun (_, c) => c.reqs.any fun r => r.core.isSome && r.tree == tree) ||
    s.cores.any fun (_, c) => c.ops.any fun o => o.tree == tree && decide (s.chc ≤ o.comp)

/-- Whether a window exempts the wave from a forced save (R72, R297). -/
def Wave.exempt (w : Wave) : Bool := w.dispre.isSome || w.op.isSome

/-- Whether a forced save of a tree is held up by a live wave that it must let go on: one that waits between a branch and its delay slot (R73),
or an exempt one (R72, R297) that waits, or that stalls while nothing of the tree is under way. The stopped waves then run on to their next switch
points, since its wait needs their commits or their work (assumption log 61). -/
def State.saveHeldUp (s : State) (tree : Nat) : Bool :=
  s.allWaves.any fun w => w.tree == tree && w.status == .live &&
    ((w.wait != .none && (w.parted || w.exempt)) || (w.stalled && w.exempt && w.far.isEmpty && !s.busyFor tree))

/-- Whether a pending save or drain stops the wave at a switch point (R70, R72, R297, R394): not inside a window, and never between a branch and
its delay slot (R73). -/
def Wave.maySettle (w : Wave) : Bool := w.status == .live && !w.exempt && !w.parted

/-- The wave's core chooses again (R41): a switch point reached in quantum `q`. The core chooses a wave of the tree once quantum q − 1 has
committed (R48). While a forced save of the tree or a drain of the core is pending, the wave stops here, unless another wave of the tree
holds the save up (`State.saveHeldUp`). -/
def State.switchPoint (s : State) (q : Nat) : State :=
  let w := s.wave
  let saving := match s.tree? w.tree with
    | some t => (t.save && !s.saveHeldUp t.id) || (s.core w.core).testDue
    | none => false
  let s := if saving && w.maySettle then s.upd fun w => { w with status := .stopped } else s
  s.updCore w.core fun c => { c with running := none, yielded := none, awaits := c.awaits.put 0 w.tree q }

/-- An implicit quantum wait (R47) at a switch point reached in quantum `q`: until every quantum below `n` has committed. -/
def State.waitCommit (s : State) (q n : Nat) : State := (s.upd fun w => { w with wait := .commit n }).switchPoint q

/-- Ends the wave's quantum after the preceding instruction and waits for its commit (R227, R285). -/
def State.endQuantum (s : State) : State :=
  let q := s.wave.qnt
  (s.upd fun w => { w with qnt := q + 1, retired := 0, qdelay := none, ticket := some .ended }).waitCommit q (q + 1)

/-- A wait at a switch point other than an implicit quantum wait (R42, R45): the wave closes its quantum and counts as having closed
every later one. In C-mode the wave waits in place (R52). -/
def State.waitFor (s : State) (cmode : Bool) (c : Wait) : State :=
  let s := s.upd fun w => { w with wait := c, stalled := true, parked := !cmode }
  if cmode then s else s.switchPoint s.wave.qnt

/-- A stall (R43): the instruction is issued again; no other wave of the core issues meanwhile. -/
def State.stall (s : State) : State := s.upd fun w => { w with stalled := true }

/-- The chorus tree on this device, if one runs (R110: F, and the calendar's owners). -/
def State.chorusTree (s : State) : Option Tree := s.trees.find? fun t => t.cmode && t.started

/-- Whether a slice serves only the timing domain of another tree now (R127): while that tree's chorus task runs. -/
def State.heldSlice (s : State) (core tree : Nat) : Bool :=
  match s.chorusTree with
  | some t => t.id ≠ tree && t.stop.isNone && s.teams.any fun m => m.core == core && m.tree == t.id
  | none => false

/-- A word of a slice as a wave of core `core` judges it: its own slice as it stands, another one as committed in L-mode (R48, R117). -/
def State.monitorNat (s : State) (cmode : Bool) (core key size : Nat) : Nat :=
  let near := decide (key / 0x400000 = core)
  leNat ((if cmode || near then s.slices else s.slicesC).gets emptyByte key size)

/-- Whether phase `p` has completed, given PHASE (R228). -/
def phaseDone (phase p : Nat) : Bool :=
  let d := (phase + 4096 - p % 4096) % 4096
  decide (1 ≤ d) && decide (d ≤ 2047)

/-- Whether the condition a wave waits for holds now (R42). A word in a slice that serves a chorus task is not read before that has ended (R127). -/
def State.holds (s : State) (w : Wave) : Bool :=
  match s.tree? w.tree with
  | none => false
  | some t =>
    match w.wait with
    | .none => true
    | .commit n => decide (n ≤ t.committed)
    | .phase key p => !s.heldSlice (key / 0x400000) t.id && phaseDone (s.monitorNat t.cmode w.core key 8 % 4096) p
    | .arrival => false
    | .word key cnd wide b =>
      if s.heldSlice (key / 0x400000) t.id then false
      else if wide then scalarCond cnd (BitVec.ofNat 64 (s.monitorNat t.cmode w.core key 8)) b
      else scalarCond cnd (BitVec.ofNat 32 (s.monitorNat t.cmode w.core key 4)) (lo32 b)
    | .grid gen => match t.grid? w.grid with
      | some g => decide (gen < g.bargGen)
      | none => true
    | .child h => decide (((s.core w.core).handles.get {} h).state ≠ 0)

/-- A wave whose condition has come to hold resumes (R45, R49): after an implicit quantum wait in the quantum it is in; otherwise in
quantum max(c + 1, q). It is ready again (R41, R42). In C-mode it issues at the first of its cycles after this count (R124, R230). -/
def Wave.resume (w : Wave) (q chc : Nat) : Wave :=
  if w.parked then
    { w with wait := .none, parked := false, stalled := false, ticket := some .done, qnt := max (w.qnt + 1) q, retired := 0, qdelay := none
             issueAt := chc + 1 }
  else
    match w.wait with
    | .commit _ => { w with wait := .none, stalled := false }
    | _ => { w with wait := .none, stalled := false, ticket := some .done, issueAt := chc + 1 }

/-- Judges every waiting wave that `sel` selects again, after a write or a commit (R48, R124); those whose condition holds resume. -/
def State.wake (s : State) (sel : Wave → Bool) (q : Nat) : State :=
  let g := fun w : Wave =>
    if w.status != .idle && w.wait != .none && sel w && s.holds w then w.resume q s.chc else w
  { s with wave := g s.wave, waves := s.waves.map g }

/-- The quantum in which a wave resumes at the earliest whose condition an act of no wave makes hold: the next one to commit; while quantum p
commits, p + 1 (R49). -/
def Tree.wakeQ (t : Tree) : Nat := if t.committing then t.committed + 1 else t.committed

/-- Waves that a write to slices may satisfy are judged again (R48, R124). -/
def State.wakeAll (s : State) : State :=
  s.trees.foldl (fun s t => s.wake (fun w => w.tree == t.id) t.wakeQ) s

/-! ## Ending a wave -/

/-- The core record of a restart epoch (R307): made when the last live wave of the core's team has reached it; the two latest are kept. -/
def State.markCore (s : State) (tree core : Nat) : State :=
  let ws := s.allWaves.filter fun w => w.tree == tree && w.core == core && (w.status == .live || w.status == .stopped)
  match ws with
  | [] => s
  | w :: r =>
    let e := r.foldl (fun m w => min m w.epoch) w.epoch
    let c := s.core core
    if e = 0 || c.recs.any (fun x => decide (e ≤ x.epoch)) then s
    else
      let owners := (s.teams.filter fun m => m.tree == tree && m.core == core).map fun m => (m.t, m.owners)
      let x : CoreRec := { epoch := e, vgen := c.vgen, dgen := c.dgen, tags := c.tags, bufs := c.bufs, plane0 := c.plane0, plane1 := c.plane1
                           active := c.active, owners := owners }
      s.setCore core { c with recs := (x :: c.recs).take 2 }

/-- The wave ends (R57): its loop and window close, and the core chooses again (Table 3-2). Its end may leave every other wave of its team at
a restart epoch (R307). -/
def State.endWave (s : State) : State :=
  let s := s.upd fun w => { w with status := .ended, lcnt := 0, dispre := none, stalled := false }
  (s.updCore s.wave.core fun c =>
    { c with running := none, yielded := none, awaits := c.awaits.put 0 s.wave.tree s.wave.qnt }).markCore s.wave.tree s.wave.core

/-! ## Retirement -/

/-- An instruction as it is fetched: the bytes it occupies and the bytes it adds to the signature (R387; none for SIGCK). -/
structure Enc where
  bytes : List Byte
  sig : List Byte
  deriving DecidableEq, Repr

/-- How control goes on after an instruction: to the next one; ending the quantum after it (QEND), also waiting for its commit
(FWAITC, R227); giving way to another wave (YIELD); the core choosing again (FWAIT on a child grid, R275); through a delay slot; to an
address, with or without a delay slot of a saved branch there, of the PC given (loops, ERET); by the saved decision of the branch at `pc` at once (ERET); or
EXIT. -/
inductive Ctl where
  | seq
  | quit
  | sync
  | yield
  | choose
  | delay (a : After)
  | to (pc : Dword) (after : Option (Dword × After))
  | apply (pc : Dword) (a : After)
  | exit
  deriving DecidableEq, Repr

/-- Logs the lapse of a window (R72, R297, Table 26-2 kind 7). -/
def State.logLapse (s : State) (n : Nat) : State :=
  let w := s.wave
  s.log (s.atCore w.core { kind := 7, desk := w.core / 512, tree := w.tree, wave := w.num, ord := w.grid, detail := n })

/-- DISPRE_WINDOW_LAPSE (R72): the window closes, and an entry is written. -/
def State.lapseDispre (s : State) : State := (s.upd fun w => { w with dispre := none }).logLapse (2 ^ 20)

/-- OPERATOR_WINDOW_LAPSE (R297): the open operator is discarded, and an entry is written. -/
def State.lapseOperator (s : State) : State := (s.upd fun w => { w with op := none }).logLapse (2 ^ 20)

/-- Counts a retired instruction: quantum (R44), the windows of DISPRE and of an open operator, whose counts include the instruction
that opened them (R72, R297). -/
def State.countRetired (s : State) : State :=
  let s := s.upd fun w => { w with retired := w.retired + 1, dispre := w.dispre.map (· + 1),
                                   op := w.op.map fun o => { o with retired := o.retired + 1 } }
  let s := if (match s.wave.dispre with | some n => decide (2 ^ 20 < n) | none => false) then s.lapseDispre else s
  if (match s.wave.op with | some o => decide (2 ^ 20 < o.retired) | none => false) then s.lapseOperator else s

/-- The control an instruction hands on, applied to the fragment `f` that issued it (R148, R162). At the end of the active loop every
retirement counts an iteration (R180, R181), that of EXIT too; after ERET there it sends the fragment to Start while iterations are left, as after any
instruction. -/
def State.moveOn (s : State) (codeBase : Dword) (f : Frag) (len : Nat) (c : Ctl) : State :=
  let x := s.wave.cur
  let apply := fun (pc : Dword) (a : After) =>
    match a with
    | .goto t => (s.upd fun w => (w.leaveLoop pc [t]).setSlot x (some { f with pc := t, after := none, branch := none }))
    | .split gs j => (s.upd fun w => w.leaveLoop pc (gs.map (·.1))).applySplit codeBase { f with after := none, branch := none } gs j
  let next := f.pc + BitVec.ofNat 64 len
  let again := fun s : State =>
    if s.wave.lcnt = 0 || f.pc ≠ s.wave.loopEnd then s
    else if s.wave.lcnt.toNat > 1 then s.upd fun w =>
      let w := { w with lcnt := w.lcnt - 1 }
      match w.getSlot x with | some g => w.setSlot x (some { g with pc := w.loopStart }) | none => w
    else s.upd fun w => { w with lcnt := 0 }
  match f.after with
  | some a => apply f.branchPc a
  | none =>
    match c with
    | .delay a => s.upd fun w => w.setSlot x (some { f with pc := next, after := some a })
    | .to pc a => again (s.upd fun w => w.setSlot x (some { f with pc := pc, after := a.map (·.2), branch := a.map (·.1) }))
    | .apply pc a => again (apply pc a)
    | .exit =>
      s.upd fun w =>
        let w := { w with live := w.live &&& ~~~ f.mask,
                          lcnt := if w.lcnt ≠ 0 && f.pc = w.loopEnd then w.lcnt - 1 else w.lcnt,
                          joins := w.joins.map fun (j : JoinAcct) => { j with exited := j.exited ||| (j.mask &&& f.mask) },
                          psplit := none,
                          fault := w.fault &&& ~~~ (0x8000 : Dword) }
        w.freeSlot x
    | _ =>
      if s.wave.lcnt ≠ 0 && f.pc = s.wave.loopEnd then
        if s.wave.lcnt.toNat > 1 then s.upd fun w => ({ w with lcnt := w.lcnt - 1 } : Wave).setSlot x (some { f with pc := w.loopStart })
        else s.upd fun w => ({ w with lcnt := 0 } : Wave).setSlot x (some { f with pc := next })
      else s.upd fun w => w.setSlot x (some { f with pc := next })

/-- Which slot issues next (R58, R240): in handler state the same one; alternation begins with A when the set of occupied slots has
changed. A slot that is freed and filled again at one point, as a PATH pop at a join does, leaves the set as it was and alternation goes on: R58 does
not say, and it is this model's choice (assumption log 53). -/
def Wave.alternate (w : Wave) (occ : Bool × Bool) : Wave :=
  let now := (w.slotA.isSome, w.slotB.isSome)
  if w.hnd && (w.getSlot w.cur).isSome then w
  else if now = (true, true) then { w with cur := if occ = now then !w.cur else false }
  else { w with cur := !now.1 && now.2 }

/-- The end of a quantum (R44): after the Q-th retired instruction, after the delay slot if that was a branch, and after QEND. `past` says
that slot `x` has just left a delay slot behind; where the slot's instruction has faulted into the handler, that is when ERET has carried the branch
on, or EXIT has ended its lanes. The wave then waits while the quantum before the one it ended has not committed (R47), or, after FWAITC, the one it ended (R227).
After YIELD, and after FWAIT on a child grid, the core chooses again (Table 3-2). -/
def State.quantumEnd (s : State) (t : Tree) (branch past : Bool) (c : Ctl) (x : Bool) : State :=
  if t.cmode || s.wave.status ≠ .live then s
  else
    let w := s.wave
    let full := decide (w.retired = t.q)
    let quit := c == .quit || c == .sync
    let s :=
      if full && branch && !quit then s.upd fun w => { w with qdelay := some x }
      else if full || quit || (past && w.qdelay == some x) then
        let s := s.upd fun w => { w with qnt := w.qnt + 1, retired := 0, qdelay := none, fwaited := c == .sync }
        let n := if c == .sync then w.qnt + 1 else w.qnt
        if t.committed < n then s.waitCommit w.qnt n
        else if t.save || (s.core w.core).testDue then s.switchPoint w.qnt else s
      else s
    if c == .yield then (s.switchPoint w.qnt).updCore w.core fun k => { k with yielded := some w.wid }
    else if c == .choose && s.wave.wait == .none then s.switchPoint w.qnt
    else s

/-- A wave of a C-mode grid that waited in place lets the next instruction issue in this cycle (R124, R230, R275, R291). -/
def State.afterWait (s : State) (t : Tree) : State :=
  if t.cmode && (s.wave.ticket == some .done || s.wave.ticket == some .waiting) then { s with turn := s.wave.core } else s

/-- A wait in place of C-mode that the instruction itself judges again at each of the wave's cycles. -/
def State.waitHere (s : State) : State := s.upd fun w => { w with stalled := true, ticket := some .waiting }

/-- Retires an instruction of the issuing fragment: the signature (R387), the counts (R44), the results due at the end of the slot
(R62), control (R148), the joins (R57), alternation (R58), monitors on the core's near effects (R48), the end of the quantum. -/
def State.retire (s : State) (e : Enc) (c : Ctl) : State :=
  match s.wave.frag, s.tree? s.wave.tree with
  | some f, some t =>
    let base := BitVec.ofNat 64 t.code.addr
    let x := s.wave.cur
    let occ := (s.wave.slotA.isSome, s.wave.slotB.isSome)
    let q := s.wave.qnt
    let inDelay := f.after.isSome
    let isSplit := match f.after with | some a => a.isSplit | none => match c with | .apply _ a => a.isSplit | _ => false
    let s := s.afterWait t
    let s := s.countRetired
    let s := s.upd fun w => { w with ticket := none, wait := .none, stalled := false, fwaited := false }
    let s := s.upd fun w => w.tickSlot x
    let wpt := s.wave.wpt
    let s := if isSplit && t.cmode && s.wave.slotDelay x ≠ 0 then
      s.upd fun w => { w with issueAt := max w.issueAt (s.chc + w.slotDelay x * wpt + 1) } else s
    let s := s.moveOn base { f with sig := crcExtend f.sig e.sig } e.bytes.length c
    let s := match c with | .exit => State.fill base 130 s | _ => s
    let s := State.settle base 200 s
    let branch := match c with | .delay _ => !inDelay | _ => false
    let s := s.upd fun w => w.alternate occ
    let s := s.wake (fun w => w.core == s.wave.core && w.wid != s.wave.wid) q
    if s.wave.slotA.isNone && s.wave.slotB.isNone && s.wave.depth = 0 then
      match s.wave.sigmis with
      | some (_, j, lanes) =>
        (s.halt t s.wave.wid { q := if t.cmode then s.chc else s.wave.qnt, core := s.wave.core % 512, wave := s.wave.num, grid := s.wave.grid, code := SIGMIS
                               detail := 2 ^ 31, pc := (j - base).toNat % 2 ^ 32, lanes := lanes }).upd fun w =>
          if s.holdsFaults t then w else { w with status := .faulted }
      | none => s.endWave
    else s.quantumEnd t branch (!s.wave.hnd && !(match s.wave.getSlot x with | some f => f.after.isSome | none => false)) c x
  | _, _ => s

/-- TRAP retires and then raises (R244): signature, counts and results as for any instruction; in a delay slot the slot has completed, which
ends the quantum of a Q-th branch (R44), and the branch's control waits for ERET. At the end of the active loop its retirement counts an
iteration (R180), and ERET goes on past the end (R245; assumption log 43). -/
def State.retireTrap (s : State) (e : Enc) (f : Flt) : State :=
  match s.wave.frag, s.tree? s.wave.tree with
  | some fr, some t =>
    let s := s.countRetired
    let x := s.wave.cur
    let inDelay := fr.after.isSome && !s.wave.hnd
    let atEnd := s.wave.lcnt ≠ 0 && fr.pc = s.wave.loopEnd && fr.after.isNone
    let s := if atEnd then s.upd fun w => { w with lcnt := w.lcnt - 1 } else s
    let s := s.upd fun w => (({ w with ticket := none, stalled := false } : Wave).tickSlot x).setFrag { fr with sig := crcExtend fr.sig e.sig }
    let s := s.raise f true
    s.quantumEnd t false inDelay .seq x
  | _, _ => s

/-! ## Issue -/

/-- Where an instruction may stand: majors 0x18 to 0x1F and EXIT and ERET not in a delay slot (R149), the majors 0x18 to 0x1F not at
the end of a loop body (R181). -/
inductive Site where
  | plain | branch | ending
  deriving DecidableEq, Repr

/-- What an instruction did: it retired and hands on control; it retired and then raises (TRAP); it raises without effect; or it does
not retire now (a wait or a stall, with the state it leaves). -/
inductive Act where
  | done (s : State) (c : Ctl)
  | trap (s : State) (f : Flt)
  | fault (f : Flt)
  | hold (s : State)
  deriving DecidableEq, Repr

/-- The next state after an instruction issued from state `s`. -/
def State.finish (s : State) (e : Enc) : Act → Host.Outcome State Fault Refusal
  | .done s' c => .next (s'.retire e c)
  | .trap s' f => .next (s'.retireTrap e f)
  | .fault f => .next (s.raise f)
  | .hold s' => .next s'

/-- Whether a register is pending (R147), and by which accesses. -/
def Wave.pendingOn (w : Wave) (touch : List Reg) : List Far := w.far.filter fun f => f.pend.any touch.contains

/-- An instruction that reads or writes a pending register waits (R147): it ends the quantum when the value returns only at the
commit of the current one (R227), raises MEMERR when the access failed (R216), and otherwise stalls. None: nothing is pending. The registers are
those the instruction names, also when its E is empty and it reads and writes no lane (R185): which of R147 and R185 comes first is open, and this is
the model's choice (assumption log 55). -/
def State.pendingWait (s : State) (t : Tree) (touch : List Reg) : Option Act :=
  let ps := s.wave.pendingOn touch
  match ps with
  | [] => none
  | p :: _ =>
    match ps.find? (fun f => f.err.isSome) with
    | some f => match f.err with
      | some (c, a) => some (.fault { code := c, addr := a, pc := some f.pc })
      | none => none
    | none =>
      if !t.cmode && ps.any (fun f => f.quantum == some s.wave.qnt) then some (.hold s.endQuantum)
      else if p.pend.isEmpty then none else some (.hold s.stall)

/-- The first of the faults that earlier work of the wave leaves to its next instruction: a failed join check (R389), then an error of a
barrier arrival (R228), or of a far atomic that FWAITC's quantum committed (R216, R227). They stand with the operation's own faults in R237's
order, before those of the instruction itself, which is this model's choice (assumption log 57). -/
def State.ownErrors (s : State) : Option Act :=
  let mis := match s.wave.sigmis with
    | some (some x, j, m) => if x = s.wave.cur then some (j, m) else none
    | some (none, j, m) => some (j, m)
    | none => none
  match mis, s.wave.errs, s.wave.ticket with
  | some (j, m), _, _ => some (.fault { code := SIGMIS, lanes := some m, detail := 2 ^ 31, pc := some j })
  | none, x :: rest, none => some (.hold ((s.upd fun w => { w with errs := rest }).raise x))
  | _, _, _ => none

/-- Issues an instruction of the issuing wave's fragment (R142, R147 to R149, R181), its faults ranked as R237 says: `ok` that its fields are
legal, `site` where it may stand, `priv` that its privilege forbids it here, `touch` the vector and scalar registers it names, `body` its own
faults and its effect. Without a fragment and its launch tree there is nothing to issue. -/
def State.issueP (s : State) (e : Enc) (ok : Bool) (site : Site) (priv : Frag → Tree → Bool) (touch : List Reg) (body : Frag → Tree → Act) :
    Host.Outcome State Fault Refusal :=
  match s.wave.frag, s.tree? s.wave.tree with
  | some f, some t =>
    s.finish e (
      if !ok then .fault { code := ILLOP }
      else if s.wave.lcnt ≠ 0 && f.pc = s.wave.loopEnd && (site = .branch || f.after.isSome) then .fault { code := ILLOP }
      else if site ≠ .plain && f.after.isSome then .fault { code := DSLOT }
      else if priv f t then .fault { code := PERM }
      else match s.ownErrors with
        | some a => a
        | none => match s.pendingWait t touch with
          | some a => a
          | none => body f t)
  | _, _ => .fault .noOccasion

/-- Issues an instruction that no privilege rule forbids. -/
def State.issue (s : State) (e : Enc) (ok : Bool) (site : Site) (touch : List Reg) (body : Frag → Tree → Act) :
    Host.Outcome State Fault Refusal := s.issueP e ok site (fun _ _ => false) touch body

end Sys2Proof.Machine
end

