-- ==== Sys2Proof/Machine/Touch.lean ====
section
/-! DEFINITION. What each instruction names: the vector and scalar registers that a far access could hold pending (09_encoding.md R147), and
where it may stand (R149, 11_isa_scalar.md R181). -/

namespace Sys2Proof

open Sys2Proof.Machine

/-- The encoding of an instruction as it is fetched. -/
def Instr.enc (i : Instr) : Enc := ⟨i.bytes, i.bytes⟩

/-- Vector register of a field. -/
abbrev rv {n : Nat} (x : BitVec n) : Reg := .v x.toNat
/-- Scalar register of a field. -/
abbrev rs {n : Nat} (x : BitVec n) : Reg := .s x.toNat

/-- The vector and scalar registers an instruction reads or writes (R147), with the following register where R136, R224 and R225
take one. -/
def Instr.touch : Instr → List Reg
  | .add d a b => [rs d, rs a, rs b]
  | .sub d a b => [rs d, rs a, rs b]
  | .mul d a b => [rs d, rs a, rs b]
  | .mulh d a b => [rs d, rs a, rs b]
  | .mulhu d a b => [rs d, rs a, rs b]
  | .div d a b => [rs d, rs a, rs b]
  | .divu d a b => [rs d, rs a, rs b]
  | .rem d a b => [rs d, rs a, rs b]
  | .remu d a b => [rs d, rs a, rs b]
  | .and d a b => [rs d, rs a, rs b]
  | .or d a b => [rs d, rs a, rs b]
  | .xor d a b => [rs d, rs a, rs b]
  | .andn d a b => [rs d, rs a, rs b]
  | .shl d a b => [rs d, rs a, rs b]
  | .shr d a b => [rs d, rs a, rs b]
  | .sra d a b => [rs d, rs a, rs b]
  | .shli d a _ => [rs d, rs a]
  | .shri d a _ => [rs d, rs a]
  | .srai d a _ => [rs d, rs a]
  | .slt d a b => [rs d, rs a, rs b]
  | .sltu d a b => [rs d, rs a, rs b]
  | .min d a b => [rs d, rs a, rs b]
  | .max d a b => [rs d, rs a, rs b]
  | .minu d a b => [rs d, rs a, rs b]
  | .maxu d a b => [rs d, rs a, rs b]
  | .clz d a => [rs d, rs a]
  | .ctz d a => [rs d, rs a]
  | .popc d a => [rs d, rs a]
  | .bfx d a _ _ _ => [rs d, rs a]
  | .bfi d a _ _ => [rs d, rs a]
  | .sel d a b c => [rs d, rs a, rs b, rs c]
  | .addi d a _ => [rs d, rs a]
  | .andi d a _ => [rs d, rs a]
  | .ori d a _ => [rs d, rs a]
  | .xori d a _ => [rs d, rs a]
  | .lih d _ => [rs d]
  | .mova _ a _ => [rs a]
  | .movsa d _ _ => [rs d]
  | .setk _ a => [rs a]
  | .getk d _ => [rs d]
  | .mfs d _ => [rs d]
  | .mts a _ => [rs a]
  | .bc a b _ _ => [rs a, rs b]
  | .jtv v _ b _ => [rv v, rs b]
  | .loopl a _ => [rs a]
  | .loopb a _ => [rs a]
  | .vmov d b => [rv d, rv b]
  | .vaddI32x16 d b => [rv d, rv b]
  | .vsubI32x16 d b => [rv d, rv b]
  | .vmulI32x16 d b => [rv d, rv b]
  | .vandx16 d b => [rv d, rv b]
  | .vorx16 d b => [rv d, rv b]
  | .vxorx16 d b => [rv d, rv b]
  | .vshlI32x16 d b => [rv d, rv b]
  | .vsraI32x16 d b => [rv d, rv b]
  | .vminS32x16 d b => [rv d, rv b]
  | .vmaxS32x16 d b => [rv d, rv b]
  | .vfaddF32x16 d b => [rv d, rv b]
  | .vfsubF32x16 d b => [rv d, rv b]
  | .vfmulF32x16 d b => [rv d, rv b]
  | .vfminF32x16 d b => [rv d, rv b]
  | .vfmaxF32x16 d b => [rv d, rv b]
  | .vaddI32 d a b _ => [rv d, rv a, rv b]
  | .vaddS32 d a b _ => [rv d, rv a, rv b]
  | .vaddU32 d a b _ => [rv d, rv a, rv b]
  | .vsubI32 d a b _ => [rv d, rv a, rv b]
  | .vsubS32 d a b _ => [rv d, rv a, rv b]
  | .vsubU32 d a b _ => [rv d, rv a, rv b]
  | .vmulI32 d a b _ => [rv d, rv a, rv b]
  | .vmulhS32 d a b _ => [rv d, rv a, rv b]
  | .vmulhU32 d a b _ => [rv d, rv a, rv b]
  | .vmadI32 d a b _ => [rv d, rv a, rv b]
  | .vand d a b _ => [rv d, rv a, rv b]
  | .vor d a b _ => [rv d, rv a, rv b]
  | .vxor d a b _ => [rv d, rv a, rv b]
  | .vandn d a b _ => [rv d, rv a, rv b]
  | .vshlI32 d a b _ => [rv d, rv a, rv b]
  | .vshrI32 d a b _ => [rv d, rv a, rv b]
  | .vsraI32 d a b _ => [rv d, rv a, rv b]
  | .vminS32 d a b _ => [rv d, rv a, rv b]
  | .vmaxS32 d a b _ => [rv d, rv a, rv b]
  | .vminU32 d a b _ => [rv d, rv a, rv b]
  | .vmaxU32 d a b _ => [rv d, rv a, rv b]
  | .vabsS32 d a _ => [rv d, rv a]
  | .vnegI32 d a _ => [rv d, rv a]
  | .vsel d a b _ => [rv d, rv a, rv b]
  | .vcmpS32 _ a b _ _ => [rv a, rv b]
  | .vcmpU32 _ a b _ _ => [rv a, rv b]
  | .vpopc d a _ => [rv d, rv a]
  | .vclz d a _ => [rv d, rv a]
  | .vbfxU32 d a s _ => [rv d, rv a, rs s]
  | .vbfxS32 d a s _ => [rv d, rv a, rs s]
  | .vaddiI32 d a _ _ => [rv d, rv a]
  | .vshli d a _ _ => [rv d, rv a]
  | .vshri d a _ _ => [rv d, rv a]
  | .vsrai d a _ _ => [rv d, rv a]
  | .vmovs d s _ => [rv d, rs s]
  | .vlane d _ => [rv d]
  | .vmovi d _ _ => [rv d]
  | .vfaddF32 d a b _ => [rv d, rv a, rv b]
  | .vfaddF16X2 d a b _ => [rv d, rv a, rv b]
  | .vfsubF32 d a b _ => [rv d, rv a, rv b]
  | .vfsubF16X2 d a b _ => [rv d, rv a, rv b]
  | .vfmulF32 d a b _ => [rv d, rv a, rv b]
  | .vfmulF16X2 d a b _ => [rv d, rv a, rv b]
  | .vfmaF32 d a b _ => [rv d, rv a, rv b]
  | .vfmaF16X2 d a b _ => [rv d, rv a, rv b]
  | .vfmsF32 d a b _ => [rv d, rv a, rv b]
  | .vfmsF16X2 d a b _ => [rv d, rv a, rv b]
  | .vfnmaF32 d a b _ => [rv d, rv a, rv b]
  | .vfnmaF16X2 d a b _ => [rv d, rv a, rv b]
  | .vfminF32 d a b _ => [rv d, rv a, rv b]
  | .vfmaxF32 d a b _ => [rv d, rv a, rv b]
  | .vfminF16X2 d a b _ => [rv d, rv a, rv b]
  | .vfmaxF16X2 d a b _ => [rv d, rv a, rv b]
  | .vfmaxlF16 d a b _ => [rv d, rv a, rv b]
  | .vfminlF16 d a b _ => [rv d, rv a, rv b]
  | .vfabsF32 d a _ => [rv d, rv a]
  | .vfnegF32 d a _ => [rv d, rv a]
  | .vfcopysignF32 d a b _ => [rv d, rv a, rv b]
  | .vfabsF16X2 d a _ => [rv d, rv a]
  | .vfnegF16X2 d a _ => [rv d, rv a]
  | .vfcopysignF16X2 d a b _ => [rv d, rv a, rv b]
  | .vfcmpF32 _ a b _ _ => [rv a, rv b]
  | .vfrcpF32 d a _ => [rv d, rv a]
  | .vfrsqF32 d a _ => [rv d, rv a]
  | .vfrcpF16X2 d a _ => [rv d, rv a]
  | .vfrsqF16X2 d a _ => [rv d, rv a]
  | .vfdivF32 d a b _ => [rv d, rv a, rv b]
  | .vfsqrtF32 d a _ => [rv d, rv a]
  | .vcvt d a _ _ _ => [rv d, rv a]
  | .vpackF16X2 d a b _ => [rv d, rv a, rv b]
  | .vpackBf16x2 d a b _ => [rv d, rv a, rv b]
  | .vpackE2M1X d a _ => [rv d, rv a]
  | .vunpklF16 d a _ => [rv d, rv a]
  | .vunpkhF16 d a _ => [rv d, rv a]
  | .vunpklBf16 d a _ => [rv d, rv a]
  | .vunpkhBf16 d a _ => [rv d, rv a]
  | .setfmt a => [rs a]
  | .getfmt d => [rs d]
  | .vfclassF32 d a _ => [rv d, rv a]
  | .vfclassF16X2 d a _ => [rv d, rv a]
  | .vshfl d a b _ => [rv d, rv a, rv b]
  | .vshfliXor d a _ _ => [rv d, rv a]
  | .vshfliUp d a _ _ => [rv d, rv a]
  | .vshfliDown d a _ _ => [rv d, rv a]
  | .vbc d a s _ => [rv d, rv a, rs s]
  | .vballot _ a _ => [rv a]
  | .voteAll _ a _ => [rv a]
  | .voteAny _ a _ => [rv a]
  | .voteNone _ a _ => [rv a]
  | .voteUni _ a _ => [rv a]
  | .vfirst d a _ => [rv d, rv a]
  | .mmovs d _ => [rs d]
  | .mmovm _ s => [rs s]
  | .mpopc d _ => [rs d]
  | .vldc t _ _ _ _ _ => [rv t]
  | .vstc t _ _ _ _ _ => [rv t]
  | .vldg t _ b _ _ => [rv t, rv b]
  | .vstg t _ b _ _ => [rv t, rv b]
  | .vldb t _ _ _ _ _ => [rv t]
  | .sld s _ _ _ _ => [rs s]
  | .sst s _ _ _ => [rs s]
  | .spld t _ _ => [rv t]
  | .spst t _ _ => [rv t]
  | .atomvAddI32 _ t a _ _ _ => [rv t, rv a]
  | .atomvAddF32 _ t a _ _ _ => [rv t, rv a]
  | .atomvMinS32 _ t a _ _ _ => [rv t, rv a]
  | .atomvMaxS32 _ t a _ _ _ => [rv t, rv a]
  | .atomvMinU32 _ t a _ _ _ => [rv t, rv a]
  | .atomvMaxU32 _ t a _ _ _ => [rv t, rv a]
  | .atomvAnd _ t a _ _ _ => [rv t, rv a]
  | .atomvOr _ t a _ _ _ => [rv t, rv a]
  | .atomvXor _ t a _ _ _ => [rv t, rv a]
  | .atomvXchg _ t a _ _ _ => [rv t, rv a]
  | .atomvCas _ t a _ _ _ => [rv t, rv a, .v (a.toNat + 1)]
  | .atomvMaxlF16 _ t a _ _ _ => [rv t, rv a]
  | .atomvMinlF16 _ t a _ _ _ => [rv t, rv a]
  | .atomvAddI64 _ t a _ _ r => [rv t, rv a, .v (a.toNat + 1)] ++ (if r = 0 then [] else [.v (t.toNat + 1)])
  | .atomsAddI32 _ d a _ _ r => [rs a] ++ (if r = 0 then [] else [rs d])
  | .atomsAddF32 _ d a _ _ r => [rs a] ++ (if r = 0 then [] else [rs d])
  | .atomsMinS32 _ d a _ _ r => [rs a] ++ (if r = 0 then [] else [rs d])
  | .atomsMaxS32 _ d a _ _ r => [rs a] ++ (if r = 0 then [] else [rs d])
  | .atomsMinU32 _ d a _ _ r => [rs a] ++ (if r = 0 then [] else [rs d])
  | .atomsMaxU32 _ d a _ _ r => [rs a] ++ (if r = 0 then [] else [rs d])
  | .atomsAnd _ d a _ _ r => [rs a] ++ (if r = 0 then [] else [rs d])
  | .atomsOr _ d a _ _ r => [rs a] ++ (if r = 0 then [] else [rs d])
  | .atomsXor _ d a _ _ r => [rs a] ++ (if r = 0 then [] else [rs d])
  | .atomsXchg _ d a _ _ r => [rs a] ++ (if r = 0 then [] else [rs d])
  | .atomsCas _ d a _ _ r => [rs a, .s (a.toNat + 1)] ++ (if r = 0 then [] else [rs d])
  | .atomsMaxlF16 _ d a _ _ r => [rs a] ++ (if r = 0 then [] else [rs d])
  | .atomsMinlF16 _ d a _ _ r => [rs a] ++ (if r = 0 then [] else [rs d])
  | .atomsAddI64 _ d a _ _ r => [rs a] ++ (if r = 0 then [] else [rs d])
  | .binit _ b _ => [rs b]
  | .barx _ b _ => [rs b]
  | .btry d _ b => [rs d, rs b]
  | .bwait _ b => [rs b]
  | .waitc _ b _ _ => [rs b]
  | .acq d a => [rs d, rs a]
  | .acrel a b => [rs a, rs b]
  | .aczero _ s _ => [rs s]
  | .acrd _ s _ _ _ => [rs s]
  | .acwr _ s _ _ _ => [rs s]
  | .accvt _ s _ _ _ => [rs s]
  | .mma _ s _ _ _ _ _ _ => [rs s]
  | .ftest d _ => [rs d]
  | .dhset a b => [rs a, rs b]
  | .dhwait a => [rs a]
  | .dhget d a => [rs d, rs a]
  | .dhrel a => [rs a]
  | .wptr d _ b => [rs d, rs b]
  | .cpyq _ _ a b => [rs a, rs b]
  | .pub _ b => [rs b]
  | .opbeg b => [rs b]
  | .oparg _ a b => [rs a, rs b]
  | .opend _ _ b => [rs b]
  | .chrd d => [rs d]
  | .chbase d => [rs d]
  | .chwait a => [rs a]
  | .chslipHold a => [rs a]
  | .chslipSkip a => [rs a]
  | .tsend _ _ a b => [rs a, rs b]
  | .trecv a b => [rs a, rs b]
  | .rpt b => [rs b]
  | .sigck a => [rs a]
  | _ => []

/-- Where an instruction may stand (R149, R181). -/
def Instr.site : Instr → Site
  | .bc _ _ _ _ => .branch
  | .j _ => .branch
  | .jal _ => .branch
  | .jr _ => .branch
  | .bv _ _ _ => .branch
  | .jtv _ _ _ _ => .branch
  | .loopl _ _ => .branch
  | .loopb _ _ => .branch
  | .exit => .ending
  | .eret => .ending
  | _ => .plain

end Sys2Proof

namespace Sys2Proof.Machine

/-- Issues a CIS instruction from the issuing wave: its legality, place, pending registers and encoding are the instruction's own. -/
def State.issueI (s : State) (i : Instr) (body : Frag → Tree → Act) : Host.Outcome State Fault Refusal :=
  s.issue i.enc i.wellFormed i.site i.touch body

/-- Issues a CIS instruction that `priv` may forbid (R54, R182, R235, R237, R240). -/
def State.issueIP (s : State) (i : Instr) (priv : Frag → Tree → Bool) (body : Frag → Tree → Act) : Host.Outcome State Fault Refusal :=
  s.issueP i.enc i.wellFormed i.site priv i.touch body

end Sys2Proof.Machine
end

