-- ==== Sys2Proof/Machine/Access.lean ====
section
/-! DEFINITION. Memory accesses of a wave: near and far, in both modes (07_memory.md R101, R109, R110, R116 to R119, R125, R126;
13_isa_memory.md R212 to R216), and atomics (R222, R223). -/

namespace Sys2Proof.Machine

/-! ## Places, hops and latencies (R17, R109) -/

/-- Logical die of a core key (R17). -/
def coreDie (core : Nat) : Nat := core % 512 / 88
/-- Hop count between two logical cores, the dies overlaid (R109). -/
def hops (a b : Nat) : Nat :=
  let r := fun c : Nat => c % 512 % 88 / 11
  let k := fun c : Nat => c % 512 % 88 % 11
  let d := fun x y : Nat => if x < y then y - x else x - y
  d (r a) (r b) + d (k a) (k b)

/-- Effect and landing offsets of a slice access from core `a` to core `b` (Table 7-2). -/
def sliceLat (a b : Nat) : Nat × Nat :=
  let h := hops a b
  if coreDie a = coreDie b then (12 + h, 24 + 2 * h) else (48 + h, 96 + 2 * h)

/-- Whether a physical address lies on a stack of the core's own logical die (R106). -/
def ownStack (core pa : Nat) : Bool := pa / 2 ^ 36 % 8 / 2 = coreDie core

/-- Issue-to-calendar and slot-to-value latencies of a stack access (R110, Table 7-2). -/
def stackLat (core pa : Nat) : Nat × Nat := if ownStack core pa then (64, 640) else (112, 736)

/-- The owner of calendar slot `i` (Table 7-8): a logical core, an engine (die × 16 + engine), or none. -/
inductive SlotOwner where
  | core (l : Nat)
  | engine (e : Nat)
  | free
  deriving DecidableEq, Repr

/-- Table 7-8, for a grid of `nc` teams on `dies` logical dies. -/
def slotOwner (nc dies i : Nat) : SlotOwner :=
  if i % 8 < 6 then .core ((6 * (i / 8) + i % 8) % nc)
  else if i % 8 = 6 then .engine (i / 128 % dies * 16 + i / 8 % 16)
  else .free

/-- The frame origin F (R110, R335). -/
def State.frame (s : State) : Nat := match s.chorusTree with | some t => t.base | none => 0

/-- First slot of a channel's calendar that starts at or after `ready` and that `usable` admits (R110): its start. -/
def firstSlot (f nc dies : Nat) (usable : SlotOwner → Bool) : Nat → Nat → Nat
  | 0, k => f + 5 * k
  | n + 1, k => if usable (slotOwner nc dies (k % 1024)) then f + 5 * k else firstSlot f nc dies usable n (k + 1)

/-- Takes a calendar slot for a requester on the channel of a physical address (R110): slots of one requester go in issue order. -/
def State.takeSlot (s : State) (req : Nat) (usable : SlotOwner → Bool) (pa ready : Nat) : Nat × State :=
  let f := s.frame
  let (nc, dies) := match s.chorusTree with
    | some t => match t.grid? 0 with
      | some g => (max 1 (g.x * g.y * g.z), max 1 ((g.x * g.y * g.z + 87) / 88))
      | none => (1, 1)
    | none => (1, 1)
  let key := req * 256 + pa / 2 ^ 36 % 8 * 32 + pa / 2 ^ 10 % 32
  let last := (s.calendar.find? (·.1 == key)).map (·.2)
  let ready := match last with | some l => max ready (l + 5) | none => ready
  let k := (max ready f - f + 4) / 5
  let usable := if s.chorusTree.isSome then usable else fun _ => true
  let st := firstSlot f nc dies usable 1024 k
  (st, { s with calendar := (key, st) :: s.calendar.filter (·.1 != key) })

/-! ## Bank claims in C-mode (R126) -/

/-- Registers the use of slice banks by an access in count `at_`: it conflicts with every other requester of a bank in that count, and with
another word of its own. -/
def State.claim (s : State) (core at_ : Nat) (acc : Nat) (user : User) (rd : Bool) : List Nat → State
  | [] => s
  | off :: offs =>
    let c := s.core core
    let b := off / 16 % 64
    let w := off / 1024
    let met := (c.claims.filter fun x => x.at_ == at_ && x.bank == b && !(x.acc == acc && x.word == w)).map fun x =>
      ({ at_ := at_, core := core, bank := b, word := w, a := x.acc, b := acc, ua := x.user, ub := user } : Clash)
    let s := { s with clashes := s.clashes ++ met.filter fun (k : Clash) => !(s.clashes.any fun (j : Clash) => j.at_ == k.at_ && j.core == k.core && j.bank == k.bank && j.a == k.a && j.b == k.b) }
    let s := s.updCore core fun c =>
      { c with claims := { at_ := at_, bank := b, word := w, rd := rd, acc := acc, user := user } :: c.claims.filter (fun x => decide (s.chc ≤ x.at_)) }
    s.claim core at_ acc user rd offs

/-- The user of a wave's accesses, by the instruction at `pc`. -/
def Wave.user (w : Wave) (cls : Nat) (pc : Dword) : User := { cls := cls, place := w.core % 512, wave := w.num, pc := pc.toNat }

/-- Requester class and identity as the kind-2 entry codes the second one (Table 26-2). -/
def User.detail (u : User) : Nat := u.cls * 2 ^ 30 + u.place % 1024 * 2 ^ 20 + u.wave % 2 ^ 20

/-- Whether a requester of a bank is a wave (R126): class EN and a flit from a link are none. -/
def User.isWave (u : User) : Bool := u.cls ≠ 2 && decide (u.place < 1024)

/-- Takes back what atomics have done whose bank windows a conflict has met (R126): no conflicting access takes effect. -/
def State.undoAtomics (s : State) (accs : List Nat) : State :=
  let hit := s.undo.filter fun u => accs.contains u.acc && decide (s.chc ≤ u.last)
  hit.foldl (fun (s : State) u =>
    ({ s with slices := u.bytes.foldl (fun m x => m.put emptyByte x.1 x.2) s.slices } : State).mapWaves fun w =>
      { w with far := w.far.map fun x => if x.id == u.far then { x with res := x.res.filter fun r => !u.res.contains r } else x })
    { s with undo := s.undo.filter fun u => !accs.contains u.acc }

/-- BANKCF (R126): raised at the conflicting wave with the lowest %wave, or at wave 0 of the bank's core when no wave is involved; the
grid stops, with a kind-2 entry that names the bank and the first two requesters. The conflicts of one bank in one count are one fault. -/
def State.bankFault (s : State) (k : Clash) : State :=
  let same := fun x : Clash => x.at_ == k.at_ && x.core == k.core && x.bank == k.bank
  let users := (s.clashes.filter same).flatMap fun x => [x.ua, x.ub]
  let s := s.undoAtomics ((s.clashes.filter same).flatMap fun x => [x.a, x.b])
  let pick := (users.filter User.isWave).foldl (fun (m : Option User) u => match m with
    | some v => if u.wave < v.wave then some u else m
    | none => some u) none
  match if k.raised then none else s.chorusTree with
  | none => s
  | some t =>
    let s := { s with clashes := s.clashes.map fun (x : Clash) => if same x then { x with raised := true } else x }
    let off := fun pc : Nat => (pc + 2 ^ 64 - t.code.addr) % 2 ^ 32
    let home := s.allWaves.find? fun w => w.tree == t.id && w.core == k.core && w.tw == 0
    let (c, w, pc) := match pick with
      | some u => (u.place, u.wave, off u.pc)
      | none => match home with
        | some w => (k.core % 512, w.num, match w.frag with | some f => off f.pc.toNat | none => 0xFFFFFFFF)
        | none => (k.core % 512, 0, 0xFFFFFFFF)
    s.stopTree t { q := s.chc, core := c, wave := w, code := BANKCF, kind := 2, pc := pc, addr := k.word * 64 + k.bank, lanes := 0
                   flags := k.ua.cls * 16 + (if k.ua.sender then 64 else 0) + (if k.ub.sender then 128 else 0)
                   detail := k.ub.detail, first := some k.ua.wave }

/-- Whether the use of a bank by `acc` at this count conflicts (R126): neither access takes effect. -/
def State.clashNow (s : State) (acc : Nat) : Option Clash :=
  s.clashes.find? fun k => k.at_ == s.chc && (k.a == acc || k.b == acc)

/-! ## Reading -/

/-- A byte as a far read of the wave in L-mode returns it (R117): memory as committed, overlaid with the wave's own uncommitted far
stores, but never on a publishable page (R111). -/
def State.farByte (s : State) (t : Tree) (w : Wave) (va : Nat) : Byte :=
  match s.locate w.core t.n va with
  | .error _ => 0
  | .ok l =>
    let own := match l with | .page x => !x.pbl | .slice _ _ => true
    let base := s.byteAtLoc (!t.cmode) l
    if !own then base
    else t.pend.foldl (fun b r =>
      if r.wid != w.wid then b else
      match r.eff with
      | .store bs => bs.foldl (fun b x =>
          match s.locate w.core t.n x.1 with
          | .ok l' => if l'.readKey == l.readKey then x.2 else b
          | .error _ => b) b
      | _ => b) base

/-- A byte as a near read or a C-mode read finds it at its effect. -/
def State.nowByte (s : State) (core n va : Nat) : Byte :=
  match s.locate core n va with
  | .error _ => 0
  | .ok l => s.byteAtLoc false l

/-- `size` bytes at an address as a number, each read by `rd`. -/
def readNat (rd : Nat → Byte) (va size : Nat) : Nat := leNat ((List.range size).map fun i => rd (va + i))

/-- Bytes per lane of a load. -/
def LoadAs.size : LoadAs → Nat
  | .scalar _ n _ => n
  | .btry _ _ => 8
  | .pairs _ => 8
  | _ => 4

/-- The result a load forms from its lanes' values (R217, R219, R224, R225, R228). -/
def LoadAs.form : LoadAs → List (Nat × Nat) → Option Res
  | .lanes r, xs => some (.vec r (xs.map fun (l, v) => (l, BitVec.ofNat 32 v)))
  | .scalar r n sx, xs =>
    let v := match xs with | (_, v) :: _ => v | [] => 0
    some (.sca r (if sx then (BitVec.ofNat (8 * n) v).signExtend 64 else BitVec.ofNat 64 v))
  | .btry r p, xs =>
    let v := match xs with | (_, v) :: _ => v | [] => 0
    some (.sca r (if phaseDone (v % 4096) p then 1 else 0))
  | .pairs r, xs => some (.two (.vec r (xs.map fun (l, v) => (l, BitVec.ofNat 32 v)))
      (.vec (r + 1) (xs.map fun (l, v) => (l, BitVec.ofNat 32 (v / 2 ^ 32)))))
  | .latch, _ => none
  | .nothing, _ => none

/-- The registers a load leaves pending (R147, R213), s0 as any other; an atomic that returns nothing leaves none. -/
def LoadAs.pend : LoadAs → List Reg
  | .lanes r => [.v r]
  | .scalar r _ _ => [.s r]
  | .btry r _ => [.s r]
  | .pairs r => [.v r, .v (r + 1)]
  | _ => []

/-! ## Slices that serve only a chorus task (R127) -/

/-- Whether an address leads into a slice that is held against a tree. -/
def State.heldAt (s : State) (core n tree va : Nat) : Bool :=
  match s.locate core n va with
  | .ok (.slice c _) => s.heldSlice c tree
  | _ => false

/-! ## Far accesses under way -/

/-- Place of a wave in the order of R119: core, then %wave. -/
def Wave.order (w : Wave) : Nat := w.core % 512 * 2 ^ 40 + w.num % 2 ^ 40

/-- A far access begins (R65, R213): %fc rises and its registers are pending. Answers its identity. -/
def State.beginFar (s : State) (f : Frag) (pend : List Reg) (acq : Bool) : Nat × State :=
  let id := s.nextAcc
  let x : Far := { id := id, pend := pend, pc := f.pc, acq := acq, issued := s.wave.qnt }
  (id, ({ s with nextAcc := id + 1 } : State).upd fun w => { w with fc := w.fc + 1, far := w.far ++ [x] })

/-- Updates the far access `id` of whichever wave has it. -/
def State.updFar (s : State) (id : Nat) (f : Far → Far) : State :=
  s.mapWaves fun w => { w with far := w.far.map fun x => if x.id == id then f x else x }

/-- FAR_VALUE_LAND (R213): the value lands, its registers stop being pending, %fc falls. A failed access stays pending until a reader
raises its fault (R216); where the wave's FWAITC ended the quantum whose commit makes it, the fault is raised as that wait ends (R227). -/
def State.landFar (s : State) (id : Nat) : State :=
  s.mapWaves fun w =>
    match w.far.find? (·.id == id) with
    | none => w
    | some x =>
      let w := { w with fc := w.fc - 1 }
      let w := match x.err with
        | some (c, a) => if w.fwaited then { w with errs := w.errs ++ [{ code := c, addr := a, pc := some x.pc }] } else w
        | none => w
      if x.err.isSome then { w with far := w.far.map fun y => if y.id == id then { y with due := none, quantum := none } else y }
      else
        let w := x.res.foldl Wave.land1 w
        { w with far := w.far.filter (·.id != id) }

/-! ## Guards -/

/-- The first memory access of a quantum waits for the commit of the one before (R47). -/
def State.needsCommit (s : State) (t : Tree) : Bool := !t.cmode && decide (t.committed < s.wave.qnt)

/-- Whether a near access touches the operand range of an incomplete matrix instruction of the core (R265): L-mode. -/
def State.nearBusy (s : State) (core : Nat) (offs : List Nat) : Bool :=
  (s.core core).ops.any fun o => decide (s.chc < o.comp) && o.len ≠ 0 && offs.any fun a => decide (o.lo ≤ a) && decide (a ≤ o.hi)

/-- A slice address as every core names it. -/
def flatOf (core va : Nat) : Nat := if va < 0x400000 then 0x7E0000000000 + core % 512 * 0x400000 + va else va

/-- Logical cores of a desk. -/
def State.deskN (s : State) (d : Nat) : Nat := match s.desk? d with | some k => k.n | none => 0

/-- Whose view an operation's addresses take: the core of a C-mode grid, whose pinned translations it uses (R108), or none of its desk's cores. A
local alias has become a flat address before (R419). -/
def EngReq.view (r : EngReq) : Nat :=
  match r.core, r.start with
  | some c, some _ => c
  | _, _ => deskView r.desk

/-- The range of the rows that the table of a gathered COPY names as it stands (R118, R312): lowest byte and end. -/
def State.rowsRange (s : State) (r : EngReq) : Option (Nat × Nat) :=
  match r.gath with
  | none => none
  | some (g, n, base, stride, len) =>
    let es := ((List.range n).map fun i => readNat (s.nowByte r.view (s.deskN r.desk)) (g + 4 * i) 4).filter (· ≠ 0xFFFFFFFF)
    let as := es.map fun (e : Nat) => (((base : Int) + (e : Int) * stride) % 2 ^ 64).toNat
    match as with
    | [] => none
    | a :: rest => some (rest.foldl min a, rest.foldl max a + len)

/-- Whether `n` bytes at `a` meet a range given by its lowest byte and its end. -/
def touches (a n : Nat) (r : Nat × Nat) : Bool := decide (a < r.2) && decide (r.1 < a + n)

/-- Whether `n` bytes at `a` meet the source of an engine request, by its lowest and highest byte (R118). -/
def State.touchesSrc (s : State) (a n : Nat) (r : EngReq) : Bool :=
  touches a n r.src || (match s.rowsRange r with | some x => touches a n x | none => false)

/-- Engine requests of a tree under way outside chorus mode: in flight from the commit of their quantum (R118). -/
def State.inFlight (s : State) (tree : Nat) : List EngReq :=
  (s.chans.flatMap fun (_, c) => c.reqs).filter fun r => r.core.isSome && r.tree == tree && r.start.isNone

/-- Whether an access in L-mode waits for an engine operation in flight (R118): a far read of bytes it writes, or an access of the own slice
to bytes it reads or writes. -/
def State.engineWaits (s : State) (t : Tree) (core size : Nat) (need : Need) (ls : List (Nat × Nat)) : Bool :=
  (s.inFlight t.id).any fun r => ls.any fun (_, va) =>
    let a := flatOf core va
    let own := a / 0x400000 == (0x7E0000000000 + core % 512 * 0x400000) / 0x400000
    if own then touches a size r.dst || s.touchesSrc a size r else need == .read && touches a size r.dst

/-- C-mode: an access after an acquire whose value has not landed waits (R215). -/
def State.acquireBusy (s : State) : Bool := s.wave.far.any (fun f => f.acq && f.due.isSome) || s.wave.flight.any (·.acq)

/-- The wait for an acquire: each cycle it forfeits brings the value of a near acquire one issue slot nearer (R62, R215). -/
def State.acquireStall (s : State) : State :=
  (s.upd fun w => ({ w with flight := w.flight.map fun f => if f.acq then { f with left := f.left - 1 } else f } : Wave).land).stall

/-- The counts at which the wave's PUBs still to come exchange their pages (R112). -/
def State.pubCounts (s : State) (wid : Nat) : List Nat :=
  s.agenda.filterMap fun d => match d.ev with | .pub _ _ _ w _ => if w = wid then some d.at_ else none | _ => none

/-- Latest effect count of the wave's accesses on their way, an exchange by PUB among them (R112, R215, R226). -/
def State.lastEffect (s : State) : Option Nat :=
  let xs := ((s.accesses.filter fun a => a.wid == s.wave.wid).map (·.at_) ++ s.pubCounts s.wave.wid).filter fun e => decide (s.chc ≤ e)
  if xs.isEmpty then none else some (xs.foldl max 0)

/-- Slice offsets of the lanes that lie in the core's own slice. -/
def State.ownOffsets (s : State) (core n size : Nat) (ls : List (Nat × Nat)) : List Nat :=
  ls.flatMap fun (_, va) => match s.locate core n va with
    | .ok (.slice c o) => if c = core then (List.range size).map (o + ·) else []
    | _ => []

/-- Whether every lane lies in the core's own slice (R101, R213). -/
def State.allNear (s : State) (core n : Nat) (ls : List (Nat × Nat)) : Bool :=
  ls.all fun (_, va) => match s.locate core n va with
    | .ok (.slice c _) => c == core
    | _ => false

/-- Whether an uncorrectable error stands where an access reaches memory at an address (R216). -/
def State.badVa (s : State) (core n va : Nat) (write : Bool := false) : Bool :=
  match s.locate core n va with
  | .ok l => s.badAt l write
  | _ => false

/-- The first lane's address at which an uncorrectable error stands (R216). -/
def State.laneBad (s : State) (core n : Nat) (ls : List (Nat × Nat)) (write : Bool := false) : Option Nat :=
  (ls.find? fun (_, va) => s.badVa core n va write).map (·.2)

/-- Records an uncorrectable error in the slice or the accumulators of a core (R399): an entry, and a second one within 24 hours of powered time retires
the core at the next reset. -/
def State.coreError (s : State) (core : Nat) (e : Entry) : State :=
  let p := s.place core
  let again := s.proctor.uncorr.any fun x => x.1 == p && decide (s.seconds - x.2 < 86400)
  let s := { s with proctor := { s.proctor with uncorr := s.proctor.uncorr ++ [(p, s.seconds)]
                                                retireNext := if again then s.proctor.retireNext ++ [p] else s.proctor.retireNext } }
  (s.log (s.atCore core e)).count (counterKey 5 p) 16

/-- Records an uncorrectable error met at a virtual address (R399): a kind-4 entry, which names the stack or the core (R9); the physical
16 KiB granule joins the retired list, and a second error in a core's slice within 24 hours retires the core at the next reset. `e` names the
reader. -/
def State.memErrorOf (s : State) (core n va : Nat) (e : Entry) (write : Bool := false) : State :=
  let e := { e with kind := 4, code := MEMERR, desk := core / 512, addr := va }
  match s.locate core n va with
  | .ok (.page x) =>
    let pa := (if write then x.writeFrame else x.readFrame) + x.off
    let g := pa / 0x4000
    let s := { s with proctor := { s.proctor with granules := if s.proctor.granules.contains g then s.proctor.granules else s.proctor.granules ++ [g] } }
    (s.log { e with unit := 8 + pa / 2 ^ 36 % 8, ploc := 0, detail := 2 }).count (counterKey 5 (2 ^ 16 + (pa / 2 ^ 36 % 8 * 32 + pa / 2 ^ 10 % 32))) 16
  | .ok (.slice c _) =>
    s.coreError c e
  | .error _ => s

/-- An uncorrectable error that a wave's access meets. -/
def State.waveError (s : State) (wid n va : Nat) (write : Bool) (pc : Dword) : State :=
  match s.wave? wid with
  | none => s.memErrorOf wid n va {} write
  | some w =>
    let base := match s.tree? w.tree with | some t => t.code.addr | none => 0
    s.memErrorOf w.core n va { tree := w.tree, wave := w.num, ord := w.grid, pcoff := (pc - BitVec.ofNat 64 base).toNat % 2 ^ 32 } write

/-- What an entry says of the issuing wave: its tree, number, grid and PC. -/
def State.waveEntry (s : State) : Entry :=
  let base := match s.tree? s.wave.tree with | some t => t.code.addr | none => 0
  { tree := s.wave.tree, wave := s.wave.num, ord := s.wave.grid
    pcoff := match s.wave.frag with | some f => (f.pc - BitVec.ofNat 64 base).toNat % 2 ^ 32 | none => 0xFFFFFFFF }

/-- An uncorrectable error that the issuing wave meets. -/
def State.memError (s : State) (core n va : Nat) : State := s.memErrorOf core n va s.waveEntry

/-- A far access of a wave fails at an address (R216): the error waits for an instruction of the wave that waits on the access. A store leaves no
register pending, and its error waits for FWAITC or the last EXIT. -/
def State.farFails (s : State) (wid n far va : Nat) (write : Bool) (pc : Dword) : State :=
  let s := s.waveError wid n va write pc
  let e := some (MEMERR, BitVec.ofNat 64 va)
  s.updWave wid fun w =>
    if w.far.any (·.id == far) then { w with far := w.far.map fun x => if x.id == far && x.err.isNone then { x with err := e } else x }
    else { w with far := w.far ++ [{ id := far, pend := [], err := e, pc := pc }] }

/-- MEMERR raised at the instruction that meets it (R216). -/
def State.failNow (s : State) (n va : Nat) : Act :=
  .hold ((s.memError s.wave.core n va).raise { code := MEMERR, addr := BitVec.ofNat 64 va })

/-- Runs an access of the issuing wave once it may: the checks of R212 first, then the waits of R47, R215 and R265; `rel` and `acq` of R215. -/
def State.access (s : State) (t : Tree) (need : Need) (size : Nat) (ls : List (Nat × Nat)) (k : Act) : Act :=
  match s.checkLanes t s.wave.core need size ls with
  | some f => .fault f
  | none =>
    if s.needsCommit t then .hold (s.waitCommit s.wave.qnt s.wave.qnt)
    else if !t.cmode && s.nearBusy s.wave.core (s.ownOffsets s.wave.core t.n size ls) then .hold s.stall
    else if !t.cmode && s.engineWaits t s.wave.core size need ls then .hold s.stall
    else if t.cmode && s.acquireBusy then .hold s.acquireStall
    else k

/-! ## C-mode scheduling -/

/-- Effect and landing counts of one lane in C-mode (R109, R110, R214): near accesses at issue + 2; device memory by the calendar. -/
def State.laneTimes (s : State) (t : Tree) (near : Bool) (write : Bool) (va : Nat) : (Nat × Nat) × State :=
  let core := s.wave.core
  if near then ((s.chc + 2, s.chc + 8), s)
  else match s.locate core t.n va with
    | .ok (.slice c _) => let l := sliceLat core c; ((s.chc + l.1, s.chc + l.2), s)
    | .ok (.page x) =>
      let pa := (if write then x.writeLog else x.readLog) + x.off
      let l := stackLat core pa
      let (st, s) := s.takeSlot (core % 512) (· == .core (core % 512)) pa (s.chc + l.1)
      ((st, st + l.2), s)
    | .error _ => ((s.chc + 2, s.chc + 8), s)

/-- The 128-byte line of an address. -/
def lineOf (va : Nat) : Nat := va / 128

/-- Times of every line the lanes touch, in ascending address order (R110): one slot per line of device memory. -/
def State.lineTimes (s : State) (t : Tree) (near write : Bool) (ls : List (Nat × Nat)) : List (Nat × Nat × Nat) × State :=
  let lines := (ls.map fun x => lineOf x.2).eraseDups.sortBy (fun a b => decide (a ≤ b))
  lines.foldl (fun (acc : List (Nat × Nat × Nat) × State) l =>
    let ((e, d), s) := acc.2.laneTimes t near write (l * 128)
    (acc.1 ++ [(l, e, d)], s)) ([], s)

/-- Slice uses of lanes at their effect count (R126): core and offset. -/
def State.sliceUses (s : State) (core n : Nat) (vas : List Nat) : List (Nat × Nat) :=
  vas.filterMap fun va => match s.locate core n va with
    | .ok (.slice c o) => some (c, o)
    | _ => none

/-- Registers the bank claims of an access's lanes (R126); an atomic holds its bank for the next two counts too. -/
def State.claimLanes (s : State) (core n at_ acc : Nat) (user : User) (rd atomic : Bool) (vas : List Nat) : State :=
  (s.sliceUses core n vas).foldl (fun s (c, o) =>
    let s := s.claim c at_ acc user rd [o]
    if atomic then (s.claim c (at_ + 1) acc user rd [o]).claim c (at_ + 2) acc user rd [o] else s) s

/-- Puts the lanes of an access on their way in C-mode: one record per effect count. Their requester class is WV for a near access and MS for a far
one (R126, Table 7-6). Answers the last landing count. -/
def State.sendLanes (s : State) (t : Tree) (f : Frag) (owner : Nat) (near write atomic : Bool) (ls : List (Nat × Nat))
    (mk : List (Nat × Nat) → Access → Access) : Nat × State :=
  let w := s.wave
  let (times, s) := s.lineTimes t near write ls
  let effects := (times.map fun x => x.2.1).eraseDups
  let land := times.foldl (fun m x => max m x.2.2) 0
  let s := effects.foldl (fun (s : State) e =>
    let mine := ls.filter fun x => times.any fun y => y.1 == lineOf x.2 && y.2.1 == e
    let a : Access := { id := s.nextAcc, owner := owner, wid := w.wid, core := w.core, at_ := e, pc := f.pc, far := !near, issued := s.chc }
    let s := { s with nextAcc := s.nextAcc + 1, accesses := s.accesses ++ [mk mine a] }
    let s := s.claimLanes w.core t.n e a.id (w.user (if near then 0 else 1) f.pc) (!write) atomic (mine.map (·.2))
    s.schedule e 2 w.order (.effect a.id)) s
  (land, s)

/-! ## Loads and stores -/

/-- Bytes at the lanes of a load that are read at once although the load is held (R127): those outside slices that are held against the tree. -/
def State.knownBytes (s : State) (t : Tree) (w : Wave) (size : Nat) (ls : List (Nat × Nat)) : List (Nat × Byte) :=
  ((ls.flatMap fun x => (List.range size).map (x.2 + ·)).filter fun va => !s.heldAt w.core t.n t.id va).map fun va => (va, s.farByte t w va)

/-- A vector or scalar load, or BTRY (R213, R214, R217, R219): near with latency 6, far asynchronous; held where it reaches a slice that serves
a chorus task (R127). -/
def State.load (s : State) (t : Tree) (f : Frag) (ls : List (Nat × Nat)) (form : LoadAs) (acq : Bool)
    (post : State → State) : Act :=
  let w := s.wave
  let size := form.size
  s.access t .read size ls (
    if ls.isEmpty then .done (post s) .seq
    else if s.allNear w.core t.n ls then
      if t.cmode then
        match s.laneBad w.core t.n ls with
        | some va => s.failNow t.n va
        | none =>
        let id := s.nextAcc
        let s := { s with nextAcc := id + 1 }
        let s := match form.form [] with
          | some r => s.upd fun w => { w with flight := w.flight ++ [({ slot := w.cur, left := 6, res := r, acc := some id, acq := acq } : Flight)] }
          | none => s
        let (_, s) := s.sendLanes t f id true false false ls fun mine a => { a with load := mine, form := form }
        .done (post s) .seq
      else match s.laneBad w.core t.n ls with
        | some va => s.failNow t.n va
        | none =>
          let vals := ls.map fun (l, va) => (l, readNat (s.nowByte w.core t.n) va size)
          match form.form vals with
          | some r => .done (post (s.result 6 r)) .seq
          | none => .done (post s) .seq
    else
      let (id, s) := s.beginFar f form.pend acq
      if t.cmode then
        let (land, s) := s.sendLanes t f id false false false ls fun mine a => { a with load := mine, form := form }
        let s := s.updFar id fun x => { x with due := some land }
        .done (post (s.schedule land 2 w.order (.far id))) .seq
      else if ls.any fun x => s.heldAt w.core t.n t.id x.2 then
        .done (post { s with held := s.held ++ [.load id w.wid w.core t.id ls form (s.knownBytes t w size ls)] }) .seq
      else
        let vals := ls.map fun (l, va) => (l, readNat (s.farByte t w) va size)
        let land := ls.foldl (fun m (_, va) => match s.locate w.core t.n va with
          | .ok (.slice c _) => max m (s.chc + (sliceLat w.core c).2)
          | .ok (.page x) => let l := stackLat w.core (x.readLog + x.off); max m (s.chc + l.1 + l.2)
          | .error _ => m) s.chc
        let s := match s.laneBad w.core t.n ls with
          | some va => s.farFails w.wid t.n id va false f.pc
          | none => s
        let s := s.updFar id fun x => { x with due := some land, res := (form.form vals).toList }
        .done (post (s.schedule land 2 w.order (.far id))) .seq)

/-- Adds a commit record of the issuing wave (R45, R46). -/
def State.addCommit (s : State) (t : Tree) (e : Effect) (aux : Nat := 0) : State :=
  let w := s.wave
  let pc : Dword := match w.frag with | some f => f.pc | none => 0
  let r : Commit := { q := w.qnt, grid := w.grid, wave := w.num, wid := w.wid, core := w.core, eff := e, pc := pc, aux := aux }
  s.updTree t.id fun t => { t with pend := t.pend ++ [r] }

/-- Near stores of the wave's own core: a byte that a matrix instruction wrote and no commit has made visible is the store's from now on
(R265). -/
def State.nearStore (s : State) (core n : Nat) (bs : List (Nat × Byte)) : State :=
  s.putBytes core n bs

/-- A vector or scalar store (R213, R214, R217, R219): near at once, far at the commit; in C-mode at the effect count. `ls` gives lane
and address, `data` the value of a lane. -/
def State.store (s : State) (t : Tree) (f : Frag) (size : Nat) (ls : List (Nat × Nat)) (data : Nat → Nat) (rel : Bool)
    (post : State → State) : Act :=
  let w := s.wave
  s.access t .write size ls (
    let near := s.allNear w.core t.n ls
    let bytes := fun (mine : List (Nat × Nat)) => mine.flatMap fun (l, va) => bytesAt va size (data l)
    let bad := if near then s.laneBad w.core t.n ls true else none
    if ls.isEmpty then .done (post s) .seq
    else match bad with
    | some va => s.failNow t.n va
    | none =>
    if t.cmode then
      let first := match s.lineTimes t near true ls with | (ts, _) => ts.foldl (fun m x => min m x.2.1) (s.chc + 2 ^ 40)
      let late := match s.lastEffect with | some e => decide (first ≤ e) | none => false
      if rel && late then .hold s.stall
      else
        let (_, s) := s.sendLanes t f s.nextAcc near true false ls fun mine a => { a with eff := some (.store (bytes mine)) }
        .done (post s) .seq
    else if near then .done (post (s.nearStore w.core t.n (bytes ls))) .seq
    else .done (post (s.addCommit t (.store (bytes ls)))) .seq)

/-! ## Atomics (R222 to R225) -/

/-- The new value of an atomic operation (Table 13-4): `w` the old value, `x` the operand, `c` the compare value. -/
def atomicNew (aop : Nat) (w x c : Dword) : Dword :=
  let w32 := lo32 w; let x32 := lo32 x
  let z := fun y : Word => y.setWidth 64
  match aop with
  | 0 => z (w32 + x32)
  | 1 => BitVec.ofNat 64 (fp32.fadd w32.toNat x32.toNat).1
  | 2 => z (if x32.slt w32 then x32 else w32)
  | 3 => z (if w32.slt x32 then x32 else w32)
  | 4 => z (if x32.ult w32 then x32 else w32)
  | 5 => z (if w32.ult x32 then x32 else w32)
  | 6 => z (w32 &&& x32)
  | 7 => z (w32 ||| x32)
  | 8 => z (w32 ^^^ x32)
  | 9 => z x32
  | 10 => z (if w32 = lo32 c then x32 else w32)
  | 11 => z (maxL false w32 x32)
  | 12 => z (maxL true w32 x32)
  | _ => w + x

/-- Bytes an atomic acts on. -/
def atomicSize (aop : Nat) : Nat := if aop = 13 then 8 else 4

/-- A number at the place atomics act on: the slice, or the frame stores write (R111, R223). -/
def State.atomicRead (s : State) (core n size va : Nat) : Nat :=
  readNat (fun a => match s.locate core n a with
    | .ok (.slice c o) => s.slices.get emptyByte (sliceKey c o)
    | .ok (.page x) => s.devByte (x.writeFrame + x.off)
    | .error _ => 0) va size

/-- Applies the lanes of an atomic in order (R125, R224): each sees the earlier lanes' results. A lane that meets an uncorrectable error has no
effect (R216). Answers the old values. -/
def State.atomicLanes (s : State) (core n aop : Nat) : List (Nat × Nat × Dword × Dword) → State × List (Nat × Nat)
  | [] => (s, [])
  | (l, va, x, c) :: r =>
    if s.badVa core n va true then s.atomicLanes core n aop r else
    let size := atomicSize aop
    let w := s.atomicRead core n size va
    let s := s.putBytes core n (bytesAt va size (atomicNew aop (BitVec.ofNat 64 w) x c).toNat)
    let (s, olds) := s.atomicLanes core n aop r
    (s, (l, w) :: olds)

/-- The read-modify-write windows of the slice words at the keys listed, outside chorus mode (R125, Table 7-6): each distinct word takes the next
window of its bank that no earlier atomic has, at the earliest in the frame at hand. A window is cycles 5 to 7 of an 8-count frame. Answers the count
at which the last of them has ended. Which windows an access may still reach is this model's reading (assumption log 65). -/
def State.takeWindows (s : State) (keys : List Nat) : Nat × State :=
  ((keys.map (· / 16)).eraseDups).foldl (fun (r : Nat × State) k =>
    let core := k * 16 / 0x400000
    let bank := k % 64
    let m := max ((r.2.chc + 2) / 8) ((r.2.core core).windows.get 0 bank)
    (max r.1 (8 * m + 8), r.2.updCore core fun c => { c with windows := c.windows.put 0 bank (m + 1) })) (s.chc, s)

/-- An atomic of the issuing wave (R213, R214, R222): asynchronous near or far; its old values land at `form` when it returns them. -/
def State.atomic (s : State) (t : Tree) (f : Frag) (aop sc : Nat) (ls : List (Nat × Nat × Dword × Dword)) (form : LoadAs)
    (rel acq : Bool) : Act :=
  let w := s.wave
  let size := atomicSize aop
  let vas := ls.map fun (l, va, _, _) => (l, va)
  s.access t .write size vas (
    if ls.isEmpty then .done s .seq
    else
      let near := s.allNear w.core t.n vas
      let first := match s.lineTimes t near true vas with | (ts, _) => ts.foldl (fun m x => min m x.2.1) (s.chc + 2 ^ 40)
      let late := match s.lastEffect with | some e => decide (first ≤ e) | none => false
      if t.cmode && rel && late then .hold s.stall
      else
        let (id, s) := s.beginFar f form.pend acq
        if t.cmode then
          let (land, s) := s.sendLanes t f id near true true vas fun mine a =>
            { a with eff := some (.atomic aop (ls.filter fun x => mine.any fun y => y.1 == x.1) form id) }
          let s := s.updFar id fun x => { x with due := some land }
          .done (s.schedule land 2 w.order (.far id)) .seq
        else if near then
          let s := match s.laneBad w.core t.n vas true with
            | some va => s.farFails w.wid t.n id va true f.pc
            | none => s
          let (s, olds) := s.atomicLanes w.core t.n aop ls
          let (land, s) := s.takeWindows (s.keysOf w.core t.n (vas.map (·.2)))
          let s := s.updFar id fun x => { x with due := some land, res := (form.form olds).toList }
          .done (s.schedule land 2 w.order (.far id)) .seq
        else
          let s := s.updFar id fun x => { x with quantum := some w.qnt }
          .done (s.addCommit t (.atomic aop ls form id) (16 * sc)) .seq)

end Sys2Proof.Machine
end

