-- ==== Sys2Proof/Machine/Fetch.lean ====
section
/-! DEFINITION. Fetching an instruction (09_encoding.md R131, R132, R143) and the fall-through of a branch (R148). -/

namespace Sys2Proof.Machine

/-- The parcel at a PC in the core's loop buffer: after the first iteration of the LOOPB that loaded it, the issuing wave's loop body issues from
there (R182). -/
def State.heldParcel (s : State) (core va : Nat) : Option Nat :=
  match (s.core core).loopBuf with
  | none => none
  | some b =>
    let w := s.wave
    let lo := b.start.toNat
    if w.wid = b.wid && w.lcnt ≠ 0 && decide (w.lcnt.toNat < b.count) && w.loopStart = b.start && decide (lo ≤ va) && decide (va + 2 ≤ lo + b.bytes.length)
    then some (field b.bytes (va - lo) 2) else none

/-- The parcel at a PC as a fragment of a launch tree on core `core` fetches it from memory, or the fault (R131, R132). -/
def State.memParcel (s : State) (t : Tree) (core va : Nat) : Except Flt Nat :=
  match s.accessFault core t.n .fetch 2 va with
  | some (c, tc) => .error { code := c, tcls := tc, addr := BitVec.ofNat 64 va }
  | none =>
    match s.locate core t.n va with
    | .ok (.page x) =>
      if s.badAt (.page x) then .error { code := MEMERR, addr := BitVec.ofNat 64 va }
      else .ok (s.devNat (x.readFrame + x.off) 2)
    | _ => .error { code := PERM, addr := BitVec.ofNat 64 va }

/-- The parcel at a PC: from the loop buffer where it holds the body (R182), else from memory. -/
def State.parcel (s : State) (t : Tree) (core va : Nat) : Except Flt Nat :=
  match s.heldParcel core va with
  | some p => .ok p
  | none => s.memParcel t core va

/-- The instruction word at a PC with its length in bytes: one parcel, or two when bit 0 of the first is 1 (R131). -/
def State.fetch (s : State) (t : Tree) (core : Nat) (pc : Dword) : Except Flt (Nat × Nat) :=
  match s.parcel t core pc.toNat with
  | .error f => .error f
  | .ok p =>
    if p % 2 = 0 then .ok (p, 2)
    else match s.parcel t core (pc + 2).toNat with
      | .error f => .error f
      | .ok q => .ok (p + 65536 * q, 4)

/-- Length of the instruction at a PC, read from its first parcel; an instruction that cannot be fetched counts as 4 bytes. Where
control passes over an instruction that is never fetched, an End with count 0 (R180) or the instruction at %epc (R245), no fault comes of it, and the
length is this model's choice (assumption log 69). -/
def State.lenAt (s : State) (t : Tree) (core : Nat) (pc : Dword) : Nat :=
  match s.parcel t core pc.toNat with
  | .ok p => if p % 2 = 0 then 2 else 4
  | .error _ => 4

/-- The fall-through of a branch at `pc`: the address after its delay slot (R148). -/
def State.fallThrough (s : State) (t : Tree) (pc : Dword) : Dword :=
  pc + 4 + BitVec.ofNat 64 (s.lenAt t s.wave.core (pc + 4))

end Sys2Proof.Machine
end

