-- ==== Sys2Proof/Machine/Scalar.lean ====
section
/-! DEFINITION. Meanings of the scalar, address, modulo and state-register instructions (11_isa_scalar.md R161 to R173; Table 11-2). -/

namespace Sys2Proof.Machine

/-! ## Shared forms -/

/-- An instruction whose only effect is a change of state that follows from the registers and its fragment. -/
def State.plainOp (s : State) (i : Instr) (k : State → Frag → Tree → State) : Host.Outcome State Fault Refusal :=
  s.issueI i fun f t => .done (k s f t) .seq

/-- An instruction that writes one register with exposed latency `lat` (R62). -/
def State.regOp (s : State) (i : Instr) (lat : Nat) (r : Wave → Res) : Host.Outcome State Fault Refusal :=
  s.plainOp i fun s _ _ => s.result lat (r s.wave)

/-- A scalar instruction of two sources (Table 11-2). -/
def State.scalar2 (s : State) (i : Instr) (lat : Nat) (d a b : BitVec 5) (op : Dword → Dword → Dword) : Host.Outcome State Fault Refusal :=
  s.regOp i lat fun w => .sca d.toNat (op (w.rs a.toNat) (w.rs b.toNat))

/-- A scalar instruction of one source. -/
def State.scalar1 (s : State) (i : Instr) (lat : Nat) (d a : BitVec 5) (op : Dword → Dword) : Host.Outcome State Fault Refusal :=
  s.regOp i lat fun w => .sca d.toNat (op (w.rs a.toNat))

/-- A truth value as a register (R163). -/
def bool64 (b : Bool) : Dword := if b then 1 else 0
/-- Quotient of signed values rounded toward zero (R164). -/
def divS (a b : Dword) : Dword := if b = 0 then -1 else a.sdiv b
/-- Unsigned quotient (R164). -/
def divU (a b : Dword) : Dword := if b = 0 then -1 else a / b
/-- Remainder with the sign of the dividend (R164). -/
def remS (a b : Dword) : Dword := if b = 0 then a else a.srem b
/-- Unsigned remainder (R164). -/
def remU (a b : Dword) : Dword := if b = 0 then a else a % b
/-- Bits [127:64] of the signed product. -/
def mulHigh (a b : Dword) : Dword := ((a.signExtend 128 * b.signExtend 128) >>> 64).setWidth 64
/-- Bits [127:64] of the unsigned product. -/
def mulHighU (a b : Dword) : Dword := ((a.setWidth 128 * b.setWidth 128) >>> 64).setWidth 64
/-- Number of leading zero bits of a value (R166). -/
def leadingZeros {n : Nat} (x : BitVec n) : Nat := n - bitLen x.toNat
/-- Number of trailing zero bits of a value, its width for 0 (R166). -/
def trailingZeros {n : Nat} (x : BitVec n) : Nat := ((List.range n).takeWhile fun i => !x.getLsbD i).length
/-- Number of one bits (R166). -/
def onesCount {n : Nat} (x : BitVec n) : Nat := ((List.range n).filter fun i => x.getLsbD i).length
/-- The field of `w` bits at `p`, extended (R167). -/
def bitField (a : Dword) (p w : Nat) (sx : Bool) : Dword :=
  let f := a.toNat / 2 ^ p % 2 ^ w
  if sx then (BitVec.ofNat w f).signExtend 64 else BitVec.ofNat 64 f
/-- `d` with its field of `w` bits at `p` replaced by the low bits of `a` (R167). -/
def insertField (d a : Dword) (p w : Nat) : Dword :=
  let m : Dword := BitVec.ofNat 64 ((2 ^ w - 1) * 2 ^ p)
  (d &&& ~~~ m) ||| ((a <<< p) &&& m)
/-- A 14-bit signed immediate. -/
def imm (i : BitVec 14) : Dword := i.signExtend 64

/-! ## Scalar arithmetic and logic (R163 to R168) -/

/-- ADD. -/
def execAdd (d a b : BitVec 5) (s : State) := s.scalar2 (.add d a b) 1 d a b fun x y => x + y
/-- SUB. -/
def execSub (d a b : BitVec 5) (s : State) := s.scalar2 (.sub d a b) 1 d a b fun x y => x - y
/-- MUL. -/
def execMul (d a b : BitVec 5) (s : State) := s.scalar2 (.mul d a b) 3 d a b fun x y => x * y
/-- MULH. -/
def execMulh (d a b : BitVec 5) (s : State) := s.scalar2 (.mulh d a b) 3 d a b mulHigh
/-- MULHU. -/
def execMulhu (d a b : BitVec 5) (s : State) := s.scalar2 (.mulhu d a b) 3 d a b mulHighU
/-- DIV (R164). -/
def execDiv (d a b : BitVec 5) (s : State) := s.scalar2 (.div d a b) 12 d a b divS
/-- DIVU (R164). -/
def execDivu (d a b : BitVec 5) (s : State) := s.scalar2 (.divu d a b) 12 d a b divU
/-- REM (R164). -/
def execRem (d a b : BitVec 5) (s : State) := s.scalar2 (.rem d a b) 12 d a b remS
/-- REMU (R164). -/
def execRemu (d a b : BitVec 5) (s : State) := s.scalar2 (.remu d a b) 12 d a b remU
/-- AND. -/
def execAnd (d a b : BitVec 5) (s : State) := s.scalar2 (.and d a b) 1 d a b fun x y => x &&& y
/-- OR. -/
def execOr (d a b : BitVec 5) (s : State) := s.scalar2 (.or d a b) 1 d a b fun x y => x ||| y
/-- XOR. -/
def execXor (d a b : BitVec 5) (s : State) := s.scalar2 (.xor d a b) 1 d a b fun x y => x ^^^ y
/-- ANDN. -/
def execAndn (d a b : BitVec 5) (s : State) := s.scalar2 (.andn d a b) 1 d a b fun x y => x &&& ~~~ y
/-- SHL (R165). -/
def execShl (d a b : BitVec 5) (s : State) := s.scalar2 (.shl d a b) 1 d a b fun x y => x <<< (y.toNat % 64)
/-- SHR (R165). -/
def execShr (d a b : BitVec 5) (s : State) := s.scalar2 (.shr d a b) 1 d a b fun x y => x >>> (y.toNat % 64)
/-- SRA (R165). -/
def execSra (d a b : BitVec 5) (s : State) := s.scalar2 (.sra d a b) 1 d a b fun x y => x.sshiftRight (y.toNat % 64)
/-- SHLI (R165). -/
def execShli (d a : BitVec 5) (n : BitVec 6) (s : State) := s.scalar1 (.shli d a n) 1 d a fun x => x <<< n.toNat
/-- SHRI (R165). -/
def execShri (d a : BitVec 5) (n : BitVec 6) (s : State) := s.scalar1 (.shri d a n) 1 d a fun x => x >>> n.toNat
/-- SRAI (R165). -/
def execSrai (d a : BitVec 5) (n : BitVec 6) (s : State) := s.scalar1 (.srai d a n) 1 d a fun x => x.sshiftRight n.toNat
/-- SLT. -/
def execSlt (d a b : BitVec 5) (s : State) := s.scalar2 (.slt d a b) 1 d a b fun x y => bool64 (x.slt y)
/-- SLTU. -/
def execSltu (d a b : BitVec 5) (s : State) := s.scalar2 (.sltu d a b) 1 d a b fun x y => bool64 (x.ult y)
/-- MIN. -/
def execMin (d a b : BitVec 5) (s : State) := s.scalar2 (.min d a b) 1 d a b fun x y => if y.slt x then y else x
/-- MAX. -/
def execMax (d a b : BitVec 5) (s : State) := s.scalar2 (.max d a b) 1 d a b fun x y => if x.slt y then y else x
/-- MINU. -/
def execMinu (d a b : BitVec 5) (s : State) := s.scalar2 (.minu d a b) 1 d a b fun x y => if y.ult x then y else x
/-- MAXU. -/
def execMaxu (d a b : BitVec 5) (s : State) := s.scalar2 (.maxu d a b) 1 d a b fun x y => if x.ult y then y else x
/-- CLZ (R166). -/
def execClz (d a : BitVec 5) (s : State) := s.scalar1 (.clz d a) 1 d a fun x => BitVec.ofNat 64 (leadingZeros x)
/-- CTZ (R166). -/
def execCtz (d a : BitVec 5) (s : State) := s.scalar1 (.ctz d a) 1 d a fun x => BitVec.ofNat 64 (trailingZeros x)
/-- POPC (R166). -/
def execPopc (d a : BitVec 5) (s : State) := s.scalar1 (.popc d a) 1 d a fun x => BitVec.ofNat 64 (onesCount x)
/-- BFX (R167). -/
def execBfx (d a : BitVec 5) (p w : BitVec 6) (x : BitVec 1) (s : State) :=
  s.scalar1 (.bfx d a p w x) 1 d a fun y => bitField y p.toNat (w.toNat + 1) (x == 1)
/-- BFI (R167). -/
def execBfi (d a : BitVec 5) (p w : BitVec 6) (s : State) :=
  s.scalar2 (.bfi d a p w) 1 d d a fun x y => insertField x y p.toNat (w.toNat + 1)
/-- SEL (R168). -/
def execSel (d a b c : BitVec 5) (s : State) :=
  s.regOp (.sel d a b c) 1 fun w => .sca d.toNat (if w.rs c.toNat ≠ 0 then w.rs a.toNat else w.rs b.toNat)

/-! ## Immediates (R169) -/

/-- ADDI. -/
def execAddi (d a : BitVec 5) (i : BitVec 14) (s : State) := s.scalar1 (.addi d a i) 1 d a fun x => x + imm i
/-- ANDI. -/
def execAndi (d a : BitVec 5) (i : BitVec 14) (s : State) := s.scalar1 (.andi d a i) 1 d a fun x => x &&& imm i
/-- ORI. -/
def execOri (d a : BitVec 5) (i : BitVec 14) (s : State) := s.scalar1 (.ori d a i) 1 d a fun x => x ||| imm i
/-- XORI. -/
def execXori (d a : BitVec 5) (i : BitVec 14) (s : State) := s.scalar1 (.xori d a i) 1 d a fun x => x ^^^ imm i
/-- LIH. -/
def execLih (d : BitVec 5) (i : BitVec 19) (s : State) := s.regOp (.lih d i) 1 fun _ => .sca d.toNat (i.signExtend 64 <<< 13)

/-! ## Address and modulo registers (R170, R171) -/

/-- ADDA. -/
def execAdda (d a : BitVec 4) (i : BitVec 14) (s : State) := s.regOp (.adda d a i) 1 fun w => .adr d.toNat (w.ra a.toNat + imm i)
/-- MOVA. -/
def execMova (d : BitVec 4) (a : BitVec 5) (i : BitVec 14) (s : State) :=
  s.regOp (.mova d a i) 1 fun w => .adr d.toNat (w.rs a.toNat + imm i)
/-- MOVSA. -/
def execMovsa (d : BitVec 5) (a : BitVec 4) (i : BitVec 14) (s : State) :=
  s.regOp (.movsa d a i) 1 fun w => .sca d.toNat (w.ra a.toNat + imm i)
/-- SETK. -/
def execSetk (k : BitVec 3) (a : BitVec 5) (s : State) := s.regOp (.setk k a) 1 fun w => .kmod k.toNat (w.rs a.toNat)
/-- GETK. -/
def execGetk (d : BitVec 5) (k : BitVec 3) (s : State) := s.regOp (.getk d k) 1 fun w => .sca d.toNat (w.rk k.toNat)

/-! ## State registers (R172, R173, Table 11-7, Table 14-2) -/

/-- The value of a state register as the issuing fragment reads it. -/
def State.stateReg (s : State) (f : Frag) (t : Tree) (n : Nat) : Dword :=
  let w := s.wave
  let c := s.core w.core
  match n with
  | 0x000 => BitVec.ofNat 64 w.num
  | 0x001 => BitVec.ofNat 64 w.team
  | 0x002 => BitVec.ofNat 64 w.tw
  | 0x003 => BitVec.ofNat 64 (w.core % 512)
  | 0x004 => BitVec.ofNat 64 t.n
  | 0x005 => w.tbase
  | 0x006 => f.mask.setWidth 64
  | 0x007 => if t.cmode then 0 else BitVec.ofNat 64 w.qnt
  | 0x008 => w.fc
  | 0x009 => w.lcnt
  | 0x010 => w.fflags.setWidth 64
  | 0x011 => (c.dgen ++ c.vgen : BitVec 64)
  | 0x020 => BitVec.ofNat 64 s.chc
  | 0x021 => if t.cmode then BitVec.ofNat 64 t.base else 0
  | 0x022 => s.drift
  | 0x040 => w.fault
  | 0x041 => w.faddr
  | 0x042 => w.epc
  | 0x043 => w.etgt
  | 0x044 => w.hpc
  | 0x045 => w.fdat
  | _ => 0

/-- A write of a writable state register (R5, R92, R172, Table 14-2). -/
def State.setStateReg (s : State) (n : Nat) (x : Dword) : State :=
  match n with
  | 0x010 => s.upd fun w => { w with fflags := lo32 x &&& 0x3F }
  | 0x011 => s.updCore s.wave.core fun c => { c with vgen := seedHalf (lo32 x), dgen := seedHalf (lo32 (x >>> 32)) }
  | 0x042 => s.upd fun w => { w with epc := x }
  | 0x043 => s.upd fun w => { w with etgt := x }
  | 0x044 => s.upd fun w => { w with hpc := x &&& ~~~ (1 : Dword) }
  | _ => s

/-- MFS. -/
def execMfs (d : BitVec 5) (n : BitVec 14) (s : State) :=
  s.plainOp (.mfs d n) fun s f t => s.result 1 (.sca d.toNat (s.stateReg f t n.toNat))
/-- MTS. -/
def execMts (a : BitVec 5) (n : BitVec 14) (s : State) :=
  s.plainOp (.mts a n) fun s _ _ => s.setStateReg n.toNat (s.wave.rs a.toNat)

end Sys2Proof.Machine
end

