-- ==== Sys2Proof/Machine/Control.lean ====
section
/-! DEFINITION. Meanings of the control instructions (11_isa_scalar.md R174 to R183; 09_encoding.md R148, R149). -/

namespace Sys2Proof.Machine

/-- A branch of all lanes: control passes to `target` after the delay slot (R148, R174 to R176). -/
def State.jump (s : State) (target : Dword) : Act := .done s (.delay (.goto target))

/-- BC (R174). -/
def execBc (a b : BitVec 5) (c : BitVec 3) (o : BitVec 11) (s : State) :=
  s.issueI (.bc a b c o) fun f t =>
    s.jump (if scalarCond c.toNat (s.wave.rs a.toNat) (s.wave.rs b.toNat) then target f.pc o else s.fallThrough t f.pc)

/-- J (R175). -/
def execJ (o : BitVec 24) (s : State) := s.issueI (.j o) fun f _ => s.jump (target f.pc o)

/-- JAL (R175): the link register a15 lands with latency 1. -/
def execJal (o : BitVec 24) (s : State) :=
  s.issueI (.jal o) fun f t => (s.result 1 (.adr 15 (s.fallThrough t f.pc))).jump (target f.pc o)

/-- JR (R176). -/
def execJr (a : BitVec 4) (s : State) :=
  s.issueI (.jr a) fun _ _ =>
    let x := s.wave.ra a.toNat
    if x.getLsbD 0 then .fault { code := ALIGN, addr := x } else s.jump x

/-- Entries that the split decided in the other slot, and not yet performed, takes from the split stack (R56). -/
def Wave.pendingNeed (w : Wave) : Nat :=
  match w.getSlot (!w.cur) with
  | some f => match f.after with | some (.split gs _) => splitNeed gs.length false | _ => 0
  | none => 0

/-- Hands a split decision on to the end of the delay slot (R56, R178): only groups with lanes are listed, and the entries it
needs must fit beside those of a split that the other slot has decided already (SPLITOV). -/
def State.split (s : State) (groups : List (Dword × Mask)) (join : Dword) : Act :=
  let gs := groups.filter fun g => g.2 ≠ 0
  let need := splitNeed gs.length (s.wave.getSlot (!s.wave.cur)).isNone
  if need ≠ 0 && 64 < s.wave.depth + s.wave.pendingNeed + need then .fault { code := SPLITOV }
  else .done s (.delay (.split gs join))

/-- BV (R177): the fall-through first (R56); it raises PERM in handler state (R240). -/
def execBv (m : BitVec 3) (tg : BitVec 10) (jo : BitVec 11) (s : State) :=
  s.issueIP (.bv m tg jo) (fun _ _ => s.wave.hnd) fun f t =>
    let cond := s.wave.rm m.toNat
    s.split [(s.fallThrough t f.pc, f.mask &&& ~~~ cond), (target f.pc tg, f.mask &&& cond)] (target f.pc jo)

/-- The groups of JTV (R178): one per distinct target, in ascending order of the least index among its lanes. `xs` lists lane, index
and target. -/
def jtvGroups (xs : List (Nat × Nat × Dword)) : List (Dword × Mask) :=
  let ordered := xs.sortBy fun a b => decide (a.2.1 ≤ b.2.1)
  (ordered.map fun x => x.2.2).eraseDups.map fun g => (g, maskOf ((xs.filter fun x => x.2.2 == g).map (·.1)))

/-- Starts the hardware loop of a wave (R180): the body runs from the next instruction through the one at `last`. -/
def State.loopStart (s : State) (f : Frag) (t : Tree) (count : Word) (last : Dword) : Act :=
  if count = 0 then .done s (.to (last + BitVec.ofNat 64 (s.lenAt t s.wave.core last)) none)
  else .done (s.upd fun w => { w with loopStart := f.pc + 4, loopEnd := last, lcnt := count.setWidth 64 }) (.to (f.pc + 4) none)

/-- LOOPL (R180): a second active loop raises ILLOP; PERM in handler state (R240). -/
def execLoopl (a : BitVec 5) (o : BitVec 11) (s : State) :=
  let i : Instr := .loopl a o
  s.issueP i.enc (i.wellFormed && s.wave.lcnt == 0) i.site (fun _ _ => s.wave.hnd) i.touch fun f t =>
    s.loopStart f t (lo32 (s.wave.rs a.toNat)) (target f.pc o)

/-- Parcels of a loop body (R182): from the instruction after the loop instruction through the one at its end. -/
def State.bodyParcels (s : State) (t : Tree) (pc last : Dword) : Nat :=
  ((last - (pc + 4)).toNat + s.lenAt t s.wave.core last) / 2

/-- Whether a LOOPB of the issuing fragment has a body of at most 128 parcels (R182). -/
def State.bodyFits (s : State) (o : BitVec 11) : Bool :=
  match s.wave.frag, s.tree? s.wave.tree with
  | some f, some t => decide (s.bodyParcels t f.pc (target f.pc o) ≤ 128)
  | _, _ => true

/-- The loop buffer as a LOOPB of the issuing wave loads it (R182): from memory at the LOOPB's issue, a parcel that cannot be fetched then as zero
bytes. R182 says neither, and both are this model's choice (assumption log 70). -/
def State.loopBody (s : State) (t : Tree) (pc last : Dword) (count : Word) : LoopBuf :=
  { wid := s.wave.wid, start := pc + 4, last := last, count := count.toNat
    bytes := (List.range (s.bodyParcels t pc last)).flatMap fun i => match s.memParcel t s.wave.core (pc.toNat + 4 + 2 * i) with
      | .ok p => leBytes 2 p
      | .error _ => leBytes 2 0 }

/-- LOOPB (R182, R54): conductor only; the core's loop buffer holds the body. -/
def execLoopb (a : BitVec 5) (o : BitVec 11) (s : State) :=
  let i : Instr := .loopb a o
  s.issueP i.enc (i.wellFormed && s.wave.lcnt == 0 && s.bodyFits o) i.site (fun _ t => !t.cmode || s.wave.tw ≠ 0 || s.wave.hnd) i.touch fun f t =>
    let last := target f.pc o
    let count := lo32 (s.wave.rs a.toNat)
    (s.updCore s.wave.core fun c => { c with loopBuf := some (s.loopBody t f.pc last count) }).loopStart f t count last

end Sys2Proof.Machine
end

