-- ==== Sys2Proof/Machine/Vector.lean ====
section
/-! DEFINITION. Meanings of the vector integer, floating-point, cross-lane and mask instructions (12_isa_vector.md R184 to R198,
R203 to R210; 09_encoding.md R133). -/

namespace Sys2Proof.Machine

/-! ## Shared forms -/

/-- A vector instruction that writes the lanes of E, each from the registers of the wave (R184, R186). -/
def State.lanes (s : State) (i : Instr) (lat : Nat) (d : BitVec 6) (m : BitVec 3) (op : Wave → Nat → Word) : Host.Outcome State Fault Refusal :=
  s.plainOp i fun s f _ => s.result lat (.vec d.toNat ((lanesOf (s.wave.eff f m.toNat)).map fun l => (l, op s.wave l)))

/-- One source. -/
def State.lanes1 (s : State) (i : Instr) (lat : Nat) (d a : BitVec 6) (m : BitVec 3) (op : Word → Word) : Host.Outcome State Fault Refusal :=
  s.lanes i lat d m fun w l => op (w.rv a.toNat l)

/-- Two sources. -/
def State.lanes2 (s : State) (i : Instr) (lat : Nat) (d a b : BitVec 6) (m : BitVec 3) (op : Word → Word → Word) : Host.Outcome State Fault Refusal :=
  s.lanes i lat d m fun w l => op (w.rv a.toNat l) (w.rv b.toNat l)

/-- A vector instruction whose lanes also set flags, of the lanes of E only (R84, R186). -/
def State.lanesF (s : State) (i : Instr) (lat : Nat) (d : BitVec 6) (m : BitVec 3) (op : Wave → Nat → Word × Word) : Host.Outcome State Fault Refusal :=
  s.plainOp i fun s f _ =>
    let xs := (lanesOf (s.wave.eff f m.toNat)).map fun l => (l, op s.wave l)
    (s.flag (xs.foldl (fun g x => g ||| x.2.2) 0)).result lat (.vec d.toNat (xs.map fun x => (x.1, x.2.1)))

/-- One source, with flags. -/
def State.lanesF1 (s : State) (i : Instr) (lat : Nat) (d a : BitVec 6) (m : BitVec 3) (op : Word → Word × Word) : Host.Outcome State Fault Refusal :=
  s.lanesF i lat d m fun w l => op (w.rv a.toNat l)

/-- Two sources, with flags. -/
def State.lanesF2 (s : State) (i : Instr) (lat : Nat) (d a b : BitVec 6) (m : BitVec 3) (op : Word → Word → Word × Word) :
    Host.Outcome State Fault Refusal :=
  s.lanesF i lat d m fun w l => op (w.rv a.toNat l) (w.rv b.toNat l)

/-- Two sources and the destination as addend, with flags. -/
def State.lanesF3 (s : State) (i : Instr) (lat : Nat) (d a b : BitVec 6) (m : BitVec 3) (op : Word → Word → Word → Word × Word) :
    Host.Outcome State Fault Refusal :=
  s.lanesF i lat d m fun w l => op (w.rv a.toNat l) (w.rv b.toNat l) (w.rv d.toNat l)

/-- A vector instruction that writes the bits of the lanes of E in a mask register (R184). -/
def State.laneBits (s : State) (i : Instr) (lat : Nat) (d : BitVec 3) (m : BitVec 3) (op : Wave → Nat → Bool × Word) : Host.Outcome State Fault Refusal :=
  s.plainOp i fun s f _ =>
    let e := s.wave.eff f m.toNat
    let xs := (lanesOf e).map fun l => (l, op s.wave l)
    (s.flag (xs.foldl (fun g x => g ||| x.2.2) 0)).result lat (.bits d.toNat (maskOf ((xs.filter fun x => x.2.1).map (·.1))) e)

/-! ## Lane operations -/

/-- A value clamped to a range. -/
def clamp (x lo hi : Int) : Int := if x < lo then lo else if hi < x then hi else x
/-- The signed range of 32 bits. -/
def clampS (x : Int) : Word := BitVec.ofInt 32 (clamp x (-2147483648) 2147483647)
/-- The unsigned range of 32 bits. -/
def clampU (x : Int) : Word := BitVec.ofInt 32 (clamp x 0 4294967295)
/-- Bits [63:32] of the signed product. -/
def laneMulHighS (a b : Word) : Word := ((a.signExtend 64 * b.signExtend 64) >>> 32).setWidth 32
/-- Bits [63:32] of the unsigned product. -/
def laneMulHighU (a b : Word) : Word := ((a.setWidth 64 * b.setWidth 64) >>> 32).setWidth 32
/-- Signed minimum. -/
def minS (a b : Word) : Word := if b.slt a then b else a
/-- Signed maximum. -/
def maxS (a b : Word) : Word := if a.slt b then b else a
/-- Unsigned minimum. -/
def minU (a b : Word) : Word := if b.ult a then b else a
/-- Unsigned maximum. -/
def maxU (a b : Word) : Word := if a.ult b then b else a
/-- VBFX (R190): the field may run past bit 31. -/
def laneField (sx : Bool) (a : Word) (sb : Dword) : Word :=
  let p := sb.toNat % 32
  let w := sb.toNat / 32 % 32 + 1
  let x : BitVec 64 := if sx then (a.signExtend 64).sshiftRight p else a.setWidth 64 >>> p
  let f := BitVec.ofNat w x.toNat
  if sx then f.signExtend 32 else f.setWidth 32

/-- A lane as two halves: an operation on each FP16 half, with the flags of both (R186). -/
def halves1 (op : Nat → Nat × Word) (a : Word) : Word × Word :=
  let (lo, g) := op (a.toNat % 65536)
  let (hi, h) := op (a.toNat / 65536)
  (BitVec.ofNat 32 (hi * 65536 + lo), g ||| h)
/-- Two operands. -/
def halves2 (op : Nat → Nat → Nat × Word) (a b : Word) : Word × Word :=
  let (lo, g) := op (a.toNat % 65536) (b.toNat % 65536)
  let (hi, h) := op (a.toNat / 65536) (b.toNat / 65536)
  (BitVec.ofNat 32 (hi * 65536 + lo), g ||| h)
/-- Three operands. -/
def halves3 (op : Nat → Nat → Nat → Nat × Word) (a b d : Word) : Word × Word :=
  let (lo, g) := op (a.toNat % 65536) (b.toNat % 65536) (d.toNat % 65536)
  let (hi, h) := op (a.toNat / 65536) (b.toNat / 65536) (d.toNat / 65536)
  (BitVec.ofNat 32 (hi * 65536 + lo), g ||| h)
/-- An FP32 operation on lanes. -/
def f32op1 (op : Nat → Nat × Word) (a : Word) : Word × Word := let (x, g) := op a.toNat; (BitVec.ofNat 32 x, g)
/-- Two operands. -/
def f32op2 (op : Nat → Nat → Nat × Word) (a b : Word) : Word × Word := let (x, g) := op a.toNat b.toNat; (BitVec.ofNat 32 x, g)
/-- Three operands. -/
def f32op3 (op : Nat → Nat → Nat → Nat × Word) (a b d : Word) : Word × Word :=
  let (x, g) := op a.toNat b.toNat d.toNat; (BitVec.ofNat 32 x, g)

/-- The FP16 form of an estimate (R89): widened exactly, estimated, rounded RNE. -/
def estimate16 (est : Nat → Nat × Word) (a : Nat) : Nat × Word :=
  let (x, g) := fp32.ofVal .rne (fp16.decode a)
  let (y, h) := est x
  let (z, k) := fp16.ofVal .rne (fp32.decode y)
  (z, g ||| h ||| k)

/-- The class bit of a code (Table 12-4). -/
def classBit (f : Fmt) (code : Nat) : Nat :=
  match f.decode code with
  | .nan sig => if sig then 2 ^ 8 else 2 ^ 9
  | .inf n => if n then 2 ^ 0 else 2 ^ 7
  | .fin n m _ =>
    if m = 0 then (if n then 2 ^ 3 else 2 ^ 4)
    else if m < 2 ^ f.mb then (if n then 2 ^ 2 else 2 ^ 5)
    else (if n then 2 ^ 1 else 2 ^ 6)

/-- VFCMP of one lane (R196): the relation and NV. -/
def laneFcmp (c : Nat) (a b : Word) : Bool × Word :=
  let x := fp32.decode a.toNat
  let y := fp32.decode b.toNat
  let quiet := c = 0 || c = 1 || c = 6 || c = 7
  let nv := if quiet then x.isSnan || y.isSnan else x.isNan || y.isNan
  (fcmp c x y, if nv then flagNV else 0)

/-! ## 16-bit operations (R133): the 32-bit instruction with va = vd and mask m0 -/

/-- A 16-bit operation of two sources. -/
def State.short2 (s : State) (i : Instr) (lat : Nat) (d : BitVec 6) (b : BitVec 5) (op : Word → Word → Word) : Host.Outcome State Fault Refusal :=
  s.lanes2 i lat d d (b.setWidth 6) 0 op
/-- A 16-bit floating operation. -/
def State.shortF2 (s : State) (i : Instr) (d : BitVec 6) (b : BitVec 5) (op : Nat → Nat → Nat × Word) : Host.Outcome State Fault Refusal :=
  s.lanesF2 i 4 d d (b.setWidth 6) 0 (f32op2 op)

/-- VMOV; VMOV vd, vd, NOP16 among them, changes no state (R144). -/
def execVmov (d : BitVec 6) (b : BitVec 5) (s : State) :=
  if d = b.setWidth 6 then s.plainOp (.vmov d b) fun s _ _ => s else s.lanes1 (.vmov d b) 2 d (b.setWidth 6) 0 fun x => x
/-- VADD.I32, 16-bit. -/
def execVaddI32x16 (d : BitVec 6) (b : BitVec 5) (s : State) := s.short2 (.vaddI32x16 d b) 2 d b fun x y => x + y
/-- VSUB.I32, 16-bit. -/
def execVsubI32x16 (d : BitVec 6) (b : BitVec 5) (s : State) := s.short2 (.vsubI32x16 d b) 2 d b fun x y => x - y
/-- VMUL.I32, 16-bit. -/
def execVmulI32x16 (d : BitVec 6) (b : BitVec 5) (s : State) := s.short2 (.vmulI32x16 d b) 4 d b fun x y => x * y
/-- VAND, 16-bit. -/
def execVandx16 (d : BitVec 6) (b : BitVec 5) (s : State) := s.short2 (.vandx16 d b) 2 d b fun x y => x &&& y
/-- VOR, 16-bit. -/
def execVorx16 (d : BitVec 6) (b : BitVec 5) (s : State) := s.short2 (.vorx16 d b) 2 d b fun x y => x ||| y
/-- VXOR, 16-bit. -/
def execVxorx16 (d : BitVec 6) (b : BitVec 5) (s : State) := s.short2 (.vxorx16 d b) 2 d b fun x y => x ^^^ y
/-- VSHL.I32, 16-bit. -/
def execVshlI32x16 (d : BitVec 6) (b : BitVec 5) (s : State) := s.short2 (.vshlI32x16 d b) 2 d b fun x y => x <<< (y.toNat % 32)
/-- VSRA.I32, 16-bit. -/
def execVsraI32x16 (d : BitVec 6) (b : BitVec 5) (s : State) := s.short2 (.vsraI32x16 d b) 2 d b fun x y => x.sshiftRight (y.toNat % 32)
/-- VMIN.S32, 16-bit. -/
def execVminS32x16 (d : BitVec 6) (b : BitVec 5) (s : State) := s.short2 (.vminS32x16 d b) 2 d b minS
/-- VMAX.S32, 16-bit. -/
def execVmaxS32x16 (d : BitVec 6) (b : BitVec 5) (s : State) := s.short2 (.vmaxS32x16 d b) 2 d b maxS
/-- VFADD.F32, 16-bit. -/
def execVfaddF32x16 (d : BitVec 6) (b : BitVec 5) (s : State) := s.shortF2 (.vfaddF32x16 d b) d b fp32.fadd
/-- VFSUB.F32, 16-bit. -/
def execVfsubF32x16 (d : BitVec 6) (b : BitVec 5) (s : State) := s.shortF2 (.vfsubF32x16 d b) d b fp32.fsub
/-- VFMUL.F32, 16-bit. -/
def execVfmulF32x16 (d : BitVec 6) (b : BitVec 5) (s : State) := s.shortF2 (.vfmulF32x16 d b) d b fp32.fmul
/-- VFMIN.F32, 16-bit. -/
def execVfminF32x16 (d : BitVec 6) (b : BitVec 5) (s : State) := s.shortF2 (.vfminF32x16 d b) d b (fp32.fminmax false)
/-- VFMAX.F32, 16-bit. -/
def execVfmaxF32x16 (d : BitVec 6) (b : BitVec 5) (s : State) := s.shortF2 (.vfmaxF32x16 d b) d b (fp32.fminmax true)

/-! ## Integer instructions (R188 to R192, Table 12-1) -/

/-- VADD.I32. -/
def execVaddI32 (d a b : BitVec 6) (m : BitVec 3) (s : State) := s.lanes2 (.vaddI32 d a b m) 2 d a b m fun x y => x + y
/-- VADD.S32. -/
def execVaddS32 (d a b : BitVec 6) (m : BitVec 3) (s : State) := s.lanes2 (.vaddS32 d a b m) 2 d a b m fun x y => clampS (x.toInt + y.toInt)
/-- VADD.U32. -/
def execVaddU32 (d a b : BitVec 6) (m : BitVec 3) (s : State) := s.lanes2 (.vaddU32 d a b m) 2 d a b m fun x y => clampU ((x.toNat : Int) + y.toNat)
/-- VSUB.I32. -/
def execVsubI32 (d a b : BitVec 6) (m : BitVec 3) (s : State) := s.lanes2 (.vsubI32 d a b m) 2 d a b m fun x y => x - y
/-- VSUB.S32. -/
def execVsubS32 (d a b : BitVec 6) (m : BitVec 3) (s : State) := s.lanes2 (.vsubS32 d a b m) 2 d a b m fun x y => clampS (x.toInt - y.toInt)
/-- VSUB.U32. -/
def execVsubU32 (d a b : BitVec 6) (m : BitVec 3) (s : State) := s.lanes2 (.vsubU32 d a b m) 2 d a b m fun x y => clampU ((x.toNat : Int) - y.toNat)
/-- VMUL.I32. -/
def execVmulI32 (d a b : BitVec 6) (m : BitVec 3) (s : State) := s.lanes2 (.vmulI32 d a b m) 4 d a b m fun x y => x * y
/-- VMULH.S32. -/
def execVmulhS32 (d a b : BitVec 6) (m : BitVec 3) (s : State) := s.lanes2 (.vmulhS32 d a b m) 4 d a b m laneMulHighS
/-- VMULH.U32. -/
def execVmulhU32 (d a b : BitVec 6) (m : BitVec 3) (s : State) := s.lanes2 (.vmulhU32 d a b m) 4 d a b m laneMulHighU
/-- VMAD.I32: vd is a source. -/
def execVmadI32 (d a b : BitVec 6) (m : BitVec 3) (s : State) :=
  s.lanes (.vmadI32 d a b m) 4 d m fun w l => w.rv a.toNat l * w.rv b.toNat l + w.rv d.toNat l
/-- VAND. -/
def execVand (d a b : BitVec 6) (m : BitVec 3) (s : State) := s.lanes2 (.vand d a b m) 2 d a b m fun x y => x &&& y
/-- VOR. -/
def execVor (d a b : BitVec 6) (m : BitVec 3) (s : State) := s.lanes2 (.vor d a b m) 2 d a b m fun x y => x ||| y
/-- VXOR. -/
def execVxor (d a b : BitVec 6) (m : BitVec 3) (s : State) := s.lanes2 (.vxor d a b m) 2 d a b m fun x y => x ^^^ y
/-- VANDN. -/
def execVandn (d a b : BitVec 6) (m : BitVec 3) (s : State) := s.lanes2 (.vandn d a b m) 2 d a b m fun x y => x &&& ~~~ y
/-- VSHL.I32 (R189). -/
def execVshlI32 (d a b : BitVec 6) (m : BitVec 3) (s : State) := s.lanes2 (.vshlI32 d a b m) 2 d a b m fun x y => x <<< (y.toNat % 32)
/-- VSHR.I32 (R189). -/
def execVshrI32 (d a b : BitVec 6) (m : BitVec 3) (s : State) := s.lanes2 (.vshrI32 d a b m) 2 d a b m fun x y => x >>> (y.toNat % 32)
/-- VSRA.I32 (R189). -/
def execVsraI32 (d a b : BitVec 6) (m : BitVec 3) (s : State) := s.lanes2 (.vsraI32 d a b m) 2 d a b m fun x y => x.sshiftRight (y.toNat % 32)
/-- VMIN.S32. -/
def execVminS32 (d a b : BitVec 6) (m : BitVec 3) (s : State) := s.lanes2 (.vminS32 d a b m) 2 d a b m minS
/-- VMAX.S32. -/
def execVmaxS32 (d a b : BitVec 6) (m : BitVec 3) (s : State) := s.lanes2 (.vmaxS32 d a b m) 2 d a b m maxS
/-- VMIN.U32. -/
def execVminU32 (d a b : BitVec 6) (m : BitVec 3) (s : State) := s.lanes2 (.vminU32 d a b m) 2 d a b m minU
/-- VMAX.U32. -/
def execVmaxU32 (d a b : BitVec 6) (m : BitVec 3) (s : State) := s.lanes2 (.vmaxU32 d a b m) 2 d a b m maxU
/-- VABS.S32. -/
def execVabsS32 (d a : BitVec 6) (m : BitVec 3) (s : State) := s.lanes1 (.vabsS32 d a m) 2 d a m fun x => if x.slt 0 then -x else x
/-- VNEG.I32. -/
def execVnegI32 (d a : BitVec 6) (m : BitVec 3) (s : State) := s.lanes1 (.vnegI32 d a m) 2 d a m fun x => -x
/-- VSEL (R191): E is the fragment's mask; the selector is ms. -/
def execVsel (d a b : BitVec 6) (ms : BitVec 3) (s : State) :=
  s.lanes (.vsel d a b ms) 2 d 0 fun w l => if (w.rm ms.toNat).getLsbD l then w.rv a.toNat l else w.rv b.toNat l
/-- VCMP.S32 (R192). -/
def execVcmpS32 (d : BitVec 3) (a b : BitVec 6) (m c : BitVec 3) (s : State) :=
  s.laneBits (.vcmpS32 d a b m c) 2 d m fun w l => (laneCond true c.toNat (w.rv a.toNat l) (w.rv b.toNat l), 0)
/-- VCMP.U32 (R192). -/
def execVcmpU32 (d : BitVec 3) (a b : BitVec 6) (m c : BitVec 3) (s : State) :=
  s.laneBits (.vcmpU32 d a b m c) 2 d m fun w l => (laneCond false c.toNat (w.rv a.toNat l) (w.rv b.toNat l), 0)
/-- VPOPC. -/
def execVpopc (d a : BitVec 6) (m : BitVec 3) (s : State) := s.lanes1 (.vpopc d a m) 2 d a m fun x => BitVec.ofNat 32 (onesCount x)
/-- VCLZ. -/
def execVclz (d a : BitVec 6) (m : BitVec 3) (s : State) := s.lanes1 (.vclz d a m) 2 d a m fun x => BitVec.ofNat 32 (leadingZeros x)
/-- VBFX.U32 (R190). -/
def execVbfxU32 (d a : BitVec 6) (b : BitVec 5) (m : BitVec 3) (s : State) :=
  s.lanes (.vbfxU32 d a b m) 2 d m fun w l => laneField false (w.rv a.toNat l) (w.rs b.toNat)
/-- VBFX.S32 (R190). -/
def execVbfxS32 (d a : BitVec 6) (b : BitVec 5) (m : BitVec 3) (s : State) :=
  s.lanes (.vbfxS32 d a b m) 2 d m fun w l => laneField true (w.rv a.toNat l) (w.rs b.toNat)
/-- VADDI.I32. -/
def execVaddiI32 (d a : BitVec 6) (m : BitVec 3) (i : BitVec 9) (s : State) := s.lanes1 (.vaddiI32 d a m i) 2 d a m fun x => x + i.signExtend 32
/-- VSHLI (R189). -/
def execVshli (d a : BitVec 6) (m : BitVec 3) (n : BitVec 5) (s : State) := s.lanes1 (.vshli d a m n) 2 d a m fun x => x <<< n.toNat
/-- VSHRI (R189). -/
def execVshri (d a : BitVec 6) (m : BitVec 3) (n : BitVec 5) (s : State) := s.lanes1 (.vshri d a m n) 2 d a m fun x => x >>> n.toNat
/-- VSRAI (R189). -/
def execVsrai (d a : BitVec 6) (m : BitVec 3) (n : BitVec 5) (s : State) := s.lanes1 (.vsrai d a m n) 2 d a m fun x => x.sshiftRight n.toNat
/-- VMOVS. -/
def execVmovs (d : BitVec 6) (b : BitVec 5) (m : BitVec 3) (s : State) := s.lanes (.vmovs d b m) 2 d m fun w _ => lo32 (w.rs b.toNat)
/-- VLANE. -/
def execVlane (d : BitVec 6) (m : BitVec 3) (s : State) := s.lanes (.vlane d m) 2 d m fun _ l => BitVec.ofNat 32 l
/-- VMOVI. -/
def execVmovi (d : BitVec 6) (m : BitVec 3) (i : BitVec 9) (s : State) := s.lanes (.vmovi d m i) 2 d m fun _ _ => i.signExtend 32

/-! ## Floating-point arithmetic (R193 to R198) -/

/-- VFADD.F32. -/
def execVfaddF32 (d a b : BitVec 6) (m : BitVec 3) (s : State) := s.lanesF2 (.vfaddF32 d a b m) 4 d a b m (f32op2 fp32.fadd)
/-- VFADD.F16X2. -/
def execVfaddF16X2 (d a b : BitVec 6) (m : BitVec 3) (s : State) := s.lanesF2 (.vfaddF16X2 d a b m) 4 d a b m (halves2 fp16.fadd)
/-- VFSUB.F32. -/
def execVfsubF32 (d a b : BitVec 6) (m : BitVec 3) (s : State) := s.lanesF2 (.vfsubF32 d a b m) 4 d a b m (f32op2 fp32.fsub)
/-- VFSUB.F16X2. -/
def execVfsubF16X2 (d a b : BitVec 6) (m : BitVec 3) (s : State) := s.lanesF2 (.vfsubF16X2 d a b m) 4 d a b m (halves2 fp16.fsub)
/-- VFMUL.F32. -/
def execVfmulF32 (d a b : BitVec 6) (m : BitVec 3) (s : State) := s.lanesF2 (.vfmulF32 d a b m) 4 d a b m (f32op2 fp32.fmul)
/-- VFMUL.F16X2. -/
def execVfmulF16X2 (d a b : BitVec 6) (m : BitVec 3) (s : State) := s.lanesF2 (.vfmulF16X2 d a b m) 4 d a b m (halves2 fp16.fmul)
/-- VFMA.F32. -/
def execVfmaF32 (d a b : BitVec 6) (m : BitVec 3) (s : State) := s.lanesF3 (.vfmaF32 d a b m) 4 d a b m (f32op3 (fp32.ffma false false))
/-- VFMA.F16X2. -/
def execVfmaF16X2 (d a b : BitVec 6) (m : BitVec 3) (s : State) := s.lanesF3 (.vfmaF16X2 d a b m) 4 d a b m (halves3 (fp16.ffma false false))
/-- VFMS.F32. -/
def execVfmsF32 (d a b : BitVec 6) (m : BitVec 3) (s : State) := s.lanesF3 (.vfmsF32 d a b m) 4 d a b m (f32op3 (fp32.ffma false true))
/-- VFMS.F16X2. -/
def execVfmsF16X2 (d a b : BitVec 6) (m : BitVec 3) (s : State) := s.lanesF3 (.vfmsF16X2 d a b m) 4 d a b m (halves3 (fp16.ffma false true))
/-- VFNMA.F32. -/
def execVfnmaF32 (d a b : BitVec 6) (m : BitVec 3) (s : State) := s.lanesF3 (.vfnmaF32 d a b m) 4 d a b m (f32op3 (fp32.ffma true false))
/-- VFNMA.F16X2. -/
def execVfnmaF16X2 (d a b : BitVec 6) (m : BitVec 3) (s : State) := s.lanesF3 (.vfnmaF16X2 d a b m) 4 d a b m (halves3 (fp16.ffma true false))
/-- VFMIN.F32 (R194). -/
def execVfminF32 (d a b : BitVec 6) (m : BitVec 3) (s : State) := s.lanesF2 (.vfminF32 d a b m) 4 d a b m (f32op2 (fp32.fminmax false))
/-- VFMAX.F32 (R194). -/
def execVfmaxF32 (d a b : BitVec 6) (m : BitVec 3) (s : State) := s.lanesF2 (.vfmaxF32 d a b m) 4 d a b m (f32op2 (fp32.fminmax true))
/-- VFMIN.F16X2 (R194). -/
def execVfminF16X2 (d a b : BitVec 6) (m : BitVec 3) (s : State) := s.lanesF2 (.vfminF16X2 d a b m) 4 d a b m (halves2 (fp16.fminmax false))
/-- VFMAX.F16X2 (R194). -/
def execVfmaxF16X2 (d a b : BitVec 6) (m : BitVec 3) (s : State) := s.lanesF2 (.vfmaxF16X2 d a b m) 4 d a b m (halves2 (fp16.fminmax true))
/-- VFMAXL.F16 (R194): no flag. -/
def execVfmaxlF16 (d a b : BitVec 6) (m : BitVec 3) (s : State) := s.lanes2 (.vfmaxlF16 d a b m) 4 d a b m (maxL false)
/-- VFMINL.F16 (R194): no flag. -/
def execVfminlF16 (d a b : BitVec 6) (m : BitVec 3) (s : State) := s.lanes2 (.vfminlF16 d a b m) 4 d a b m (maxL true)
/-- VFABS.F32 (R195). -/
def execVfabsF32 (d a : BitVec 6) (m : BitVec 3) (s : State) := s.lanes1 (.vfabsF32 d a m) 2 d a m fun x => x &&& 0x7FFFFFFF
/-- VFNEG.F32 (R195). -/
def execVfnegF32 (d a : BitVec 6) (m : BitVec 3) (s : State) := s.lanes1 (.vfnegF32 d a m) 2 d a m fun x => x ^^^ 0x80000000
/-- VFCOPYSIGN.F32 (R195). -/
def execVfcopysignF32 (d a b : BitVec 6) (m : BitVec 3) (s : State) :=
  s.lanes2 (.vfcopysignF32 d a b m) 2 d a b m fun x y => (x &&& 0x7FFFFFFF) ||| (y &&& 0x80000000)
/-- VFABS.F16X2 (R195). -/
def execVfabsF16X2 (d a : BitVec 6) (m : BitVec 3) (s : State) := s.lanes1 (.vfabsF16X2 d a m) 2 d a m fun x => x &&& 0x7FFF7FFF
/-- VFNEG.F16X2 (R195). -/
def execVfnegF16X2 (d a : BitVec 6) (m : BitVec 3) (s : State) := s.lanes1 (.vfnegF16X2 d a m) 2 d a m fun x => x ^^^ 0x80008000
/-- VFCOPYSIGN.F16X2 (R195). -/
def execVfcopysignF16X2 (d a b : BitVec 6) (m : BitVec 3) (s : State) :=
  s.lanes2 (.vfcopysignF16X2 d a b m) 2 d a b m fun x y => (x &&& 0x7FFF7FFF) ||| (y &&& 0x80008000)
/-- VFCMP.F32 (R196). -/
def execVfcmpF32 (d : BitVec 3) (a b : BitVec 6) (m c : BitVec 3) (s : State) :=
  s.laneBits (.vfcmpF32 d a b m c) 4 d m fun w l => laneFcmp c.toNat (w.rv a.toNat l) (w.rv b.toNat l)
/-- VFRCP.F32 (R197). -/
def execVfrcpF32 (d a : BitVec 6) (m : BitVec 3) (s : State) := s.lanesF1 (.vfrcpF32 d a m) 6 d a m (f32op1 rcpEst)
/-- VFRSQ.F32 (R197). -/
def execVfrsqF32 (d a : BitVec 6) (m : BitVec 3) (s : State) := s.lanesF1 (.vfrsqF32 d a m) 6 d a m (f32op1 rsqEst)
/-- VFRCP.F16X2 (R197). -/
def execVfrcpF16X2 (d a : BitVec 6) (m : BitVec 3) (s : State) := s.lanesF1 (.vfrcpF16X2 d a m) 6 d a m (halves1 (estimate16 rcpEst))
/-- VFRSQ.F16X2 (R197). -/
def execVfrsqF16X2 (d a : BitVec 6) (m : BitVec 3) (s : State) := s.lanesF1 (.vfrsqF16X2 d a m) 6 d a m (halves1 (estimate16 rsqEst))
/-- VFDIV.F32. -/
def execVfdivF32 (d a b : BitVec 6) (m : BitVec 3) (s : State) := s.lanesF2 (.vfdivF32 d a b m) 24 d a b m (f32op2 fp32.fdiv)
/-- VFSQRT.F32. -/
def execVfsqrtF32 (d a : BitVec 6) (m : BitVec 3) (s : State) := s.lanesF1 (.vfsqrtF32 d a m) 24 d a m (f32op1 fp32.fsqrt)
/-- VFCLASS.F32 (R198). -/
def execVfclassF32 (d a : BitVec 6) (m : BitVec 3) (s : State) := s.lanes1 (.vfclassF32 d a m) 2 d a m fun x => BitVec.ofNat 32 (classBit fp32 x.toNat)
/-- VFCLASS.F16X2 (R198). -/
def execVfclassF16X2 (d a : BitVec 6) (m : BitVec 3) (s : State) :=
  s.lanes1 (.vfclassF16X2 d a m) 2 d a m fun x => (halves1 (fun h => (classBit fp16 h, 0)) x).1

/-! ## Reading other lanes (R204, R205) -/

/-- A shuffle: lane l of E receives va of the source lane that `src` names. -/
def State.shuffle (s : State) (i : Instr) (d a : BitVec 6) (m : BitVec 3) (src : Wave → Nat → Nat) : Host.Outcome State Fault Refusal :=
  s.lanes i 3 d m fun w l => w.rv a.toNat (src w l)

/-- VSHFL. -/
def execVshfl (d a b : BitVec 6) (m : BitVec 3) (s : State) := s.shuffle (.vshfl d a b m) d a m fun w l => (w.rv b.toNat l).toNat % 32
/-- VSHFLI.XOR. -/
def execVshfliXor (d a : BitVec 6) (m : BitVec 3) (n : BitVec 5) (s : State) :=
  s.shuffle (.vshfliXor d a m n) d a m fun _ l => (BitVec.ofNat 5 l ^^^ n).toNat
/-- VSHFLI.UP. -/
def execVshfliUp (d a : BitVec 6) (m : BitVec 3) (n : BitVec 5) (s : State) :=
  s.shuffle (.vshfliUp d a m n) d a m fun _ l => if l < n.toNat then l else l - n.toNat
/-- VSHFLI.DOWN. -/
def execVshfliDown (d a : BitVec 6) (m : BitVec 3) (n : BitVec 5) (s : State) :=
  s.shuffle (.vshfliDown d a m n) d a m fun _ l => if 31 < l + n.toNat then l else l + n.toNat
/-- VBC. -/
def execVbc (d a : BitVec 6) (b : BitVec 5) (m : BitVec 3) (s : State) := s.shuffle (.vbc d a b m) d a m fun w _ => (w.rs b.toNat).toNat % 32
/-- VFIRST: the lowest lane of E. -/
def execVfirst (d a : BitVec 6) (m : BitVec 3) (s : State) :=
  s.plainOp (.vfirst d a m) fun s f _ =>
    let ls := lanesOf (s.wave.eff f m.toNat)
    s.result 3 (.vec d.toNat (ls.map fun l => (l, s.wave.rv a.toNat (ls.headD 0))))

/-! ## Votes and masks (R206 to R209) -/

/-- VBALLOT (R206). -/
def execVballot (d : BitVec 3) (a : BitVec 6) (m : BitVec 3) (s : State) :=
  s.laneBits (.vballot d a m) 3 d m fun w l => (w.rv a.toNat l != 0, 0)

/-- A vote over the lanes of E, written to all 32 bits (R207, R185). -/
def State.vote (s : State) (i : Instr) (d : BitVec 3) (a : BitVec 6) (m : BitVec 3) (p : List Word → Bool) : Host.Outcome State Fault Refusal :=
  s.plainOp i fun s f _ =>
    let xs := (lanesOf (s.wave.eff f m.toNat)).map (s.wave.rv a.toNat)
    s.result 3 (.msk d.toNat (if p xs then 0xFFFFFFFF else 0))

/-- VOTE.ALL. -/
def execVoteAll (d : BitVec 3) (a : BitVec 6) (m : BitVec 3) (s : State) := s.vote (.voteAll d a m) d a m fun xs => xs.all (· != 0)
/-- VOTE.ANY. -/
def execVoteAny (d : BitVec 3) (a : BitVec 6) (m : BitVec 3) (s : State) := s.vote (.voteAny d a m) d a m fun xs => xs.any (· != 0)
/-- VOTE.NONE. -/
def execVoteNone (d : BitVec 3) (a : BitVec 6) (m : BitVec 3) (s : State) := s.vote (.voteNone d a m) d a m fun xs => xs.all (· == 0)
/-- VOTE.UNI. -/
def execVoteUni (d : BitVec 3) (a : BitVec 6) (m : BitVec 3) (s : State) := s.vote (.voteUni d a m) d a m fun xs => xs.all (· == xs.headD 0)

/-- A mask logic instruction: all 32 bits, once per issue (R208). -/
def State.maskOp (s : State) (i : Instr) (d : BitVec 3) (op : Wave → Word) : Host.Outcome State Fault Refusal :=
  s.regOp i 1 fun w => .msk d.toNat (op w)

/-- MAND. -/
def execMand (d a b : BitVec 3) (s : State) := s.maskOp (.mand d a b) d fun w => w.rm a.toNat &&& w.rm b.toNat
/-- MOR. -/
def execMor (d a b : BitVec 3) (s : State) := s.maskOp (.mor d a b) d fun w => w.rm a.toNat ||| w.rm b.toNat
/-- MXOR. -/
def execMxor (d a b : BitVec 3) (s : State) := s.maskOp (.mxor d a b) d fun w => w.rm a.toNat ^^^ w.rm b.toNat
/-- MNOT. -/
def execMnot (d a : BitVec 3) (s : State) := s.maskOp (.mnot d a) d fun w => ~~~ (w.rm a.toNat)
/-- MANDN. -/
def execMandn (d a b : BitVec 3) (s : State) := s.maskOp (.mandn d a b) d fun w => w.rm a.toNat &&& ~~~ (w.rm b.toNat)
/-- MMOVS (R209). -/
def execMmovs (d : BitVec 5) (a : BitVec 3) (s : State) := s.regOp (.mmovs d a) 1 fun w => .sca d.toNat ((w.rm a.toNat).setWidth 64)
/-- MMOVM (R209). -/
def execMmovm (d : BitVec 3) (b : BitVec 5) (s : State) := s.regOp (.mmovm d b) 1 fun w => .msk d.toNat (lo32 (w.rs b.toNat))
/-- MPOPC (R209). -/
def execMpopc (d : BitVec 5) (a : BitVec 3) (s : State) := s.regOp (.mpopc d a) 1 fun w => .sca d.toNat (BitVec.ofNat 64 (onesCount (w.rm a.toNat)))

end Sys2Proof.Machine
end

