-- ==== Sys2Proof/Machine/Convert.lean ====
section
/-! DEFINITION. Meanings of the conversions, packing and the format register (12_isa_vector.md R199 to R203; 05_formats.md R77 to R84,
R90 to R93). -/

namespace Sys2Proof.Machine

/-! ## Rounding and the vector generator -/

/-- A rounding code that is not reserved (Table 5-4). -/
def rndValid (c : Nat) : Bool := c < 5

/-- The rounding of a lane (half `high` of a pair) under a code (R91, R199): SR uses the generator when SREN is 1, and rounds RNE
when it is 0. -/
def rndFor (fmt gen : Word) (code lane : Nat) (high : Bool) : Rnd :=
  match code with
  | 0 => .rne
  | 1 => .rz
  | 2 => .rd
  | 3 => .ru
  | _ => if fmtSren fmt then .sr (laneWord gen lane high) else .rne

/-- Steps the core's vector generator once when the effective rounding is SR and SREN is 1 (R90). -/
def State.stepVgen (s : State) (fmt : Word) (code : Nat) : State :=
  if code = 4 && fmtSren fmt then s.updCore s.wave.core fun c => { c with vgen := genStep c.vgen } else s

/-- FMT of the issuing fragment. -/
def State.curFmt (s : State) : Word := match s.wave.frag with | some f => f.fmt | none => 0

/-! ## VCVT (R199, R200) -/

/-- A floating source converted to a narrower or wider format. -/
def cvtFloat (src dst : Fmt) (r : Rnd) (a : Word) : Word × Word :=
  let (x, g) := dst.ofVal r (src.decode a.toNat)
  (BitVec.ofNat 32 x, g)
/-- A floating source converted to an integer range; a narrow result is not sign-extended. -/
def cvtInt (lo hi : Int) (r : Rnd) (a : Word) : Word × Word :=
  let (x, g) := (fp32.decode a.toNat).toRange r lo hi
  (BitVec.ofInt 32 x, g)
/-- An integer narrowed with saturation (R81). -/
def narrow (lo hi : Int) (bits : Nat) (x : Int) : Word × Word :=
  let y := clamp x lo hi
  (BitVec.ofNat 32 (BitVec.ofInt bits y).toNat, if y = x then 0 else flagSAT)

/-- The conversion of a pair code (Table 9-12, Table 12-5). -/
def cvt (pair : Nat) (r : Rnd) (a : Word) : Word × Word :=
  match pair with
  | 0x00 => cvtFloat fp32 fp16 r a
  | 0x01 => cvtFloat fp32 bf16 r a
  | 0x02 => cvtFloat fp32 e4m3 r a
  | 0x03 => cvtFloat fp32 e5m2 r a
  | 0x04 => cvtFloat fp16 fp32 r a
  | 0x05 => cvtFloat bf16 fp32 r a
  | 0x06 => cvtFloat e4m3 fp32 r a
  | 0x07 => cvtFloat e5m2 fp32 r a
  | 0x08 => cvtInt (-2147483648) 2147483647 r a
  | 0x09 => cvtInt 0 4294967295 r a
  | 0x0A => let (x, g) := fp32.ofVal r (Val.ofInt a.toInt); (BitVec.ofNat 32 x, g)
  | 0x0B => let (x, g) := fp32.ofVal r (Val.ofInt a.toNat); (BitVec.ofNat 32 x, g)
  | 0x0C => narrow (-32768) 32767 16 a.toInt
  | 0x0D => narrow (-128) 127 8 a.toInt
  | 0x0E => narrow 0 65535 16 a.toNat
  | _ => narrow 0 255 8 a.toNat

/-- The exact pairs, which ignore the rounding and step no generator (R199). -/
def cvtExact (pair : Nat) : Bool := (4 ≤ pair && pair ≤ 7) || 12 ≤ pair

/-- VCVT (R199): a reserved FMT.RND raises ILLOP under .FMT for every pair. -/
def execVcvt (d a p : BitVec 6) (m r : BitVec 3) (s : State) :=
  let i : Instr := .vcvt d a p m r
  let fmt := s.curFmt
  let code := if r.toNat = 5 then fmtRnd fmt else r.toNat
  s.issue i.enc (i.wellFormed && rndValid code) i.site i.touch fun f _ =>
    let gen := (s.core s.wave.core).vgen
    let xs := (lanesOf (s.wave.eff f m.toNat)).map fun l => (l, cvt p.toNat (rndFor fmt gen code l false) (s.wave.rv a.toNat l))
    let s := if cvtExact p.toNat then s else s.stepVgen fmt code
    .done ((s.flag (xs.foldl (fun g x => g ||| x.2.2) 0)).result 4 (.vec d.toNat (xs.map fun x => (x.1, x.2.1)))) .seq

/-! ## VPACK (R201, R202) -/

/-- A packing function that rounds by FMT.RND (R201): `mk` gives the lanes' words and flags from the generator state. -/
def State.packOp (s : State) (i : Instr) (d : BitVec 6) (m : BitVec 3) (mk : Word → Nat → Word → Nat → Word × Word) :
    Host.Outcome State Fault Refusal :=
  let fmt := s.curFmt
  let code := fmtRnd fmt
  s.issue i.enc (i.wellFormed && rndValid code) i.site i.touch fun f _ =>
    let gen := (s.core s.wave.core).vgen
    let xs := (lanesOf (s.wave.eff f m.toNat)).map fun l => (l, mk fmt code gen l)
    .done (((s.stepVgen fmt code).flag (xs.foldl (fun g x => g ||| x.2.2) 0)).result 4 (.vec d.toNat (xs.map fun x => (x.1, x.2.1)))) .seq

/-- Two FP32 values packed into halves of a format. -/
def pack2 (dst : Fmt) (r r' : Rnd) (a b : Word) : Word × Word :=
  let (x, g) := dst.ofVal r (fp32.decode a.toNat)
  let (y, h) := dst.ofVal r' (fp32.decode b.toNat)
  (BitVec.ofNat 32 (y * 65536 + x), g ||| h)

/-- VPACK.F16X2. -/
def execVpackF16X2 (d a b : BitVec 6) (m : BitVec 3) (s : State) :=
  s.packOp (.vpackF16X2 d a b m) d m fun fmt code gen l =>
    pack2 fp16 (rndFor fmt gen code l false) (rndFor fmt gen code l true) (s.wave.rv a.toNat l) (s.wave.rv b.toNat l)
/-- VPACK.BF16X2. -/
def execVpackBf16x2 (d a b : BitVec 6) (m : BitVec 3) (s : State) :=
  s.packOp (.vpackBf16x2 d a b m) d m fun fmt code gen l =>
    pack2 bf16 (rndFor fmt gen code l false) (rndFor fmt gen code l true) (s.wave.rv a.toNat l) (s.wave.rv b.toNat l)

/-- Magnitude of a finite value less another, as a value. -/
def distance (x y : Val) : Val :=
  match (x.add y.negate).1 with
  | .fin _ m e => .fin false m e
  | v => v

/-- Shared scale of a block (R80): Clamp(Floor(Log2(amax)) - 2 + 127, 0, 254), 0 when every source is zero. -/
def blockScale (xs : List Val) : Nat :=
  let tops := xs.filterMap fun x => match x with
    | .fin _ m e => if m = 0 then none else some (e + (bitLen m : Int) - 1)
    | _ => none
  match tops with
  | [] => 0
  | t :: ts => (clamp (ts.foldl (fun a b => if a < b then b else a) t - 2 + 127) 0 254).toNat

/-- A finite value divided by 2^(s - 127). -/
def Val.descale (s : Nat) : Val → Val
  | .fin n m e => .fin n m (e - ((s : Int) - 127))
  | v => v

/-- Greatest value of a list of magnitudes and its lowest index. -/
def greatest (xs : List Val) : Nat × Val :=
  (xs.zipIdx.foldl (fun (best : Nat × Val) x => if best.2.lt x.1 then (x.2, x.1) else best) (0, .fin false 0 0))

/-- An E2M1X block from 32 sources, with the rounding of each lane (R80): SCALE, EXTRA, the element codes, and the flags. -/
def encodeBlock (xs : List Val) (rnd : Nat → Rnd) : Nat × Nat × List Nat × Word :=
  if xs.any fun x => match x with | .fin _ _ _ => false | _ => true then (255, 0, List.replicate 32 0, flagNV)
  else
    let s := blockScale xs
    let qs := xs.map (Val.descale s)
    let es := qs.zipIdx.map fun (q, j) => e2m1.ofVal (rnd j) q
    let errs := (qs.zip es).map fun (q, e) => distance q (e2m1.decode e.1)
    let (js, err) := greatest errs
    let precise : Bool := match err with | .fin _ m _ => m == 0 | _ => false
    let (extra, xf) := if precise then (0, 0) else e4m3.ofVal (rnd js) (qs.getD js (.fin false 0 0))
    let codes := es.zipIdx.map fun (e, j) => if !precise && j = js then 8 else if e.1 = 8 && j ≠ js then 0 else e.1
    let flags := es.zipIdx.foldl (fun g (e, j) => if !precise && j = js then g else g ||| e.2) xf
    (s, extra, codes, flags)

/-- The 18 bytes of a block (Table 5-3). -/
def blockBytes (b : Nat × Nat × List Nat × Word) : List Nat :=
  let e := fun j => b.2.2.1.getD j 0
  b.1 :: b.2.1 :: (List.range 16).map fun j => e (2 * j) + 16 * e (2 * j + 1)

/-- VPACK.E2M1X (R202): sources outside E count as +0; lane k receives bytes 4k to 4k + 3. -/
def execVpackE2M1X (d a : BitVec 6) (m : BitVec 3) (s : State) :=
  let i : Instr := .vpackE2M1X d a m
  let fmt := s.curFmt
  let code := fmtRnd fmt
  s.issue i.enc (i.wellFormed && rndValid code) i.site i.touch fun f _ =>
    let gen := (s.core s.wave.core).vgen
    let e := s.wave.eff f m.toNat
    let xs := (List.range 32).map fun l => if e.getLsbD l then fp32.decode (s.wave.rv a.toNat l).toNat else .fin false 0 0
    let b := encodeBlock xs fun j => rndFor fmt gen code j false
    let bs := blockBytes b
    let word := fun k => BitVec.ofNat 32 ((List.range 4).foldl (fun n i => n + bs.getD (4 * k + i) 0 * 256 ^ i) 0)
    .done (((s.stepVgen fmt code).flag b.2.2.2).result 4 (.vec d.toNat ((lanesOf e).map fun l => (l, word l)))) .seq

/-- An unpacking function (R201): exact but for a NaN. -/
def unpack (src : Fmt) (h : Nat) : Word × Word :=
  let (x, g) := fp32.ofVal .rne (src.decode h)
  (BitVec.ofNat 32 x, g)

/-- VUNPKL.F16. -/
def execVunpklF16 (d a : BitVec 6) (m : BitVec 3) (s : State) := s.lanesF1 (.vunpklF16 d a m) 4 d a m fun x => unpack fp16 (x.toNat % 65536)
/-- VUNPKH.F16. -/
def execVunpkhF16 (d a : BitVec 6) (m : BitVec 3) (s : State) := s.lanesF1 (.vunpkhF16 d a m) 4 d a m fun x => unpack fp16 (x.toNat / 65536)
/-- VUNPKL.BF16. -/
def execVunpklBf16 (d a : BitVec 6) (m : BitVec 3) (s : State) := s.lanesF1 (.vunpklBf16 d a m) 4 d a m fun x => unpack bf16 (x.toNat % 65536)
/-- VUNPKH.BF16. -/
def execVunpkhBf16 (d a : BitVec 6) (m : BitVec 3) (s : State) := s.lanesF1 (.vunpkhBf16 d a m) 4 d a m fun x => unpack bf16 (x.toNat / 65536)

/-! ## FMT (R203, R93) -/

/-- SETFMT: the next instruction of the fragment uses it. -/
def execSetfmt (a : BitVec 5) (s : State) :=
  s.plainOp (.setfmt a) fun s f _ => s.upd fun w => w.setFrag { f with fmt := lo32 (w.rs a.toNat) &&& fmtMask }
/-- GETFMT. -/
def execGetfmt (d : BitVec 5) (s : State) :=
  s.plainOp (.getfmt d) fun s f _ => s.result 1 (.sca d.toNat (f.fmt.setWidth 64))

end Sys2Proof.Machine
end

