-- ==== Sys2Proof/Machine/Memory.lean ====
section
/-! DEFINITION. Meanings of the loads, stores and stream patterns (13_isa_memory.md R211 to R221). -/

namespace Sys2Proof.Machine

/-! ## Addresses (R211) -/

/-- ord[3:2] = 1: acquire (Table 9-5). -/
def ordAcq (o : BitVec 4) : Bool := o.toNat / 4 = 1
/-- ord[3:2] = 2: release. -/
def ordRel (o : BitVec 4) : Bool := o.toNat / 4 = 2

/-- The lanes of E with their addresses under an and kn, lane l moved by `stride` × l bytes (R211); none when an lies outside the
modulo region. -/
def Wave.mLanes (w : Wave) (e : Mask) (n k stride : Nat) : Option (List (Nat × Nat)) :=
  if (wrap (w.ra n) (w.rk k) 0).isNone then none
  else some ((lanesOf e).map fun l => (l, ((wrap (w.ra n) (w.rk k) (BitVec.ofNat 64 (stride * l))).getD 0).toNat))

/-- Address an after the post-increment (R211). -/
def Wave.bumped (w : Wave) (n k : Nat) (inc : BitVec 4) (footprint : Nat) : Option Dword :=
  wrap (w.ra n) (w.rk k) (BitVec.ofInt 64 (inc.toInt * footprint))

/-- The post-increment of an M-format access, which lands with latency 1 (R145, R211). -/
def State.bump (s : State) (n k : Nat) (inc : BitVec 4) (footprint : Nat) : State :=
  match s.wave.bumped n k inc footprint with
  | some x => if inc = 0 then s else s.result 1 (.adr n x)
  | none => s

/-- The fault of an address register outside its modulo region: ALIGN at that address for the lanes of E. -/
def regionFault (e : Mask) (a : Dword) : Act := .fault { code := ALIGN, lanes := if e = 0 then none else some e, addr := a }

/-! ## Vector loads and stores (R217, R218, Table 13-1) -/

/-- An M-format load. -/
def State.mLoad (s : State) (i : Instr) (vt : BitVec 6) (n : BitVec 4) (k m : BitVec 3) (o inc : BitVec 4) (stride footprint : Nat) :
    Host.Outcome State Fault Refusal :=
  s.issueI i fun f t =>
    let e := s.wave.eff f m.toNat
    match s.wave.mLanes e n.toNat k.toNat stride with
    | none => regionFault e (s.wave.ra n.toNat)
    | some ls => s.load t f ls (.lanes vt.toNat) (ordAcq o) fun s => s.bump n.toNat k.toNat inc footprint

/-- VLDC. -/
def execVldc (t : BitVec 6) (n : BitVec 4) (k m : BitVec 3) (o i : BitVec 4) (s : State) := s.mLoad (.vldc t n k m o i) t n k m o i 4 128
/-- VLDB: one word for every lane. -/
def execVldb (t : BitVec 6) (n : BitVec 4) (k m : BitVec 3) (o i : BitVec 4) (s : State) := s.mLoad (.vldb t n k m o i) t n k m o i 0 4

/-- VSTC. -/
def execVstc (vt : BitVec 6) (n : BitVec 4) (k m : BitVec 3) (o i : BitVec 4) (s : State) :=
  s.issueI (.vstc vt n k m o i) fun f t =>
    let e := s.wave.eff f m.toNat
    match s.wave.mLanes e n.toNat k.toNat 4 with
    | none => regionFault e (s.wave.ra n.toNat)
    | some ls => s.store t f 4 ls (fun l => (s.wave.rv vt.toNat l).toNat) (ordRel o) fun s => s.bump n.toNat k.toNat i 128

/-- The lanes of E with the addresses an + ZeroExtend(v[l]) of an MX access or an ATOMV (R211, R224). -/
def Wave.xLanes (w : Wave) (e : Mask) (n v : Nat) : List (Nat × Nat) :=
  (lanesOf e).map fun l => (l, (w.ra n + (w.rv v l).setWidth 64).toNat)

/-- VLDG. -/
def execVldg (t : BitVec 6) (n : BitVec 4) (b : BitVec 6) (m : BitVec 3) (o : BitVec 4) (s : State) :=
  s.issueI (.vldg t n b m o) fun f tr =>
    s.load tr f (s.wave.xLanes (s.wave.eff f m.toNat) n.toNat b.toNat) (.lanes t.toNat) (ordAcq o) id
/-- VSTG. -/
def execVstg (t : BitVec 6) (n : BitVec 4) (b : BitVec 6) (m : BitVec 3) (o : BitVec 4) (s : State) :=
  s.issueI (.vstg t n b m o) fun f tr =>
    s.store tr f 4 (s.wave.xLanes (s.wave.eff f m.toNat) n.toNat b.toNat) (fun l => (s.wave.rv t.toNat l).toNat) (ordRel o) id

/-- PRFC (R218): only the post-increment, and not even that outside the modulo region. -/
def execPrfc (n : BitVec 4) (k m : BitVec 3) (i : BitVec 4) (s : State) :=
  s.plainOp (.prfc n k m i) fun s _ _ => s.bump n.toNat k.toNat i 128

/-! ## Scalar loads and stores (R219) -/

/-- The lane number of an access that is no lane's. -/
def noLane : Nat := 32

/-- Address of SLD and SST. -/
def Wave.sAddr (w : Wave) (n : BitVec 4) (disp : BitVec 11) : Nat := (w.ra n.toNat + disp.signExtend 64).toNat

/-- SLD. -/
def execSld (d : BitVec 5) (n : BitVec 4) (z : BitVec 2) (x : BitVec 1) (disp : BitVec 11) (s : State) :=
  s.issueI (.sld d n z x disp) fun f t =>
    s.load t f [(noLane, s.wave.sAddr n disp)] (.scalar d.toNat (2 ^ z.toNat) (x == 1)) false id
/-- SST. -/
def execSst (d : BitVec 5) (n : BitVec 4) (z : BitVec 2) (disp : BitVec 11) (s : State) :=
  s.issueI (.sst d n z disp) fun f t =>
    s.store t f (2 ^ z.toNat) [(noLane, s.wave.sAddr n disp)] (fun _ => (s.wave.rs d.toNat).toNat) false id

/-! ## Stream patterns (R220, R221) -/

/-- The pattern slot a record gives (Table 13-3): i := 0, cur := BASE. -/
def patOf (b8 : List Nat) : Pat :=
  let w := fun k => b8.getD k 0
  { base := BitVec.ofNat 64 (w 0), lstr := BitVec.ofNat 32 (w 1), astr := BitVec.ofNat 32 (w 1 / 2 ^ 32)
    count := BitVec.ofNat 32 (w 2), i := 0, cur := BitVec.ofNat 64 (w 0), valid := true }

/-- The slot after one access (R221). -/
def Pat.advance (p : Pat) : Pat :=
  let i := p.i + 1
  let cur := p.cur + p.astr.signExtend 64
  if p.count ≠ 0 && i = p.count then { p with i := 0, cur := p.base } else { p with i := i, cur := cur }

/-- The lanes of E with their addresses through a pattern slot. -/
def Pat.lanes (p : Pat) (e : Mask) : List (Nat × Nat) :=
  (lanesOf e).map fun l => (l, (p.cur + BitVec.ofNat 64 l * p.lstr.signExtend 64).toNat)

/-- Advances a pattern slot of the issuing wave. -/
def State.advancePat (s : State) (k : Nat) (p : Pat) : State := s.upd fun w => { w with pats := w.pats.put {} k p.advance }

/-- SPLD: HANDLE on an empty slot. -/
def execSpld (vt : BitVec 6) (k m : BitVec 3) (s : State) :=
  s.issueI (.spld vt k m) fun f t =>
    let p := s.wave.pats.get {} k.toNat
    if !p.valid then .fault { code := HANDLE }
    else s.load t f (p.lanes (s.wave.eff f m.toNat)) (.lanes vt.toNat) false fun s => s.advancePat k.toNat p
/-- SPST. -/
def execSpst (vt : BitVec 6) (k m : BitVec 3) (s : State) :=
  s.issueI (.spst vt k m) fun f t =>
    let p := s.wave.pats.get {} k.toNat
    if !p.valid then .fault { code := HANDLE }
    else s.store t f 4 (p.lanes (s.wave.eff f m.toNat)) (fun l => (s.wave.rv vt.toNat l).toNat) false fun s => s.advancePat k.toNat p

end Sys2Proof.Machine
end

