-- ==== Sys2Proof/Machine/Atomics.lean ====
section
/-! DEFINITION. Meanings of the atomics (13_isa_memory.md R222 to R225): one shared form for the lanes, one for the scalar, and an arm
for each operation of Table 13-4. -/

namespace Sys2Proof.Machine

/-- ATOMV (R224): each lane of the fragment acts on an + ZeroExtend(vt[l]) with x = va[l]; CAS compares with va+1, ADD.I64 takes
va+1 : va. -/
def State.atomicLane (s : State) (i : Instr) (aop : Nat) (o : BitVec 2) (t a : BitVec 6) (n : BitVec 4) (sc : BitVec 3) (r : BitVec 1) :
    Host.Outcome State Fault Refusal :=
  s.issueI i fun f tr =>
    let w := s.wave
    let ls := (w.xLanes f.mask n.toNat t.toNat).map fun (l, va) =>
      let lo : Dword := (w.rv a.toNat l).setWidth 64
      let hi : Dword := (w.rv (a.toNat + 1) l).setWidth 64
      (l, va, if aop = 13 then (hi <<< 32) ||| lo else lo, if aop = 10 then hi else 0)
    s.atomic tr f aop sc.toNat ls (if r = 0 then .nothing else if aop = 13 then .pairs t.toNat else .lanes t.toNat) (2 ≤ o.toNat) (o.toNat % 2 == 1)

/-- ATOMS (R225): once per issue on the word at an; CAS compares with s(a+1); the old value lands in sd when ret is 1. -/
def State.atomicScalar (s : State) (i : Instr) (aop : Nat) (o : BitVec 2) (d a : BitVec 5) (n : BitVec 4) (sc : BitVec 3) (r : BitVec 1) :
    Host.Outcome State Fault Refusal :=
  s.issueI i fun f tr =>
    let w := s.wave
    s.atomic tr f aop sc.toNat [(noLane, (w.ra n.toNat).toNat, w.rs a.toNat, if aop = 10 then w.rs (a.toNat + 1) else 0)]
      (if r = 0 then .nothing else .scalar d.toNat (atomicSize aop) false) (2 ≤ o.toNat) (o.toNat % 2 == 1)

/-- ATOMV AddI32. -/
def execAtomvAddI32 (o : BitVec 2) (t a : BitVec 6) (n : BitVec 4) (sc : BitVec 3) (r : BitVec 1) (s : State) :=
  s.atomicLane (.atomvAddI32 o t a n sc r) 0 o t a n sc r
/-- ATOMV AddF32. -/
def execAtomvAddF32 (o : BitVec 2) (t a : BitVec 6) (n : BitVec 4) (sc : BitVec 3) (r : BitVec 1) (s : State) :=
  s.atomicLane (.atomvAddF32 o t a n sc r) 1 o t a n sc r
/-- ATOMV MinS32. -/
def execAtomvMinS32 (o : BitVec 2) (t a : BitVec 6) (n : BitVec 4) (sc : BitVec 3) (r : BitVec 1) (s : State) :=
  s.atomicLane (.atomvMinS32 o t a n sc r) 2 o t a n sc r
/-- ATOMV MaxS32. -/
def execAtomvMaxS32 (o : BitVec 2) (t a : BitVec 6) (n : BitVec 4) (sc : BitVec 3) (r : BitVec 1) (s : State) :=
  s.atomicLane (.atomvMaxS32 o t a n sc r) 3 o t a n sc r
/-- ATOMV MinU32. -/
def execAtomvMinU32 (o : BitVec 2) (t a : BitVec 6) (n : BitVec 4) (sc : BitVec 3) (r : BitVec 1) (s : State) :=
  s.atomicLane (.atomvMinU32 o t a n sc r) 4 o t a n sc r
/-- ATOMV MaxU32. -/
def execAtomvMaxU32 (o : BitVec 2) (t a : BitVec 6) (n : BitVec 4) (sc : BitVec 3) (r : BitVec 1) (s : State) :=
  s.atomicLane (.atomvMaxU32 o t a n sc r) 5 o t a n sc r
/-- ATOMV And. -/
def execAtomvAnd (o : BitVec 2) (t a : BitVec 6) (n : BitVec 4) (sc : BitVec 3) (r : BitVec 1) (s : State) :=
  s.atomicLane (.atomvAnd o t a n sc r) 6 o t a n sc r
/-- ATOMV Or. -/
def execAtomvOr (o : BitVec 2) (t a : BitVec 6) (n : BitVec 4) (sc : BitVec 3) (r : BitVec 1) (s : State) :=
  s.atomicLane (.atomvOr o t a n sc r) 7 o t a n sc r
/-- ATOMV Xor. -/
def execAtomvXor (o : BitVec 2) (t a : BitVec 6) (n : BitVec 4) (sc : BitVec 3) (r : BitVec 1) (s : State) :=
  s.atomicLane (.atomvXor o t a n sc r) 8 o t a n sc r
/-- ATOMV Xchg. -/
def execAtomvXchg (o : BitVec 2) (t a : BitVec 6) (n : BitVec 4) (sc : BitVec 3) (r : BitVec 1) (s : State) :=
  s.atomicLane (.atomvXchg o t a n sc r) 9 o t a n sc r
/-- ATOMV Cas. -/
def execAtomvCas (o : BitVec 2) (t a : BitVec 6) (n : BitVec 4) (sc : BitVec 3) (r : BitVec 1) (s : State) :=
  s.atomicLane (.atomvCas o t a n sc r) 10 o t a n sc r
/-- ATOMV MaxlF16. -/
def execAtomvMaxlF16 (o : BitVec 2) (t a : BitVec 6) (n : BitVec 4) (sc : BitVec 3) (r : BitVec 1) (s : State) :=
  s.atomicLane (.atomvMaxlF16 o t a n sc r) 11 o t a n sc r
/-- ATOMV MinlF16. -/
def execAtomvMinlF16 (o : BitVec 2) (t a : BitVec 6) (n : BitVec 4) (sc : BitVec 3) (r : BitVec 1) (s : State) :=
  s.atomicLane (.atomvMinlF16 o t a n sc r) 12 o t a n sc r
/-- ATOMV AddI64. -/
def execAtomvAddI64 (o : BitVec 2) (t a : BitVec 6) (n : BitVec 4) (sc : BitVec 3) (r : BitVec 1) (s : State) :=
  s.atomicLane (.atomvAddI64 o t a n sc r) 13 o t a n sc r
/-- ATOMS AddI32. -/
def execAtomsAddI32 (o : BitVec 2) (d a : BitVec 5) (n : BitVec 4) (sc : BitVec 3) (r : BitVec 1) (s : State) :=
  s.atomicScalar (.atomsAddI32 o d a n sc r) 0 o d a n sc r
/-- ATOMS AddF32. -/
def execAtomsAddF32 (o : BitVec 2) (d a : BitVec 5) (n : BitVec 4) (sc : BitVec 3) (r : BitVec 1) (s : State) :=
  s.atomicScalar (.atomsAddF32 o d a n sc r) 1 o d a n sc r
/-- ATOMS MinS32. -/
def execAtomsMinS32 (o : BitVec 2) (d a : BitVec 5) (n : BitVec 4) (sc : BitVec 3) (r : BitVec 1) (s : State) :=
  s.atomicScalar (.atomsMinS32 o d a n sc r) 2 o d a n sc r
/-- ATOMS MaxS32. -/
def execAtomsMaxS32 (o : BitVec 2) (d a : BitVec 5) (n : BitVec 4) (sc : BitVec 3) (r : BitVec 1) (s : State) :=
  s.atomicScalar (.atomsMaxS32 o d a n sc r) 3 o d a n sc r
/-- ATOMS MinU32. -/
def execAtomsMinU32 (o : BitVec 2) (d a : BitVec 5) (n : BitVec 4) (sc : BitVec 3) (r : BitVec 1) (s : State) :=
  s.atomicScalar (.atomsMinU32 o d a n sc r) 4 o d a n sc r
/-- ATOMS MaxU32. -/
def execAtomsMaxU32 (o : BitVec 2) (d a : BitVec 5) (n : BitVec 4) (sc : BitVec 3) (r : BitVec 1) (s : State) :=
  s.atomicScalar (.atomsMaxU32 o d a n sc r) 5 o d a n sc r
/-- ATOMS And. -/
def execAtomsAnd (o : BitVec 2) (d a : BitVec 5) (n : BitVec 4) (sc : BitVec 3) (r : BitVec 1) (s : State) :=
  s.atomicScalar (.atomsAnd o d a n sc r) 6 o d a n sc r
/-- ATOMS Or. -/
def execAtomsOr (o : BitVec 2) (d a : BitVec 5) (n : BitVec 4) (sc : BitVec 3) (r : BitVec 1) (s : State) :=
  s.atomicScalar (.atomsOr o d a n sc r) 7 o d a n sc r
/-- ATOMS Xor. -/
def execAtomsXor (o : BitVec 2) (d a : BitVec 5) (n : BitVec 4) (sc : BitVec 3) (r : BitVec 1) (s : State) :=
  s.atomicScalar (.atomsXor o d a n sc r) 8 o d a n sc r
/-- ATOMS Xchg. -/
def execAtomsXchg (o : BitVec 2) (d a : BitVec 5) (n : BitVec 4) (sc : BitVec 3) (r : BitVec 1) (s : State) :=
  s.atomicScalar (.atomsXchg o d a n sc r) 9 o d a n sc r
/-- ATOMS Cas. -/
def execAtomsCas (o : BitVec 2) (d a : BitVec 5) (n : BitVec 4) (sc : BitVec 3) (r : BitVec 1) (s : State) :=
  s.atomicScalar (.atomsCas o d a n sc r) 10 o d a n sc r
/-- ATOMS MaxlF16. -/
def execAtomsMaxlF16 (o : BitVec 2) (d a : BitVec 5) (n : BitVec 4) (sc : BitVec 3) (r : BitVec 1) (s : State) :=
  s.atomicScalar (.atomsMaxlF16 o d a n sc r) 11 o d a n sc r
/-- ATOMS MinlF16. -/
def execAtomsMinlF16 (o : BitVec 2) (d a : BitVec 5) (n : BitVec 4) (sc : BitVec 3) (r : BitVec 1) (s : State) :=
  s.atomicScalar (.atomsMinlF16 o d a n sc r) 12 o d a n sc r
/-- ATOMS AddI64. -/
def execAtomsAddI64 (o : BitVec 2) (d a : BitVec 5) (n : BitVec 4) (sc : BitVec 3) (r : BitVec 1) (s : State) :=
  s.atomicScalar (.atomsAddI64 o d a n sc r) 13 o d a n sc r

end Sys2Proof.Machine
end

