-- ==== Sys2Proof/Machine/Sync.lean ====
section
/-! DEFINITION. Meanings of the barriers, monitors, fences and scheduling instructions (13_isa_memory.md R226 to R235; 07_memory.md R121
to R124). -/

namespace Sys2Proof.Machine

/-! ## Barrier objects (R121, R122) -/

/-- Writes bytes into a slice for every observer at once: near effects and the committed view alike (R117). -/
def State.slicePutAll (s : State) (key : Nat) (bs : List Byte) : State :=
  let s := s.supersede (key / 0x400000) ((List.range bs.length).map (key + ·))
  { s with slices := s.slices.puts emptyByte key bs, slicesC := s.slicesC.puts emptyByte key bs }

/-- Writes bytes into the own slice (R116, R265). -/
def State.slicePutNear (s : State) (key : Nat) (bs : List Byte) : State :=
  let s := s.supersede (key / 0x400000) ((List.range bs.length).map (key + ·))
  { s with slices := s.slices.puts emptyByte key bs }

/-- The two words of a barrier object. -/
def State.barrierWords (s : State) (key : Nat) : Nat × Dword :=
  (leNat (s.slices.gets emptyByte key 8), BitVec.ofNat 64 (leNat (s.slices.gets emptyByte (key + 8) 8)))

/-- PHASE, PEND and RELOAD of word0 (Table 7-4). -/
def barPhase (w0 : Nat) : Nat := w0 % 2 ^ 12
/-- PEND. -/
def barPend (w0 : Nat) : Nat := w0 / 2 ^ 12 % 2 ^ 20
/-- RELOAD. -/
def barReload (w0 : Nat) : Nat := w0 / 2 ^ 32 % 2 ^ 20

/-- An update of a barrier object (R122): `arrivals` (0 or 1) leave PEND, `add` joins BYTES; at exact zero of both the phase
completes. Answers the bytes of the object afterwards, and whether BYTES fell below zero while PEND is zero. -/
def barrierUpdate (w0 : Nat) (bytes : Dword) (arrivals : Nat) (add : Dword) : List Byte × Bool :=
  let pend := barPend w0 - arrivals
  let by' := bytes + add
  let done := pend = 0 && by' = 0
  let phase := if done then (barPhase w0 + 1) % 4096 else barPhase w0
  let pend' := if done then barReload w0 else pend
  (leBytes 8 (w0 / 2 ^ 32 * 2 ^ 32 + pend' * 2 ^ 12 + phase) ++ leBytes 8 by'.toNat, !done && pend = 0 && by'.slt 0)

/-- The bytes BINIT writes (R229). -/
def binitBytes (wscope reload : Nat) : List Byte :=
  leBytes 8 (wscope * 2 ^ 53 + reload * 2 ^ 32 + reload * 2 ^ 12) ++ leBytes 8 0

/-- An arrival at the object at `key` (R122): the PHASE in force, the bytes it leaves and whether BYTES fell below zero, or HANDLE with that PHASE when
PEND is zero. -/
def State.arrival (s : State) (key : Nat) (bytes : Option Dword) : Except Nat (Nat × List Byte × Bool) :=
  let (w0, b) := s.barrierWords key
  if barPend w0 = 0 then .error (barPhase w0) else .ok (barPhase w0, barrierUpdate w0 b 1 (bytes.getD 0))

/-- Whether a slice key lies in the issuing core's own slice. -/
def State.nearKey (s : State) (key : Nat) : Bool := key / 0x400000 = s.wave.core

/-- Where the word of a barrier or monitor instruction lies (R124, R228, R232, R235): in a slice, aligned to `size`. Any address of the translated range
is one of device memory and raises PERM without a translation, where R107 would rank XLATE higher (assumption log 64). -/
def State.slicePlace (s : State) (t : Tree) (va size : Nat) : Except Flt Nat :=
  let bad := fun c => Except.error { code := c, addr := BitVec.ofNat 64 va }
  if 0x400000 ≤ va && decide (va < 0x7E0000000000) then bad PERM
  else match s.locate s.wave.core t.n va with
  | .error c => bad c
  | .ok (.page _) => bad PERM
  | .ok (.slice c o) => if va % size ≠ 0 then bad ALIGN else .ok (sliceKey c o)

/-- Whether an uncorrectable error stands at a slice key (R216). -/
def State.badKey (s : State) (key : Nat) : Bool := s.badWords.contains (key / 16)

/-- The flat address of a slice key (Table 1-4). -/
def keyAddr (key : Nat) : Nat := 0x7E0000000000 + key % (512 * 0x400000)

/-- Runs a barrier or monitor instruction on the word at address register `n`, once it may (R47, R215, R228); one whose word is read or written at its
issue (`now`) raises MEMERR there (R216). -/
def State.onSlice (s : State) (t : Tree) (n : BitVec 4) (size : Nat) (write : Bool) (now : Nat → Bool) (k : Nat → Act) : Act :=
  let va := (s.wave.ra n.toNat).toNat
  match s.slicePlace t va size with
  | .error f => .fault f
  | .ok key => s.access t (if write then .write else .read) size [(noLane, va)] (if now key && s.badKey key then s.failNow t.n va else k key)

/-- An instruction that has waited retires; otherwise `k` decides (R42, R43). -/
def State.waited (s : State) (k : Act) : Act := if s.wave.ticket = some .done then .done s .seq else k

/-- The release wait of C-mode (R215): the first effect of the access would not follow every earlier one. -/
def State.releaseBusy (s : State) (t : Tree) (va : Nat) : Bool :=
  let near := s.allNear s.wave.core t.n [(noLane, va)]
  let ((e, _), _) := s.laneTimes t near true va
  match s.lastEffect with
  | some x => decide (e ≤ x)
  | none => false

/-- Sends the effect of a barrier instruction on its way in C-mode (R109, R214). -/
def State.sendBarrier (s : State) (t : Tree) (f : Frag) (va : Nat) (e : Effect) : State :=
  (s.sendLanes t f s.nextAcc (s.allNear s.wave.core t.n [(noLane, va)]) true false [(noLane, va)] fun _ a => { a with eff := some e }).2

/-! ## Barriers (R228 to R231) -/

/-- BINIT (R229). -/
def execBinit (n : BitVec 4) (b : BitVec 5) (sc : BitVec 3) (s : State) :=
  s.issueI (.binit n b sc) fun f t =>
    s.onSlice t n 16 true s.nearKey fun key =>
      let r := (s.wave.rs b.toNat).toNat
      if r = 0 || 2 ^ 20 ≤ r then .fault { code := HANDLE, fdat := BitVec.ofNat 64 (barPhase (s.barrierWords key).1) }
      else
        let bs := binitBytes sc.toNat r
        let e := Effect.binit key (BitVec.ofNat 64 (field bs 0 8)) (BitVec.ofNat 64 (field bs 8 8))
        if t.cmode then .done (s.sendBarrier t f (s.wave.ra n.toNat).toNat e) .seq
        else if s.nearKey key then .done (s.slicePutNear key bs) .seq
        else .done (s.addCommit t e) .seq

/-- A bit as a number. -/
def flagOf (b : Bool) : Nat := if b then 1 else 0

/-- Arrives at a barrier (R228): `bytes` is BARX's count, none for BARV, which waits for the phase of its arrival. -/
def State.arriveOp (s : State) (f : Frag) (t : Tree) (n : BitVec 4) (bytes : Option Dword) (rel : Bool) : Act :=
  s.waited (s.onSlice t n 16 true s.nearKey fun key =>
    let va := (s.wave.ra n.toNat).toNat
    let e := Effect.arrive key bytes
    if t.cmode then
      if rel && s.releaseBusy t va then .hold s.stall
      else
        let s := s.sendBarrier t f va e
        if bytes.isSome then .done s .seq else .hold (s.waitFor true .arrival)
    else if s.nearKey key then
      match s.arrival key bytes with
      | .error p => .fault { code := HANDLE, fdat := BitVec.ofNat 64 p }
      | .ok (p, bs, under) =>
        let s := (s.slicePutNear key bs).underflow key s.waveEntry bs under
        if bytes.isSome || phaseDone (field bs 0 8 % 4096) p then .done s .seq
        else
          let s := s.wake (fun w => w.core == s.wave.core && w.wid != s.wave.wid) s.wave.qnt
          .hold (s.waitFor false (.phase key p))
    else
      let s := s.addCommit t e (flagOf rel)
      if bytes.isSome then .done s .seq else .hold (s.waitFor false .arrival))

/-- BARV. -/
def execBarv (n : BitVec 4) (r : BitVec 1) (s : State) := s.issueI (.barv n r) fun f t => s.arriveOp f t n none (r == 1)
/-- BARX. -/
def execBarx (n : BitVec 4) (b : BitVec 5) (r : BitVec 1) (s : State) :=
  s.issueI (.barx n b r) fun f t => s.arriveOp f t n (some (s.wave.rs b.toNat)) (r == 1)
/-- BTRY: a load (R228). -/
def execBtry (d : BitVec 5) (n : BitVec 4) (b : BitVec 5) (s : State) :=
  s.issueI (.btry d n b) fun f t =>
    s.onSlice t n 16 false (fun _ => false) fun _ =>
      s.load t f [(noLane, (s.wave.ra n.toNat).toNat)] (.btry d.toNat ((s.wave.rs b.toNat).toNat % 4096)) true id
/-- BWAIT: a word in a slice that serves a chorus task is read when that has ended (R127). -/
def execBwait (n : BitVec 4) (b : BitVec 5) (s : State) :=
  s.issueI (.bwait n b) fun _ t =>
    s.waited (s.onSlice t n 16 false (fun key => !s.heldSlice (key / 0x400000) t.id) fun key =>
      let p := (s.wave.rs b.toNat).toNat % 4096
      if s.heldSlice (key / 0x400000) t.id then .hold s.stall
      else if phaseDone (s.monitorNat t.cmode s.wave.core key 8 % 4096) p then .done s .seq
      else .hold (s.waitFor t.cmode (.phase key p)))

/-- Waves of a grid. -/
def Grid.waves (g : Grid) : Nat := g.x * g.y * g.z * g.w

/-- Waves of a grid that have ended, as judged at the commit of quantum `q` in L-mode (R231): those of retired teams and those
still resident. -/
def State.endedWaves (s : State) (t : Tree) (g : Grid) (q : Nat) : Nat :=
  (g.gone.filter fun x => t.cmode || decide (x.2 ≤ q + 1)).length * g.w +
    (s.allWaves.filter fun w => w.tree == t.id && w.grid == g.ord && w.status == .ended && (t.cmode || decide (w.qnt ≤ q))).length

/-- The waves that have arrived at a grid's barrier and have not ended since. -/
def State.bargArrived (s : State) (t : Tree) (g : Grid) : Nat :=
  (g.bargIn.filter fun n => !(s.allWaves.any fun w => w.tree == t.id && w.grid == g.ord && w.num == n && w.status == .ended)).length

/-- Completes the grid barrier when every wave that has not ended has arrived (R231). -/
def State.bargJudge (s : State) (t : Tree) (ord q : Nat) : State :=
  match t.grid? ord with
  | none => s
  | some g =>
    if g.bargIn ≠ [] && decide (g.waves ≤ s.bargArrived t g + s.endedWaves t g q) then
      s.updTree t.id fun t => t.updGrid ord fun g => { g with bargGen := g.bargGen + 1, bargIn := [] }
    else s

/-- An arrival at the grid barrier. -/
def State.bargArrive (s : State) (tree ord wave : Nat) : State :=
  s.updTree tree fun t => t.updGrid ord fun g => { g with bargIn := g.bargIn ++ [wave] }

/-- Whether a BARG is forbidden (R231, R240): in a split wave and in handler state. -/
def Wave.barsBarg (w : Wave) : Bool := w.hnd || (w.getSlot (!w.cur)).isSome || w.depth ≠ 0

/-- BARG (R231): PERM in a split wave and in handler state (R240), BARGNE without co-residency or in a child grid. In C-mode its arrival takes effect
at the count at which it issues, which is the model's choice (R231 gives no latency; assumption log 52): as an .AR access at DEVICE scope it waits
until every earlier access of the wave has taken effect (R215). -/
def execBarg (s : State) :=
  s.issueIP .barg (fun _ _ => s.wave.barsBarg) fun _ t =>
    let w := s.wave
    if w.grid ≠ 0 || (!t.cmode && !t.coRes) then .fault { code := BARGNE }
    else s.waited (s.access t .read 1 [] (
      if t.cmode && s.lastEffect.isSome then .hold s.stall else
      match t.grid? w.grid with
      | none => .done s .seq
      | some g =>
        if t.cmode then
          let s := s.bargArrive t.id w.grid w.num
          match s.tree? t.id with
          | none => .hold s
          | some t' =>
            let s := (s.bargJudge t' w.grid 0).wake (fun v => v.tree == t.id) 0
            match (s.tree? t.id).bind (·.grid? w.grid) with
            | some g' => if g.bargGen < g'.bargGen then .done s .seq else .hold (s.waitFor true (.grid g.bargGen))
            | none => .done s .seq
        else .hold ((s.addCommit t .barg).waitFor false (.grid g.bargGen))))

/-! ## Monitors and fences (R123, R226, R227, R232) -/

/-- WAITC (R232): at issue a far word is read as any far read is (R117), and held as one (R127). -/
def execWaitc (n : BitVec 4) (b : BitVec 5) (c : BitVec 3) (wd : BitVec 1) (s : State) :=
  s.issueI (.waitc n b c wd) fun _ t =>
    let wide := wd == 1
    let size := if wide then 8 else 4
    s.waited (s.onSlice t n size false (fun key => !s.heldSlice (key / 0x400000) t.id) fun key =>
      if s.heldSlice (key / 0x400000) t.id then .hold s.stall else
      let va := (s.wave.ra n.toNat).toNat
      let x := s.wave.rs b.toNat
      let v := if s.nearKey key || t.cmode then s.monitorNat t.cmode s.wave.core key size else readNat (s.farByte t s.wave) va size
      let met := if wide then scalarCond c.toNat (BitVec.ofNat 64 v) x else scalarCond c.toNat (BitVec.ofNat 32 v) (lo32 x)
      if met then .done s .seq else .hold (s.waitFor t.cmode (.word key c.toNat wide x)))

/-- Whether an earlier access of the wave has not taken effect in C-mode. -/
def State.effectsDue (s : State) : Bool :=
  match s.lastEffect with
  | some e => decide (s.chc < e)
  | none => false

/-- FENCE at a scope below SC (R226): no wait in L-mode. -/
def execFence (sc : BitVec 3) (s : State) :=
  s.issueI (.fence sc) fun _ t =>
    if t.cmode && sc.toNat ≠ 0 && s.effectsDue then .hold s.stall else .done s .seq

/-- The engine operations a core has issued that are not complete. -/
def State.engineBusy (s : State) (core : Nat) : Bool :=
  s.chans.any fun (_, c) => c.reqs.any fun r => r.core == some core

/-- Whether a core is drained for FENCE.SC (R123): no far load or atomic is in flight, a failed one counting until it has landed; in L-mode only
what quanta that have committed issued counts. -/
def State.drained (s : State) (t : Tree) (core : Nat) : Bool :=
  let busy := fun w : Wave => w.core == core && w.far.any fun x => (x.due.isSome || x.quantum.isSome) &&
    (t.cmode || match s.tree? w.tree with | some u => decide (x.issued < u.committed) | none => false)
  !(s.allWaves.any busy) && !s.engineBusy core &&
    !(t.cmode && s.accesses.any fun a => a.core == core && a.eff.isSome && decide (s.chc < a.at_))

/-- The first heartbeat tick at or after now (R123). -/
def State.nextTick (s : State) : Nat :=
  s.chc + (s.frame % 4096 + 4096 - s.chc % 4096) % 4096

/-- The drain of a FENCE.SC judged: when complete, the wave waits for the tick (R123). -/
def State.drainStep (s : State) (w : Wave) : State :=
  match s.tree? w.tree with
  | none => s
  | some t =>
    if s.drained t w.core then
      let n := s.nextTick
      if n = s.chc then s.updWave w.wid fun w => { w with ticket := some .done }
      else (s.updWave w.wid fun w => { w with ticket := some (.tick n) }).schedule n 2 w.order (.tick w.wid)
    else s

/-- FENCE.SC (R123): ends the quantum in L-mode, drains the core, waits for the tick, and then acts as a FENCE at DOMAIN. -/
def execFenceSc (s : State) :=
  s.issueI .fenceSc fun _ t =>
    match s.wave.ticket with
    | some .done => if t.cmode && s.effectsDue then .hold s.stall else .done s .seq
    | some (.tick _) => .hold s.stall
    | some .drain => .hold s.stall
    | some .ended => .hold (s.upd fun w => { w with ticket := some .drain }).stall
    | _ => if t.cmode then .hold (s.upd fun w => { w with ticket := some .drain }).stall else .hold s.endQuantum

/-- HEARTBEAT_TICK (R123): the drained FENCE.SC of the wave proceeds. -/
def execHeartbeatTick (wid : Nat) (s : State) : Host.Outcome State Fault Refusal :=
  match s.wave? wid with
  | some w =>
    match w.ticket with
    | some (.tick n) => if n ≤ s.chc then .next (s.updWave wid fun w => { w with ticket := some .done }) else .fault .noOccasion
    | _ => .fault .noOccasion
  | none => .fault .noOccasion

/-- A failed far access of the wave that has landed (R216). -/
def Wave.farError (w : Wave) : Option Flt :=
  match w.far.find? fun x => x.err.isSome && x.due.isNone && x.quantum.isNone with
  | some x => match x.err with
    | some (c, a) => some { code := c, addr := a, pc := some x.pc }
    | none => none
  | none => none

/-- FWAITC (R227): a stall until %fc is zero; when only far atomics of the current quantum remain, the quantum ends after it. -/
def execFwaitc (s : State) :=
  s.issueI .fwaitc fun _ t =>
    match s.wave.farError with
    | some f => .fault f
    | none =>
      if s.wave.fc = 0 then .done s .seq
      else if !t.cmode && s.wave.far.all (fun x => x.quantum == some s.wave.qnt) then .done s .sync
      else .hold s.stall

/-! ## Scheduling (R233, R234, R72) -/

/-- YIELD. -/
def execYield (s : State) := s.issueI .yield fun _ t => .done s (if t.cmode then .seq else .yield)
/-- QEND. -/
def execQend (s : State) := s.issueI .qend fun _ t => .done s (if t.cmode then .seq else .quit)
/-- DISPRE: inside an open window it does not extend it. -/
def execDispre (s : State) :=
  s.plainOp .dispre fun s _ _ => s.upd fun w => { w with dispre := some (w.dispre.getD 0) }
/-- ENPRE. -/
def execEnpre (s : State) := s.plainOp .enpre fun s _ _ => s.upd fun w => { w with dispre := none }

/-- Attributes the slice writes of the matrix instructions selected to the issuing wave's quantum (R265). -/
def State.attribute (s : State) (sel : MatOp → Bool) : State :=
  let f := fun o : MatOp => if sel o && !o.attributed then { o with attributed := true, quantum := some s.wave.qnt } else o
  s.updCore s.wave.core fun c => { c with ops := c.ops.map f }

/-- EXIT (R234): the wave's last live lanes wait for %fc (R227) and for its matrix instructions (R265), and raise what stands open (R68, R216,
R284, R297); of an open operator and banks still owned the operator's HANDLE comes first, which is this model's choice (assumption log 66). -/
def execExit (s : State) :=
  s.issueI .exit fun f t =>
    let w := s.wave
    if w.live &&& ~~~ f.mask ≠ 0 then .done s .exit
    else match w.farError with
    | some f => .fault f
    | none =>
      if w.fc ≠ 0 then
        if !t.cmode && w.far.any (fun x => x.quantum == some w.qnt) then .hold s.endQuantum else .hold s.stall
      else if (s.core w.core).ops.any (fun o => o.wid == w.wid && o.tree == w.tree && decide (s.chc ≤ o.comp)) then .hold s.stall
      else match w.engErrs with
      | (c, a, _) :: rest => .hold ((s.upd fun w => { w with engErrs := rest }).raise { code := c, addr := a, tcls := s.missTimed w.core a.toNat c })
      | [] =>
        if w.op.isSome then .fault { code := HANDLE }
        else if (match s.team? w with | some m => m.owners.any (fun x => x.2 == w.tw + 1) | none => false) then .fault { code := ACLEAK }
        else .done (s.attribute fun o => o.wid == w.wid && o.tree == w.tree) .exit

end Sys2Proof.Machine
end

