-- ==== Sys2Proof/Machine/MatMath.lean ====
section
/-! DEFINITION. The arithmetic of the matrix array (05_formats.md R79, R94 to R99; 16_isa_matrix.md R262, R270). -/

namespace Sys2Proof.Machine

/-- Format codes of Table 5-8. -/
def FP32C : Nat := 0
/-- E2M1X. -/
def E2M1XC : Nat := 5
/-- INT8. -/
def INT8C : Nat := 6
/-- INT32. -/
def INT32C : Nat := 7

/-- The floating format of a code of Table 5-8, but for E2M1X. -/
def fmtOf (code : Nat) : Option Fmt :=
  match code with
  | 0 => some fp32
  | 1 => some fp16
  | 2 => some bf16
  | 3 => some e4m3
  | 4 => some e5m2
  | _ => none

/-- Element width in bytes (R262). -/
def elemBytes (code : Nat) : Nat := if code = 1 || code = 2 then 2 else if code = 0 || code = 7 then 4 else 1

/-- Tile bytes of an operand of `rows` rows or columns (Table 16-1). -/
def tileBytes (code rows : Nat) : Nat := if code = E2M1XC then rows * 36 else rows * 64 * elemBytes code

/-- Length of an operand with its scale bytes (R262). -/
def operandLen (code scale rows : Nat) : Nat :=
  tileBytes code rows + (if code = E2M1XC then 0 else if scale = 1 then 2 * rows else if scale = 2 then rows else 0)

/-- An element of an E2M1X block (R79): scale, extra value, code. -/
def blockElem (s x c : Nat) : Val :=
  if s = 255 then .nan false
  else if c = 8 then
    if x = 0x7F || x = 0xFF then .nan false else (e4m3.decode x).descale (254 - s)
  else (e2m1.decode c).descale (254 - s)

/-- Bytes as numbers. -/
def bytesOf (bs : Array Byte) (at_ n : Nat) : Nat :=
  (List.range n).foldl (fun a i => a + (bs.getD (at_ + i) 0).toNat * 256 ^ i) 0

/-- Offset of element (i, k) (Table 16-1). -/
def elemOffset (code : Nat) (t : Bool) (rows i k : Nat) : Nat :=
  let eb := elemBytes code
  if t then (k * rows + i) * eb else (i * 64 + k) * eb

/-- A floating element (i, k) of an operand, or an element of its E2M1X block. -/
def elem (code : Nat) (t : Bool) (rows : Nat) (bs : Array Byte) (i k : Nat) : Val :=
  if code = E2M1XC then
    let o := i * 36 + k / 32 * 18
    let c := bytesOf bs (o + 2 + k % 32 / 2) 1
    blockElem (bytesOf bs o 1) (bytesOf bs (o + 1) 1) (if k % 2 = 0 then c % 16 else c / 16)
  else match fmtOf code with
    | some f => f.decode (bytesOf bs (elemOffset code t rows i k) (elemBytes code))
    | none => .nan false

/-- An INT8 element. -/
def elemInt (t : Bool) (rows : Nat) (bs : Array Byte) (i k : Nat) : Int :=
  (BitVec.ofNat 8 (bytesOf bs (elemOffset INT8C t rows i k) 1)).toInt

/-- The E8M0 scale that covers element (i, k) (R95, Table 16-1); 127 where there is none. -/
def elemScale (code scale rows : Nat) (bs : Array Byte) (i k : Nat) : Nat :=
  let o := tileBytes code rows
  if code = E2M1XC then 127
  else if scale = 1 then bytesOf bs (o + 2 * i + k / 32) 1
  else if scale = 2 then bytesOf bs (o + i) 1
  else 127

/-- A product P_k with its scales (R96). -/
def scaledProduct (a b : Val) (sa sb : Nat) : Val :=
  if sa = 255 || sb = 255 then .nan false
  else match (a.mul b).1 with
    | .fin n m e => .fin n m (e + sa + sb - 254)
    | v => v

/-- ⌊Log2⌋ of a finite non-zero magnitude. -/
def logOf (m : Nat) (e : Int) : Int := e + (bitLen m : Int) - 1

/-- A magnitude truncated to a multiple of 2^q. -/
def truncTo (q : Int) (m : Nat) (e : Int) : Nat × Int :=
  if q ≤ e then (m, e) else (m / 2 ^ (q - e).toNat, q)

/-- ChunkSum of finite products (R97): exact, or each truncated to 48 bits below the largest for the 16-bit class. -/
def chunkSum (class16 : Bool) (ps : List Val) : Val :=
  let tops := ps.filterMap fun p => match p with
    | .fin _ m e => if m = 0 then none else some (logOf m e)
    | _ => none
  let q : Int := (match tops with | [] => (0 : Int) | t :: ts => ts.foldl (fun a b => if a < b then b else a) t) - 47
  let parts := ps.map fun p => match p with
    | .fin n m e => let (m, e) := if class16 then truncTo q m e else (m, e); (n, m, e)
    | _ => (false, 0, 0)
  let low := match parts with
    | [] => 0
    | (_, _, e) :: r => r.foldl (fun a x => if x.2.2 < a then x.2.2 else a) e
  let sum := parts.foldl (fun a x => a + signedAt x.1 x.2.1 x.2.2 low) 0
  if sum = 0 then .fin (ps.all fun p => match p with | .fin n m _ => n && m = 0 | _ => false) 0 0
  else .fin (decide (sum < 0)) sum.natAbs low

/-- The value C of a chunk (R96). -/
def chunkValue (class16 : Bool) (ps : List Val) : Val :=
  let pinf := ps.any (· == .inf false)
  let ninf := ps.any (· == .inf true)
  if ps.any Val.isNan || (pinf && ninf) then .nan false
  else if pinf then .inf false
  else if ninf then .inf true
  else chunkSum class16 ps

/-- The accumulator after a chunk (R96). -/
def chunkUpdate (class16 : Bool) (acc : Nat) (ps : List Val) : Nat :=
  (fp32.fadd acc (fp32.ofVal .rne (chunkValue class16 ps)).1).1

/-- Whether MMA accepts a combination (Table 5-9). -/
def mmaAllowed (a b scale c : Nat) : Bool :=
  ((a = 1 || a = 2) && (b = 1 || b = 2) && scale = 0 && c = FP32C) ||
  ((a = 3 || a = 4) && (b = 3 || b = 4) && scale ≤ 2 && c = FP32C) ||
  (a = E2M1XC && b = E2M1XC && scale = 1 && c = FP32C) ||
  (a = INT8C && b = INT8C && scale = 0 && c = INT32C)

/-- Chunk depth of a class (Table 5-9). -/
def chunkDepth (a : Nat) : Nat := if a = 1 || a = 2 then 16 else 64

/-- One output element after an MMA (R96 to R98, R268). -/
def mmaElem (a b scale : Nat) (t bt : Bool) (as bs : Array Byte) (r n : Nat) (acc : Nat) : Nat :=
  if a = INT8C then
    let c := (List.range 64).foldl (fun x k => x + elemInt t 32 as r k * elemInt bt 64 bs n k) 0
    (BitVec.ofInt 32 (clamp ((BitVec.ofNat 32 acc).toInt + c) (-2147483648) 2147483647)).toNat
  else
    let d := chunkDepth a
    (List.range (64 / d)).foldl (fun acc j =>
      chunkUpdate (d = 16) acc ((List.range d).map fun i =>
        let k := j * d + i
        scaledProduct (elem a t 32 as r k) (elem b bt 64 bs n k) (elemScale a scale 32 as r k) (elemScale b scale 64 bs n k))) acc

/-! ## ACCVT (Table 16-4) -/

/-- Output bytes of a row (Table 16-4); none for a pair that raises ILLOP. -/
def accvtRow (c a : Nat) : Option Nat :=
  if c = FP32C then
    match a with
    | 0 => some 256
    | 1 => some 128
    | 2 => some 128
    | 3 => some 64
    | 4 => some 64
    | 5 => some 36
    | _ => none
  else if c = INT32C then (if a = INT32C then some 256 else if a = INT8C then some 64 else none)
  else none

/-- Whether a pair rounds (R270). -/
def accvtRounds (c a : Nat) : Bool := c = FP32C && 1 ≤ a && a ≤ 5

/-- The bytes of one converted row and its flags; `rnd` gives the rounding of a column. -/
def accvtBytes (c a : Nat) (row : List Word) (rnd : Nat → Rnd) : List Byte × Word :=
  if c = FP32C && a = E2M1XC then
    let block := fun g => encodeBlock (((row.drop (32 * g)).take 32).map fun w => fp32.decode w.toNat) fun j => rnd (32 * g + j)
    let b0 := block 0; let b1 := block 1
    ((blockBytes b0 ++ blockBytes b1).map fun x => BitVec.ofNat 8 x, b0.2.2.2 ||| b1.2.2.2)
  else
    let xs := row.zipIdx.map fun (w, n) =>
      if c = FP32C then
        match fmtOf a with
        | some f => if a = FP32C then (w.toNat, (0 : Word)) else f.ofVal (rnd n) (fp32.decode w.toNat)
        | none => (0, 0)
      else if a = INT32C then (w.toNat, 0)
      else let (x, g) := narrow (-128) 127 8 w.toInt; (x.toNat, g)
    (xs.flatMap fun x => leBytes (elemBytes a) x.1, xs.foldl (fun g x => g ||| x.2) 0)

end Sys2Proof.Machine
end

