-- ==== Sys2Proof/Machine/Futures.lean ====
section
/-! DEFINITION. The handle table and the meanings of the future instructions (16_isa_matrix.md R274 to R278; 17_isa_engines.md R283 to
R285). -/

namespace Sys2Proof.Machine

/-- Handle entries a result in flight names. -/
def Res.handles : Res → List Nat
  | .hnd _ x => x.toList
  | .two a b => a.handles ++ b.handles
  | _ => []

/-- Handle entries a wave names (R274). -/
def Wave.handles (w : Wave) : List Nat := w.h.filterMap (·.2) ++ w.flight.flatMap fun f => f.res.handles

/-- The handle entry of a commit record (R281, R299). -/
def Effect.handle : Effect → Option Nat
  | .engine _ _ h _ => h
  | .lnch _ h => h
  | .opend _ _ _ h => h
  | _ => none

/-- The parts of an entry that are no bound handles. -/
def Core.leaves (c : Core) : Nat → Nat → List Nat
  | 0, _ => []
  | n + 1, i =>
    let h := c.handles.get {} i
    if h.kind = 7 then c.leaves n h.partA ++ c.leaves n h.partB else [i]

/-- Whether an operation counts as complete at count `chc` (R272): for every instruction issued after its completion count. -/
def Handle.complete (h : Handle) (chc : Nat) : Bool := h.kind = 0 || ((h.state = 1 || h.state = 3) && h.comp < chc)

/-- Depth of nested bound handles followed. -/
def bindDepth : Nat := 257

/-- Entries whose operation is under way (R274), whoever names them and whether or not it is cancelled (R277): incomplete operations, those in
queues, records and on the agenda, unretired child grids, and bound entries with a part under way. -/
def State.busyHandles (s : State) (core : Nat) : List Nat :=
  let c := s.core core
  let under :=
    (c.handles.filter fun x => x.2.kind ≠ 0 && x.2.kind ≠ 7 && x.2.state = 0).map (·.1) ++
    (c.ops.filter fun o => decide (s.chc ≤ o.comp)).filterMap (·.handle) ++
    (s.chans.flatMap fun (_, ch) => (ch.reqs.filter (·.core == some core)).filterMap (·.handle)) ++
    (s.sends.filter (·.core == core)).filterMap (·.handle) ++
    (s.trees.flatMap fun t => (t.pend.filter (·.core == core)).filterMap (·.eff.handle) ++
      t.grids.filterMap fun g => match g.handle with
      | some (k, h) => if k = core && !g.retired then some h else none
      | none => none) ++
    s.agenda.filterMap fun d => match d.ev with
      | .opAccept k _ e => if k = core then e.handle else none
      | _ => none
  under ++ (c.handles.filter fun x => x.2.kind = 7 && (c.leaves bindDepth x.1).any under.contains).map (·.1)

/-- The entries with the parts of bound ones, closed under `n` steps. -/
def Core.closure (c : Core) : Nat → List Nat → List Nat
  | 0, xs => xs
  | n + 1, xs =>
    let ps := xs.flatMap fun i => let h := c.handles.get {} i; if h.kind = 7 then [h.partA, h.partB] else []
    let new := (ps.filter fun p => !xs.contains p).eraseDups
    if new.isEmpty then xs else c.closure n (xs ++ new)

/-- Live entries of a core's handle table (R274): named by a handle register, or of an operation under way. -/
def State.liveHandles (s : State) (core : Nat) : List Nat :=
  let named := (s.allWaves.filter fun w => w.core == core && w.status != .idle && w.status != .ended).flatMap Wave.handles
  (named ++ s.busyHandles core).eraseDups

/-- The lowest-numbered entry that is not live, of the 256. -/
def State.freeHandle (s : State) (core : Nat) : Option Nat :=
  let live := s.liveHandles core
  (List.range 256).find? fun i => !live.contains i

/-- What was known under entry `i` goes to `j`, or to none: the parts of bound entries, the operations' handles, and the errors held (R274, R284). -/
def State.moveHandle (s : State) (core i : Nat) (j : Option Nat) : State :=
  let at_ := fun k : Nat => if k = i then j.getD k else k
  let op := fun h : Option Nat => if h = some i then j else h
  (s.updCore core fun c =>
    let hs : Store Handle := match j with | some k => c.handles.put {} k (c.handles.get {} i) | none => c.handles
    { c with
      handles := hs.map fun (x : Nat × Handle) =>
        if x.2.kind = 7 then (x.1, { x.2 with partA := at_ x.2.partA, partB := at_ x.2.partB }) else x
      ops := c.ops.map fun o => { o with handle := op o.handle } }).mapWaves fun w =>
    if w.core = core then { w with engErrs := w.engErrs.map fun e => (e.1, e.2.1, op e.2.2) } else w

/-- Makes a handle-table entry. A complete part of a live bound entry is itself not live (R274): when its entry is used anew, what the bound handle has
still to find of it is kept under a number above those of the table, for as long as a bound entry leads there. -/
def State.putHandle (s : State) (core i : Nat) (h : Handle) : State :=
  let c := s.core core
  let reach := c.closure 512 (s.liveHandles core)
  let j := if reach.contains i then ((List.range 256).find? fun k => !reach.contains (256 + k)).map (256 + ·) else none
  (s.moveHandle core i j).updCore core fun c =>
    let hs : Store Handle := c.handles.filter fun x => decide (x.1 < 256) || reach.contains x.1 || some x.1 == j
    { c with handles := hs.put {} i h }

/-- Updates a handle-table entry. -/
def State.updHandle (s : State) (core i : Nat) (f : Handle → Handle) : State :=
  s.updCore core fun c => { c with handles := c.handles.put {} i (f (c.handles.get {} i)) }

/-- Whether an entry or a part of it is cancelled (R277, R278). -/
def Core.cancelled (c : Core) : Nat → Nat → Bool
  | 0, _ => false
  | n + 1, i =>
    let h := c.handles.get {} i
    h.state = 2 || (h.kind = 7 && (c.cancelled n h.partA || c.cancelled n h.partB))

/-- The engine error that waits for an instruction on one of the handles (R284). -/
def Wave.errorOn (w : Wave) (hs : List Nat) : Option (Nat × Dword × Option Nat) :=
  w.engErrs.find? fun e => match e.2.2 with | some h => hs.contains h | none => false

/-- Raises an engine error at the instruction that waited on its handle; a miss of a C-mode grid is of the timing class (R108). -/
def State.raiseEngine (s : State) (e : Nat × Dword × Option Nat) : Act :=
  .hold ((s.upd fun w => { w with engErrs := w.engErrs.erase e }).raise { code := e.1, addr := e.2.1, tcls := s.missTimed s.wave.core e.2.1.toNat e.1 })

/-- What a completed FWAIT does: ACCVT's flags (R270) and the attribution of slice writes (R265). -/
def State.finishWait (s : State) (hs : List Nat) : State :=
  let c := s.core s.wave.core
  let g := hs.foldl (fun (g : Word) i => g ||| (c.handles.get {} i).flags) 0
  let s := hs.foldl (fun s i => s.updHandle s.wave.core i fun h => { h with flags := 0 }) (s.flag g)
  s.attribute fun o => match o.handle with | some h => hs.contains h | none => false

/-- FWAIT (R275). On a child grid's handle it is a switch point of L-mode, also when the grid has retired (Table 3-2). With FUTCAN %fdat holds the number of the handle register: R238 says 'handle number', which could be the entry's, and the register's
is this model's choice (assumption log 56). -/
def execFwait (h : BitVec 4) (s : State) :=
  s.issueI (.fwait h) fun _ t =>
    match s.wave.rh h.toNat with
    | none => .done s .seq
    | some i =>
      let c := s.core s.wave.core
      if c.cancelled bindDepth i then .fault { code := FUTCAN, fdat := h.setWidth 64 }
      else
        let ls := c.leaves bindDepth i
        let get := fun j => c.handles.get {} j
        let fresh := ls.any fun j => (get j).quantum == s.wave.qnt && ((get j).kind = 4 || (get j).kind = 5 || (get j).kind = 6)
        if !t.cmode && fresh then .hold s.endQuantum
        else if ls.any fun j => (get j).kind ≠ 6 && !(get j).complete s.chc then .hold (if t.cmode then s.waitHere else s.stall)
        else match ls.find? fun j => (get j).kind = 6 && (get j).state = 0 with
          | some j => .hold (s.waitFor false (.child j))
          | none =>
            match s.wave.errorOn ls with
            | some e => s.raiseEngine e
            | none =>
              let child := !t.cmode && ls.any fun j => (get j).kind = 6
              .done (s.finishWait ls) (if child && s.wave.ticket ≠ some .done then .choose else .seq)

/-- FTEST (R276). -/
def execFtest (d : BitVec 5) (h : BitVec 4) (s : State) :=
  s.plainOp (.ftest d h) fun s _ _ =>
    let c := s.core s.wave.core
    let v := match s.wave.rh h.toNat with
      | none => 1
      | some i => if c.cancelled bindDepth i then 2
        else if (c.leaves bindDepth i).all fun j => (c.handles.get {} j).complete s.chc then 1 else 0
    s.result 1 (.sca d.toNat v)

/-- FCANCEL (R277): the operation runs on; ACCVT's flags are discarded. -/
def execFcancel (h : BitVec 4) (s : State) :=
  s.plainOp (.fcancel h) fun s _ _ =>
    match s.wave.rh h.toNat with
    | none => s
    | some i => s.updHandle s.wave.core i fun x => { x with state := 2, flags := 0 }

/-- FMOV (R278). -/
def execFmov (d a : BitVec 4) (s : State) :=
  s.regOp (.fmov d a) 1 fun w => .hnd d.toNat (w.rh a.toNat)

/-- FBIND (R278). -/
def execFbind (d a : BitVec 4) (s : State) :=
  s.issueI (.fbind d a) fun _ _ =>
    match s.wave.rh d.toNat, s.wave.rh a.toNat with
    | none, x => .done (s.result 1 (.hnd d.toNat x)) .seq
    | some _, none => .done s .seq
    | some p, some q =>
      match s.freeHandle s.wave.core with
      | none => .hold s.stall
      | some i =>
        let s := s.putHandle s.wave.core i { kind := 7, partA := p, partB := q, wid := s.wave.wid, tree := s.wave.tree }
        .done (s.result 1 (.hnd d.toNat (some i))) .seq

end Sys2Proof.Machine
end

