-- ==== Sys2Proof/Machine/Matrix.lean ====
section
/-! DEFINITION. Meanings of the accumulator, weight-plane and matrix instructions and of their events (16_isa_matrix.md R256 to R273;
timing outside chorus mode: assumption log 13). -/

namespace Sys2Proof.Machine

/-! ## Tiles and banks (R256 to R259) -/

/-- Key of word (r, n) of the tile that starts at bank `bank` of a core (R256). -/
def tileKey (core bank r n : Nat) : Nat := core * 131072 + bank * 512 + r * 64 + n

/-- Row `r` of a tile. -/
def State.tileRow (s : State) (core bank r : Nat) : List Word := s.accs.gets 0 (tileKey core bank r 0) 64
/-- Writes row `r` of a tile. -/
def State.putRow (s : State) (core bank r : Nat) (ws : List Word) : State :=
  { s with accs := s.accs.puts 0 (tileKey core bank r 0) ws }

/-- Whether banks `b` to `b + n - 1` of a team's pool belong to the wave with %tw `tw`. -/
def Team.owns (m : Team) (tw b n : Nat) : Bool :=
  decide (b + n ≤ m.a) && (List.range n).all fun i => m.owners.get 0 (b + i) == tw + 1

/-- The lowest-numbered run of `c` banks no wave owns (R258). -/
def Team.freeRun (m : Team) (c : Nat) : Option Nat :=
  (List.range (m.a + 1 - c)).find? fun b => (List.range c).all fun i => m.owners.get 0 (b + i) == 0

/-- Gives banks `b` to `b + n - 1` to an owner (%tw + 1), or to none (0). -/
def Team.setOwner (m : Team) (x b n : Nat) : Team :=
  { m with owners := (List.range n).foldl (fun o i => o.put 0 (b + i) x) m.owners }

/-- ACQ (R258). -/
def execAcq (d a : BitVec 5) (s : State) :=
  s.issueI (.acq d a) fun _ _ =>
    let c := (s.wave.rs a.toNat).toNat
    match s.team? s.wave with
    | none => .fault { code := ACBANK }
    | some m =>
      if c = 0 || m.a < c then .fault { code := ACBANK }
      else match m.freeRun c with
        | none => .fault { code := ACBANK }
        | some b =>
          let s := s.updTeam s.wave fun m => m.setOwner (s.wave.tw + 1) b c
          .done (s.result 1 (.sca d.toNat (BitVec.ofNat 64 b))) .seq

/-- Whether a matrix instruction is incomplete for an instruction that issues now (R272). -/
def MatOp.open (o : MatOp) (chc : Nat) : Bool := decide (chc ≤ o.comp)
/-- A compute instruction (R264). -/
def MatOp.compute (o : MatOp) : Bool := o.kind != .ldsw && o.kind != .swapw
/-- Whether an operation names one of the `n` banks from `bank` on. -/
def MatOp.names (o : MatOp) (bank n : Nat) : Bool := o.compute && decide (o.bank < bank + n) && decide (bank < o.bank + 4)

/-- ACREL (R259): a wait on the compute instructions that name one of the banks, which attributes their slice writes (R265). -/
def execAcrel (a b : BitVec 5) (s : State) :=
  s.issueI (.acrel a b) fun _ _ =>
    let lo := (s.wave.rs a.toNat).toNat
    let n := (s.wave.rs b.toNat).toNat
    match s.team? s.wave with
    | none => .fault { code := ACBANK }
    | some m =>
      if n = 0 || m.a < n || !m.owns s.wave.tw lo n then .fault { code := ACBANK }
      else
        let mine := fun o : MatOp => o.names (m.abase + lo) n
        if (s.core s.wave.core).ops.any (fun o => mine o && o.open s.chc) then .hold s.stall
        else .done ((s.attribute mine).updTeam s.wave fun m => m.setOwner 0 lo n) .seq

/-! ## Operands (R261, R262) -/

/-- The fault of an operand or record of `len` bytes at `a` under modulo register value `k`, aligned to `al` (R261, R282, R107): the lowest
faulting byte. A byte at an address of the translated range that no valid entry maps gives XLATE, which R261 names for reserved ranges only
(assumption log 47). -/
def State.operandFault (s : State) (t : Tree) (a k : Dword) (len al : Nat) : Option Flt :=
  match wrap a k 0 with
  | none => some { code := ALIGN, addr := a }
  | some _ =>
    let bad := (List.range len).filterMap fun d =>
      let va := ((wrap a k (BitVec.ofNat 64 d)).getD 0).toNat
      match s.locate s.wave.core t.n va with
      | .error c => some (c, va)
      | .ok (.page _) => some (PERM, va)
      | .ok (.slice c _) => if c = s.wave.core then none else some (PERM, va)
    let top := if bad.any (fun x => x.1 == XLATE) then XLATE else PERM
    match (bad.filter (·.1 == top)).map (·.2) with
    | v :: vs => let lo := vs.foldl min v; some { code := top, addr := BitVec.ofNat 64 lo, tcls := s.missTimed s.wave.core lo top }
    | [] => if a.toNat % al ≠ 0 then some { code := ALIGN, addr := a } else none

/-- Slice offset of byte `d` of an operand that has passed its check. -/
def operandOff (a k : Dword) (d : Nat) : Nat := ((wrap a k (BitVec.ofNat 64 d)).getD 0).toNat % 0x400000

/-- The slice offsets of an operand of `len` bytes. -/
def operandOffs (a k : Dword) (len : Nat) : List Nat := (List.range len).map (operandOff a k)

/-- Core of an operation. -/
def MatOp.core (o : MatOp) : Nat := o.wid / 16
/-- Key of byte `d` of an operation's operand. -/
def MatOp.key (o : MatOp) (d : Nat) : Nat := sliceKey o.core (operandOff o.base o.k d)
/-- Whether an operation reads its operand range. -/
def MatOp.reads (o : MatOp) : Bool := o.kind == .acwr || o.kind == .ldsw || o.kind == .mma
/-- Whether an operation writes its operand range. -/
def MatOp.writes (o : MatOp) : Bool := o.kind == .acrd || o.kind == .accvt

/-! ## Effects -/

/-- The source bytes of an operation, by operand offset. -/
def MatOp.bytes (o : MatOp) : Array Byte :=
  ((o.src.sortBy fun a b => decide (a.1 ≤ b.1)).map (·.2)).toArray

/-- A weight plane of a core. -/
def Core.plane (c : Core) (p : Bool) : Plane := if p then c.plane1 else c.plane0
/-- Writes a weight plane. -/
def Core.setPlane (c : Core) (p : Bool) (x : Plane) : Core := if p then { c with plane1 := x } else { c with plane0 := x }

/-- The contents an MMA uses (R260): those of the latest earlier LDSW into the plane that has not loaded yet, else the plane's own. -/
def Core.planeBytes (c : Core) (p cmode : Bool) : List Byte :=
  if cmode then (c.plane p).bytes
  else match (c.ops.filter fun o => o.kind == .ldsw && o.plane == p && !o.applied).getLast? with
    | some o => o.src.map (·.2)
    | none => (c.plane p).bytes

/-- The effect on the tile of ACZERO, ACWR and MMA (R268, R269), for the rows of E. -/
def State.applyTile (s : State) (o : MatOp) (cmode : Bool) : State :=
  let src := o.bytes
  let bs := ((s.core o.core).planeBytes o.plane cmode).toArray
  (lanesOf o.rows).foldl (fun s r =>
    match o.kind with
    | .aczero => s.putRow o.core o.bank r (List.replicate 64 0)
    | .acwr => s.putRow o.core o.bank r ((List.range 64).map fun n => BitVec.ofNat 32 (bytesOf src (256 * r + 4 * n) 4))
    | .mma =>
      let row := s.tileRow o.core o.bank r
      s.putRow o.core o.bank r (row.zipIdx.map fun (w, n) =>
        BitVec.ofNat 32 (mmaElem (fmtA o.fmt) (fmtB o.fmt) (fmtScale o.fmt) o.t o.bt src bs r n (if o.ow then 0 else w.toNat)))
    | _ => s) s

/-- The bytes ACRD and ACCVT write, by operand offset, with ACCVT's flags (R269, R270). `o.words` holds the generator's state for
each group, in order. -/
def State.matOut (s : State) (o : MatOp) : List (Nat × Byte) × Word :=
  let one := fun (x : Nat × Nat) =>
    let row : List Word := s.tileRow o.core o.bank x.1
    let res : Nat × List Byte × Word :=
      if o.kind == MKind.acrd then (256, row.flatMap (fun (w : Word) => leBytes 4 w.toNat), 0)
      else
        let rnd := fun n => rndFor o.fmt (o.words.getD (2 * x.2 + n / 32) 0) (fmtRnd o.fmt) (n % 32) false
        ((accvtRow (fmtC o.fmt) (fmtA o.fmt)).getD 0, accvtBytes (fmtC o.fmt) (fmtA o.fmt) row rnd)
    (res.2.1.zipIdx.map fun y => (x.1 * res.1 + y.2, y.1), res.2.2)
  let rows := (lanesOf o.rows).zipIdx.map one
  (rows.flatMap (·.1), rows.foldl (fun g x => g ||| x.2) 0)

/-- Loads the plane of an LDSW (R266). -/
def State.loadPlane (s : State) (o : MatOp) : State :=
  s.updCore o.core fun c => c.setPlane o.plane { c.plane o.plane with bytes := o.bytes.toList, loaded := true }

/-- Updates an operation of a core. -/
def State.updOp (s : State) (core id : Nat) (f : MatOp → MatOp) : State :=
  s.updCore core fun c => { c with ops := c.ops.map fun o => if o.id == id then f o else o }

/-- Adds ACCVT's flags to its handle, unless it is cancelled (R270, R277). -/
def State.handleFlags (s : State) (o : MatOp) (g : Word) : State :=
  match o.handle with
  | some h => s.updHandle o.core h fun x => if x.state = 2 then x else { x with flags := x.flags ||| g }
  | none => s

/-- The whole effect of an operation at its issue: outside chorus mode (R265). An LDSW into a draining plane keeps its source for the
start of its load. -/
def State.actWhole (s : State) (o : MatOp) (defer : Bool) : State :=
  let o := if o.reads then { o with src := (List.range o.len).map fun d => (d, s.slices.get emptyByte (o.key d)) } else o
  let (s, o) :=
    if o.kind == .ldsw then (if defer then (s, o) else (s.loadPlane o, { o with applied := true, src := [] }))
    else if o.writes then
      let (out, g) := s.matOut o
      let keyed := out.map fun x => (o.key x.1, x.2)
      let under := keyed.map fun x => (x.1, s.slices.get emptyByte x.1)
      ({ s.handleFlags o g with slices := keyed.foldl (fun m x => m.put emptyByte x.1 x.2) s.slices },
        { o with out := keyed, under := under, attributed := false, applied := true })
    else (s.applyTile o false, { o with applied := true, src := [] })
  s.updCore o.core fun c => { c with ops := c.ops ++ [o] }

/-! ## Issue (R264, R266, R267, R272) -/

/-- Largest of a list of counts. -/
def maxOf (xs : List Nat) : Nat := xs.foldl max 0

/-- Slice units of 128 bytes. -/
def MatOp.units (o : MatOp) : Nat := (o.len + 127) / 128

/-- Busy end of the last compute instruction, or of the last LDSW, of a core. -/
def Core.busyEnd (c : Core) (weight : Bool) : Nat :=
  maxOf ((c.ops.filter fun o => if weight then o.kind == .ldsw else o.compute).map (·.busy))

/-- Count at which a plane stops draining (R266). -/
def Core.drainEnd (c : Core) (p : Bool) : Nat := maxOf ((c.ops.filter fun o => o.kind == .mma && o.plane == p).map (·.busy))

/-- Start of a compute instruction (Table 16-5). -/
def Core.computeStart (c : Core) (chc bank : Nat) (mma plane : Bool) : Nat :=
  let earlier := c.ops.filter fun o => (mma && o.kind == .ldsw && o.plane == plane) || (o.names bank 4 && !(mma && o.kind == .mma))
  max (chc + 2) (max (c.busyEnd false) (maxOf (earlier.map (·.comp))))

/-- Busy length and completion after it of each kind (Table 16-5). -/
def MatOp.timed (o : MatOp) (start : Nat) : MatOp :=
  let (b, c) := match o.kind with
    | .ldsw => (o.units, o.units + 8)
    | .swapw => (0, 1)
    | .mma => let n := if fmtA o.fmt = 1 || fmtA o.fmt = 2 then 64 else if fmtA o.fmt = E2M1XC then 16 else 32; (n, n + 72)
    | .aczero => (4, 4)
    | .acwr => (64, 72)
    | .acrd => (72, 72)
    | .accvt => (72, 72)
  { o with start := start, busy := start + b, comp := start + c }

/-- Bytes of unit `c` of an operation, in the order they move (R272): a range of operand offsets. -/
def MatOp.unit (o : MatOp) (c : Nat) : List Nat :=
  let u := if o.e1 then o.units - 1 - c else c
  (List.range (min 128 (o.len - 128 * u))).map (128 * u + ·)

/-- Bytes of each row that ACRD or ACCVT writes. -/
def MatOp.rowBytes (o : MatOp) : Nat := if o.kind == .accvt then (accvtRow (fmtC o.fmt) (fmtA o.fmt)).getD 256 else 256

/-- Whether a byte of the range is one that the operation moves. -/
def MatOp.moves (o : MatOp) (d : Nat) : Bool := !o.writes || o.rows.getLsbD (d / o.rowBytes)

/-- Puts the transfers and the ends of an operation on the agenda in chorus mode, with its bank uses (R126, R272). -/
def State.planUnits (s : State) (o : MatOp) (order : Nat) : State :=
  let first := o.start + (if o.writes then 8 else 0)
  (List.range o.units).foldl (fun s c =>
    let offs := ((o.unit c).filter o.moves).map fun d => operandOff o.base o.k d / 16 * 16
    (s.claim o.core (first + c) o.id o.user o.reads offs.eraseDups).schedule (first + c) 3 order (.unit o.core o.id)) s

/-- Operations still needed: incomplete, not yet attributed, or attributed to a quantum that has not committed. -/
def State.pruneOps (s : State) (core : Nat) (t : Tree) : State :=
  let keep := fun o : MatOp => o.open s.chc || !o.applied || (o.tree == t.id && (!o.attributed ||
    match o.quantum with | some q => decide (t.committed ≤ q) | none => false))
  s.updCore core fun c => { c with ops := c.ops.filter keep }

/-- The first accumulator word with an uncorrectable error among those that an operation reads (R399). -/
def State.badTile (s : State) (o : MatOp) : Option Nat :=
  if o.kind == .acrd || o.kind == .accvt || (o.kind == .mma && !o.ow) then
    s.badBanks.find? fun k => decide (k / 131072 = s.wave.core) && decide (o.bank * 512 ≤ k % 131072) && decide (k % 131072 < o.bank * 512 + 2048) &&
      o.rows.getLsbD ((k % 131072 - o.bank * 512) / 64)
  else none

/-- An uncorrectable error in an accumulator word raises MEMERR at the matrix instruction that reads it, as one in its slice operand does (DESIGN
CHOICE, assumption log 78). -/
def State.bankFails (s : State) (k : Nat) : Act :=
  let e := { s.waveEntry with kind := 4, code := MEMERR, desk := s.wave.core / 512, addr := k % 131072 }
  .hold ((s.coreError s.wave.core e).raise { code := MEMERR })

/-- Issues a matrix instruction whose checks have passed: the waits of R47, R118, R264 and R274, its handle, its times, and its effects. An entry
of its queue is free again once the instruction before it is complete, the count past its completion: R264 does not say at which of start,
busy end and completion (assumption log 46). -/
def State.matrix (s : State) (f : Frag) (t : Tree) (hd : BitVec 4) (o : MatOp) (start : Core → Nat) : Act :=
  let core := s.wave.core
  let s := s.pruneOps core t
  let c := s.core core
  let queue := fun p : MatOp => p.open s.chc && if o.kind == .ldsw then p.kind == .ldsw else p.compute
  let full := o.kind != .swapw && decide ((if o.kind == .ldsw then 2 else 8) ≤ (c.ops.filter queue).length)
  let bad := if o.reads then (o.src.find? fun x => s.badAt (.slice core x.1)).map (·.1) else none
  if o.len ≠ 0 && s.needsCommit t then .hold (s.waitCommit s.wave.qnt s.wave.qnt)
  else if !t.cmode && s.engineWaits t core 1 (if o.reads then .read else .write) (o.src.map fun x => (0, x.1)) then .hold s.stall
  else if full then .hold s.stall
  else if let some k := s.badTile o then s.bankFails k
  else match bad, s.freeHandle core with
  | some off, _ => s.failNow t.n off
  | none, none => .hold s.stall
  | none, some i =>
    let offs := o.src.map (·.1)
    let o := { o with id := s.nextAcc, wid := s.wave.wid, tree := t.id, handle := some i, issue := s.chc, src := [],
                      lo := offs.foldl min (offs.headD 0), hi := maxOf offs, user := s.wave.user 3 f.pc }.timed (start c)
    let kind := if o.kind == .ldsw then 2 else if o.kind == .swapw then 3 else 1
    let o := if o.kind == .swapw then { o with start := s.chc, busy := s.chc, comp := max (s.chc + 1) (c.drainEnd o.plane), applied := true } else o
    let s := { s with nextAcc := s.nextAcc + 1 }
    let s := s.putHandle core i { kind := kind, wid := o.wid, tree := t.id, quantum := s.wave.qnt, comp := o.comp }
    let s := s.result 1 (.hnd hd.toNat (some i))
    let s := if o.kind == .swapw then s.updCore core fun c => { c with active := !c.active, ops := c.ops ++ [o] }
      else if t.cmode then
        ((s.updCore core fun c => { c with ops := c.ops ++ [o] }).planUnits o s.wave.order).schedule o.busy 3 s.wave.order (.matrix core o.id)
      else
        let defer := o.kind == .ldsw && (decide (s.chc < c.drainEnd o.plane) || c.ops.any fun p => p.kind == .ldsw && !p.applied)
        let s := s.actWhole o defer
        if defer then s.schedule o.start 3 s.wave.order (.unit core o.id) else s
    let s := if t.cmode && o.kind != .swapw then s else s.schedule o.comp 3 s.wave.order (.matrix core o.id)
    .done s .seq

/-- Checks the tile and the operand of a matrix instruction (R257, R261, R271) and hands on an operation with the tile's bank and,
under `src`, the operand's slice offsets. -/
def State.tileOp (s : State) (f : Frag) (t : Tree) (b : BitVec 5) (n : BitVec 4) (k : BitVec 3) (mk : BitVec 3) (len : Nat) (o : MatOp)
    (go : MatOp → Act) : Act :=
  let bank := (s.wave.rs b.toNat).toNat
  let a := s.wave.ra n.toNat
  let kv := s.wave.rk k.toNat
  match s.team? s.wave with
  | none => .fault { code := ACBANK }
  | some m =>
    if !m.owns s.wave.tw bank 4 then .fault { code := ACBANK }
    else match (if len = 0 then none else s.operandFault t a kv len 16) with
      | some e => .fault e
      | none => go { o with bank := m.abase + bank, rows := s.wave.eff f mk.toNat, base := a, k := kv, len := len, fmt := f.fmt,
                            src := (operandOffs a kv len).map fun x => (x, 0) }

/-- An operation of a kind before it issues. -/
def newOp (kind : MKind) : MatOp := { id := 0, kind := kind, wid := 0, tree := 0, handle := none, issue := 0, start := 0, busy := 0, comp := 0 }

/-- ACZERO (R269, R271). -/
def execAczero (h : BitVec 4) (b : BitVec 5) (m : BitVec 3) (s : State) :=
  s.issueI (.aczero h b m) fun f t =>
    s.tileOp f t b 0 0 m 0 (newOp .aczero) fun o => s.matrix f t h o fun c => c.computeStart s.chc o.bank false false

/-- ACRD (R269). -/
def execAcrd (h : BitVec 4) (b : BitVec 5) (n : BitVec 4) (k m : BitVec 3) (s : State) :=
  s.issueI (.acrd h b n k m) fun f t =>
    s.tileOp f t b n k m 8192 (newOp .acrd) fun o => s.matrix f t h o fun c => c.computeStart s.chc o.bank false false

/-- ACWR (R269). -/
def execAcwr (h : BitVec 4) (b : BitVec 5) (n : BitVec 4) (k m : BitVec 3) (s : State) :=
  s.issueI (.acwr h b n k m) fun f t =>
    s.tileOp f t b n k m 8192 (newOp .acwr) fun o => s.matrix f t h o fun c => c.computeStart s.chc o.bank false false

/-- Whether ACCVT accepts FMT (R270). -/
def accvtOk (fmt : Word) : Bool :=
  (accvtRow (fmtC fmt) (fmtA fmt)).isSome && (!accvtRounds (fmtC fmt) (fmtA fmt) || rndValid (fmtRnd fmt))

/-- ACCVT (R270): the drain generator steps at issue, once per group of 32 columns of the rows in E. -/
def execAccvt (h : BitVec 4) (b : BitVec 5) (n : BitVec 4) (k m : BitVec 3) (s : State) :=
  let i : Instr := .accvt h b n k m
  let fmt := s.curFmt
  s.issue i.enc (i.wellFormed && accvtOk fmt) i.site i.touch fun f t =>
    s.tileOp f t b n k m (32 * (accvtRow (fmtC fmt) (fmtA fmt)).getD 0) (newOp .accvt) fun o =>
      let steps := if accvtRounds (fmtC fmt) (fmtA fmt) && fmtRnd fmt = 4 && fmtSren fmt then 2 * (lanesOf o.rows).length else 0
      let gen := (s.core s.wave.core).dgen
      match s.matrix f t h { o with words := (List.range steps).map (genSteps gen) } fun c => c.computeStart s.chc o.bank false false with
      | .done s' c => .done (s'.updCore s.wave.core fun k => { k with dgen := genSteps gen steps }) c
      | a => a

/-- Whether LDSW accepts a format and T (R266). -/
def ldswOk (fmt : Word) (t : Bool) : Bool :=
  let b := fmtB fmt; let sc := fmtScale fmt
  (1 ≤ b && b ≤ 6) && sc ≠ 3 && (if b = E2M1XC then sc = 1 && !t else if b = 1 || b = 2 || b = INT8C then sc = 0 else true)

/-- LDSW (R266, R273): loads the shadow plane, which takes its descriptor at once (R279: a rewind loads it from there); PLANE in chorus mode when the plane is draining at
its start. -/
def execLdsw (h : BitVec 4) (n : BitVec 4) (k : BitVec 3) (tr e : BitVec 1) (s : State) :=
  let i : Instr := .ldsw h n k tr e
  let fmt := s.curFmt
  s.issue i.enc (i.wellFormed && ldswOk fmt (tr == 1)) i.site i.touch fun f t =>
    let a := s.wave.ra n.toNat
    let kv := s.wave.rk k.toNat
    let len := operandLen (fmtB fmt) (fmtScale fmt) 64
    let c := s.core s.wave.core
    let p := !c.active
    let own := max (s.chc + 2) (c.busyEnd true)
    match s.operandFault t a kv len 16 with
    | some g => .fault g
    | none =>
      let o := { newOp .ldsw with base := a, k := kv, len := len, fmt := fmt, plane := p, t := tr == 1, e1 := e == 1
                                  src := (operandOffs a kv len).map fun x => (x, 0) }
      match s.matrix f t h o fun c => if t.cmode then own else max own (c.drainEnd p) with
      | .done s' x =>
        if t.cmode && decide (own < c.drainEnd p) then .fault { code := PLANE }
        else .done (s'.updCore s.wave.core fun c =>
          let d := { c.plane p with bfmt := fmtB fmt, scale := fmtScale fmt, t := tr == 1, src := a, k := kv, loaded := true }
          c.setPlane p d) x
      | x => x

/-- SWAPW (R267). -/
def execSwapw (h : BitVec 4) (s : State) :=
  s.issueI (.swapw h) fun f t => s.matrix f t h { newOp .swapw with plane := (s.core s.wave.core).active } fun _ => s.chc

/-- MMA (R268): bound to the plane active at its issue. -/
def execMma (h : BitVec 4) (b : BitVec 5) (n : BitVec 4) (k m : BitVec 3) (tr ow e : BitVec 1) (s : State) :=
  let i : Instr := .mma h b n k m tr ow e
  let fmt := s.curFmt
  let c := s.core s.wave.core
  let p := c.plane c.active
  let ok := mmaAllowed (fmtA fmt) p.bfmt (fmtScale fmt) (fmtC fmt) && p.scale = fmtScale fmt && !(tr == 1 && fmtA fmt = E2M1XC)
  s.issue i.enc (i.wellFormed && ok) i.site i.touch fun f t =>
    let o := { newOp .mma with plane := c.active, t := tr == 1, bt := p.t, ow := ow == 1, e1 := e == 1 }
    s.tileOp f t b n k m (operandLen (fmtA fmt) (fmtScale fmt) 32) o fun o =>
      let bound := BitVec.ofNat 32 (fmt.toNat - fmtB fmt * 16 + p.bfmt * 16)
      s.matrix f t h { o with fmt := bound } fun c => c.computeStart s.chc o.bank true o.plane

/-! ## Events -/

/-- Unit `c` of an operation moves in chorus mode (R272): a bank conflict keeps it from its effect (R126). -/
def State.moveUnit (s : State) (o : MatOp) : State :=
  match s.clashNow o.id with
  | some k => s.bankFault k
  | none =>
    let c := s.chc - o.start - (if o.writes then 8 else 0)
    let ds := o.unit c
    if o.reads then
      s.updOp o.core o.id fun o => { o with moved := o.moved + 1, src := o.src ++ ds.map fun d => (d, s.slices.get emptyByte (o.key d)) }
    else
      let p : List (Nat × Byte) × Word := if o.moved = 0 then s.matOut o else (o.out, 0)
      let out := p.1
      let s := s.handleFlags o p.2
      let now := out.filter fun (x : Nat × Byte) => decide (ds.headD 0 ≤ x.1) && decide (x.1 ≤ ds.getLastD 0)
      let s := { s with slices := now.foldl (fun m (x : Nat × Byte) => m.put emptyByte (o.key x.1) x.2) s.slices }
      (s.updOp o.core o.id fun o => { o with moved := o.moved + 1, out := out }).wakeAll

/-- LDSW_LOAD_START (R266): the plane has stopped draining, and the deferred load fills it. -/
def execLdswLoadStart (core op : Nat) (s : State) : Host.Outcome State Fault Refusal :=
  match (s.core core).ops.find? fun o => o.id == op && o.kind == .ldsw && !o.applied && decide (o.start ≤ s.chc) with
  | none => .fault .noOccasion
  | some o => .next ((s.loadPlane o).updOp core op fun o => { o with applied := true, src := [] })

/-- MATRIX_OP_COMPLETE (R272): at the busy end the tile takes its effect in chorus mode, and at the completion count an LDSW fills its
plane and the handle becomes complete. -/
def execMatrixOpComplete (core op : Nat) (s : State) : Host.Outcome State Fault Refusal :=
  match (s.core core).ops.find? fun o => o.id == op && decide (o.busy ≤ s.chc) with
  | none => .fault .noOccasion
  | some o =>
    let s := if o.applied || o.kind == .ldsw then s
      else (s.applyTile o true).updOp core op fun o => { o with applied := true, src := [] }
    if s.chc < o.comp then .next (s.schedule o.comp 3 0 (.matrix core op))
    else
      let s := if o.kind == .ldsw && !o.applied then (s.loadPlane o).updOp core op fun o => { o with applied := true, src := [] } else s
      match o.handle with
      | none => .next s
      | some h => .next (s.updHandle core h fun x => if x.state = 0 then { x with state := 1 } else x)

end Sys2Proof.Machine
end

