-- ==== Sys2Proof/Machine/Traps.lean ====
section
/-! DEFINITION. Meanings of the trap instructions, of the undefined major and of the window lapses (14_traps.md R243 to R249; 09_encoding.md
R142; 03_execution.md R72; 17_isa_engines.md R297). -/

namespace Sys2Proof.Machine

/-- The encoding of a 32-bit word; `sig` tells whether it counts to the signature (R247, R387). -/
def wordEnc (w : Nat) (sig : Bool) : Enc := ⟨leBytes 4 w, if sig then leBytes 4 w else []⟩

/-- TRAP (R244): retires, then raises code 0x80 + imm7. -/
def execTrap (c : BitVec 7) (s : State) :=
  s.issue (wordEnc (0xF9 + c.toNat * 2 ^ 18) true) true .plain [] fun _ _ => .trap s { code := 0x80 + c.toNat }

/-- RETURNING FROM AN EXCEPTION (R245): what the wave becomes and where control goes, given `len`, the length of the instruction at %epc. The saved
branch stands where it stood when its delay slot faulted, whatever the handler writes to %epc (R181). -/
def Wave.leaveHandler (w : Wave) (len : Nat) : Wave × Ctl :=
  let spl := w.fault.getLsbD 14; let ret := w.fault.getLsbD 12; let dly := w.fault.getLsbD 11
  let back := match spl, w.psplit with
    | true, some b => b
    | _, b => ((b.map (·.1)).getD (w.epc - 4), After.goto w.etgt)
  let c := if dly then (if ret then Ctl.apply back.1 back.2 else Ctl.to w.epc (some back))
    else Ctl.to (if ret then w.epc + BitVec.ofNat 64 len else w.epc) none
  ({ w with fault := w.fault &&& ~~~ (0x8000 : Dword), psplit := none }, c)

/-- ERET (R245). -/
def execEret (s : State) :=
  s.issueIP .eret (fun _ _ => !s.wave.hnd) fun _ t =>
    let r := s.wave.leaveHandler (s.lenAt t s.wave.core s.wave.epc)
    .done { s with wave := r.1 } r.2

/-- BRK (R246, R249): a debugger holds the desk's debug session, whichever tree of the desk it has opened. -/
def execBrk (s : State) :=
  s.issueI .brk fun _ t =>
    let held := match s.desk? t.desk with | some d => d.held.isSome | none => false
    .done (if held && !t.cmode then s.updTree t.id fun t => { t with debug := true } else s) .seq

/-- SIGCK (R247): adds nothing to the signature. -/
def execSigck (a : BitVec 5) (s : State) :=
  s.issue (wordEnc (0x10000FB + a.toNat * 2 ^ 13) false) true .plain [.s a.toNat] fun f _ =>
    if f.sig = lo32 (s.wave.rs a.toNat) then .done (s.upd fun w => w.setFrag { f with sig := 0 }) .seq
    else .fault { code := SIGMIS }

/-- The undefined major (R142): ILLOP. -/
def execUdf (s : State) := s.issue ⟨[], []⟩ false .plain [] fun _ _ => .hold s

/-- RESULT_LAND (R62): every result of the wave whose issue slots have passed and whose value is known lands. -/
def execResultLand (s : State) : Host.Outcome State Fault Refusal :=
  if s.allWaves.any fun w => w.flight.any fun f => f.left == 0 && f.acc.isNone then .next (s.mapWaves Wave.land)
  else .fault .noOccasion

/-- Runs an event of a wave that is not the issuing one as if it were. -/
def State.asWave (s : State) (wid : Nat) (k : State → State) : State :=
  if s.wave.wid = wid && s.wave.status != .idle then k s
  else match s.waves.find? fun w => w.wid == wid && w.status != .idle with
    | none => s
    | some w =>
      let rest := s.waves.filter fun v => !(v.wid == wid && v.status != .idle)
      let s' := k { s with wave := w, waves := if s.wave.status == .idle then rest else rest ++ [s.wave] }
      s'

/-- DISPRE_WINDOW_LAPSE (R72). -/
def execDispreWindowLapse (wid : Nat) (s : State) : Host.Outcome State Fault Refusal :=
  match s.wave? wid with
  | some w => if (match w.dispre with | some n => decide (2 ^ 20 < n) | none => false) then .next (s.asWave wid State.lapseDispre) else .fault .noOccasion
  | none => .fault .noOccasion

/-- OPERATOR_WINDOW_LAPSE (R297). -/
def execOperatorWindowLapse (wid : Nat) (s : State) : Host.Outcome State Fault Refusal :=
  match s.wave? wid with
  | some w => if (match w.op with | some o => decide (2 ^ 20 < o.retired) | none => false) then .next (s.asWave wid State.lapseOperator) else .fault .noOccasion
  | none => .fault .noOccasion

end Sys2Proof.Machine
end

