-- ==== Sys2Proof/Machine/Effects.lean ====
section
/-! DEFINITION. Accesses that land or take effect: far values, and the effects of C-mode accesses at their counts (07_memory.md R111, R119, R122,
R125, R126; 13_isa_memory.md R213, R214, R216, R228). -/

namespace Sys2Proof.Machine

/-- FAR_VALUE_LAND (R213). -/
def execFarValueLand (acc : Nat) (s : State) : Host.Outcome State Fault Refusal :=
  if s.allWaves.any fun w => w.far.any fun x => x.id == acc && (match x.due with | some d => decide (d ≤ s.chc) | none => false) then
    .next (s.landFar acc)
  else .fault .noOccasion

/-- An arrival takes effect (R122, R228): the wave that waits for it takes the phase in force, or resumes in quantum `q` when the arrival
completed the phase. Answers PHASE when PEND is zero. -/
def State.arriveNow (s : State) (wid key : Nat) (bytes : Option Dword) (q : Nat) : Except Nat State :=
  match s.arrival key bytes with
  | .error p => .error p
  | .ok (p, bs, under) =>
    let e : Entry := match s.wave? wid with | some w => { tree := w.tree, wave := w.num, ord := w.grid } | none => {}
    let s := (s.slicePutAll key bs).underflow key e bs under
    if bytes.isSome then .ok s
    else .ok (s.updWave wid fun w =>
      if w.wait != .arrival then w
      else if phaseDone (field bs 0 8 % 4096) p then w.resume q s.chc
      else { w with wait := .phase key p })

/-- Stores the bytes of an access that has reached memory (R216): where an uncorrectable error stands nothing is stored, and the error waits for the
wave as a failed access of its own, `far`. -/
def State.storeFar (s : State) (wid core n far : Nat) (bs : List (Nat × Byte)) (pc : Dword) : State :=
  let good := bs.filter fun x => !s.badVa core n x.1 true
  let s := match bs.find? fun x => s.badVa core n x.1 true with
    | some x => s.farFails wid n far x.1 true pc
    | none => s
  s.putBytes core n good

/-- A far arrival or BINIT that has reached an object in error (R216): the error of one that does not wait is that of a store; BARV, which waits on
its arrival, raises it (`raise`). -/
def State.barrierFails (s : State) (wid n key far : Nat) (waits : Bool) (pc : Dword) (raise : State → Flt → State) : State :=
  let va := keyAddr key
  if waits then raise (s.waveError wid n va true pc) { code := MEMERR, addr := BitVec.ofNat 64 va, pc := some pc }
  else s.farFails wid n far va true pc

/-- An atomic that has reached memory (R125, R216): its old values join the far access; a lane in error fails it. -/
def State.atomicFar (s : State) (wid core n aop : Nat) (ls : List (Nat × Nat × Dword × Dword)) (form : LoadAs) (acc : Nat) (pc : Dword) : State :=
  let s := match s.laneBad core n (ls.map fun x => (x.1, x.2.1)) true with
    | some va => s.farFails wid n acc va true pc
    | none => s
  let (s, olds) := s.atomicLanes core n aop ls
  s.updFar acc fun x => { x with res := x.res ++ (form.form olds).toList }

/-- The effect of a C-mode access on memory (R119, R125, R216). An arrival that meets PEND zero raises HANDLE at this count, at the instruction
the wave then stands at: R228 says where for L-mode only (assumption log 49). -/
def State.applyAccess (s : State) (a : Access) (n : Nat) : State :=
  match a.eff with
  | some (.store bs) => (s.storeFar a.wid a.core n a.id bs a.pc).wakeAll
  | some (.atomic aop ls form acc) =>
    let keys := s.keysOf a.core n (ls.flatMap fun x => (List.range (atomicSize aop)).map (x.2.1 + ·))
    let got := fun (s : State) => (s.allWaves.flatMap fun w => w.far.filter (·.id == acc)).flatMap (·.res)
    let old := keys.map fun k => (k, s.slices.get emptyByte k)
    let had := got s
    let s := s.atomicFar a.wid a.core n aop ls form acc a.pc
    let u : Undo := { acc := a.id, last := s.chc + 2, bytes := old, far := acc, res := (got s).filter fun r => !had.contains r }
    ({ s with undo := u :: s.undo.filter fun u => decide (s.chc ≤ u.last) } : State).wakeAll
  | some (.arrive key bytes) =>
    if s.badKey key then s.barrierFails a.wid n key a.id bytes.isNone a.pc fun s f => s.asWave a.wid fun s => s.raise f
    else match s.arriveNow a.wid key bytes 0 with
    | .ok s => s.wakeAll
    | .error p => s.asWave a.wid fun s => s.raise { code := HANDLE, fdat := BitVec.ofNat 64 p }
  | some (.binit key w0 w1) =>
    if s.badKey key then s.barrierFails a.wid n key a.id false a.pc fun s _ => s else (s.slicePutAll key (leBytes 8 w0.toNat ++ leBytes 8 w1.toNat)).wakeAll
  | _ => s

/-- The values of a C-mode load at its effect (R119), into the far access, the result in flight, or the stalled instruction that owns it. A far
one that meets an uncorrectable error has failed (R216). -/
def State.takeValues (s : State) (a : Access) (n : Nat) : State :=
  let vals := a.load.map fun (l, va) => (l, readNat (s.nowByte a.core n) va a.form.size)
  match a.form.form vals with
  | none => match a.form with
    | .latch => s.updWave a.wid fun w => { w with latch := w.latch ++ vals }
    | _ => s
  | some r =>
    if a.far then
      let s := match s.laneBad a.core n a.load with
        | some va => s.farFails a.wid n a.owner va false a.pc
        | none => s
      s.updFar a.owner fun x => { x with res := x.res ++ [r] }
    else s.updWave a.wid fun w =>
      ({ w with flight := w.flight.map fun f => if f.acc = some a.owner then { f with res := r, acc := none } else f } : Wave).land

/-- FAR_ACCESS_EFFECT (R119): a bank conflict keeps both accesses from their effect (R126). -/
def execFarAccessEffect (acc : Nat) (s : State) : Host.Outcome State Fault Refusal :=
  match s.accesses.find? fun a => a.id == acc && decide (a.at_ ≤ s.chc) with
  | none => .fault .noOccasion
  | some a =>
    let s := { s with accesses := s.accesses.filter (·.id != acc) }
    match s.clashNow acc with
    | some k => .next (s.bankFault k)
    | none =>
      let n := s.deskN (a.core / 512)
      .next (if a.eff.isSome then s.applyAccess a n else s.takeValues a n)

end Sys2Proof.Machine
end

