-- ==== Sys2Proof/Machine/Links.lean ====
section
/-! DEFINITION. The Eft links of this device: flit formats, slots, egress of timed and untimed runs and of tokens (20_chorus.md R335 to R342). -/

namespace Sys2Proof.Machine

/-- Number of this device in its domain; 0 outside one. -/
def State.devNo (s : State) : Nat := match s.domain with | some d => d.dev | none => 0

/-- The port on which runs to a device leave (R416): a route entry holds the port plus one, 0 for none. -/
def State.route (s : State) (dev : Nat) : Option Nat :=
  match s.domain with
  | some d => let r := d.routes.get 0 dev; if r = 0 then none else some (r - 1)
  | none => none

/-- A control flit (Table 20-2). -/
def ctlFlit (kind rlen sdev ddev att tag dest flow count epoch task : Nat) : List Byte :=
  leBytes 1 kind ++ leBytes 1 rlen ++ leBytes 2 sdev ++ leBytes 2 ddev ++ leBytes 1 att ++ leBytes 1 tag ++ leBytes 8 dest ++ leBytes 8 flow ++
    leBytes 8 count ++ leBytes 4 epoch ++ leBytes 4 task ++ leBytes 24 0

/-- Replaces a field of a flit. -/
def putField (b : List Byte) (at_ n v : Nat) : List Byte := b.take at_ ++ leBytes n v ++ b.drop (at_ + n)

/-- The IDLE flit. -/
def idleFlit : List Byte := ctlFlit 0 0 0 0 0 0 0 0 0 0 0

/-- A payload cut into data flits of 64 bytes, the last one filled with zeros. -/
def dataFlits : Nat → List Byte → List (List Byte)
  | 0, _ => []
  | n + 1, bs => (bs.take 64 ++ List.replicate (64 - bs.length) 0) :: dataFlits n (bs.drop 64)

/-- Data flits of a payload. -/
def flitCount (bs : List Byte) : Nat := (bs.length + 63) / 64

/-- Whether a count starts a flit slot (R335). -/
def slotStarts (f c : Nat) : Bool := decide ((125 * ((c + 144 * (f / 144 + 1) - f) % 144)) % 144 < 125)

/-- First slot at or after a count. -/
def nextSlot (f : Nat) : Nat → Nat → Nat
  | 0, c => c
  | n + 1, c => if slotStarts f c then c else nextSlot f n (c + 1)

/-- Check word of a flit (R335): the CRC-32C with the constant of its class. -/
def checkWord (control : Bool) (bytes : List Byte) : Word := crcExtend 0 bytes ^^^ (if control then 0xFFFFFFFF else 0)

/-- Hands a flit to a port in the slot that starts at this count. -/
def State.emit (s : State) (port : Nat) (control : Bool) (bytes : List Byte) : State :=
  { s with wire := s.wire ++ [{ port := port, at_ := s.chc, control := control, bytes := bytes, check := checkWord control bytes }] }

/-! ## Flows (R340, R341) -/

/-- Key of a flow: the channel as a header names it, engine and channel without the die (Table 20-2), and the other device. Channels of one name
share the flow's numbers (assumption log 14). -/
def flowKey (chan dev : Nat) : Nat := chan % 64 * 512 + dev

/-- The header of an untimed run (Tables 20-2, 20-3); COUNT holds the bytes of the payload (assumption log 14). -/
def RunOut.header (r : RunOut) (sdev : Nat) : List Byte :=
  ctlFlit 2 (flitCount r.payload) sdev r.dev r.att 0 (r.op * 2 ^ 48 + r.dest % 2 ^ 47) (r.exp * 2 ^ 48 + r.chan % 64 * 2 ^ 32 + r.seq % 2 ^ 32)
    r.payload.length 0 0

/-- Operations whose old values a destination caches (R341): COLL combines and ADD.I64. -/
def atomicRun (op : Nat) : Bool := op = 1 || op = 2 || op = 3 || op = 0x10

/-- Whether the operation of a run is one of Table 20-3. -/
def runCode (op : Nat) : Bool := op ≤ 3 || op = 0x10 || op = 0x11 || op = 0xF1 || op = 0xF2

/-- A link. -/
def State.link (s : State) (port : Nat) : Link := s.links.get {} port

/-- Every run of a link, the one that holds it first. -/
def Link.all (l : Link) : List LinkRun := l.cur.toList ++ l.runs

/-- The runs of a flow that are not acknowledged: those kept and those that still wait for their numbers. -/
def State.unacked (s : State) (chan dev : Nat) : List RunOut :=
  (s.flowsOut.get ({} : FlowOut) (flowKey chan dev)).kept ++ (s.links.flatMap fun x => x.2.runs.filterMap fun (r : LinkRun) =>
    match r.own with | some o => if flowKey o.chan o.dev = flowKey chan dev then some o else none | none => none)

/-- Whether a flow may take `n` more runs (R340, R341). -/
def State.flowRoom (s : State) (chan dev op n : Nat) : Bool :=
  let u := s.unacked chan dev
  decide (u.length + n ≤ 1024) && (!atomicRun op || decide ((u.filter fun r => atomicRun r.op).length + n ≤ 64))

/-! ## The use of a link (R337) -/

/-- Order of the runs that wait for a link: ready count, source device, source core, issue order. -/
def LinkRun.before (a b : LinkRun) : Bool :=
  decide (a.ready < b.ready) || (a.ready = b.ready && (decide (a.dev < b.dev) || (a.dev = b.dev && (decide (a.core < b.core) ||
    (a.core = b.core && decide (a.id ≤ b.id))))))

/-- The run that starts next of those ready at a count: timed ones precede untimed ones. -/
def Link.pick (l : Link) (c : Nat) (timed : Bool) : Option LinkRun :=
  ((l.runs.filter fun r => r.timed == timed && decide (r.ready ≤ c)).sortBy LinkRun.before).head?

/-- Sets the event of the next slot that a link has a use for, if any. -/
def State.armLink (s : State) (port : Nat) : State :=
  let l := s.link port
  if l.cur.isNone && l.tokens.isEmpty && l.runs.isEmpty then s
  else
    let ready := if l.cur.isSome || !l.tokens.isEmpty then 0 else (l.runs.map (·.ready)).foldl min ((l.runs.map (·.ready)).headD 0)
    s.schedule (nextSlot s.frame 144 (max ready (max s.chc (s.linkFree.get 0 port)))) 3 port (.slot port)

/-- Updates a link. -/
def State.updLink (s : State) (port : Nat) (f : Link → Link) : State := { s with links := s.links.put {} port (f (s.link port)) }

/-- A run waits for a link. -/
def State.addRun (s : State) (port : Nat) (r : LinkRun) : State :=
  (s.updLink port fun l => { l with runs := l.runs ++ [r] }).armLink port

/-- Hands over the next data flit of a run, ready at a count. -/
def State.addFlit (s : State) (port id ready : Nat) (b : Option (List Byte)) : State :=
  let f := fun r : LinkRun => if r.id = id then { r with flits := r.flits ++ [(ready, b)] } else r
  s.updLink port fun l => { l with runs := l.runs.map f, cur := l.cur.map f }

/-- Count at which a data flit takes effect at the end of a path (R339): `n` more hops after the next device, the header in slot `h`, the flit in
slot `t`, `fin` counts after its arrival. The other links are taken as free, and a stack's calendar slot as usable (assumption log 14). -/
def landing (f fin : Nat) : Nat → Nat → Nat → Nat
  | 0, _, t => t + 1152 + fin
  | n + 1, h, t =>
    let h' := nextSlot f 144 (h + 1200)
    landing f fin n h' (nextSlot f 144 (max (h' + 1) (t + 1200)))

/-- Length of the path to a device (R329, R416). -/
def State.hopsTo (s : State) (dev : Nat) : Nat := match s.domain with | some d => Config.pathLen d.paths dev | none => 0

/-- Length of the path from a device to another one of the domain (R329, R416; assumption log 14). -/
def State.hopsBetween (s : State) (a b : Nat) : Nat :=
  if a = s.devNo then s.hopsTo b else match s.domain with | some d => Config.pathLen d.paths (512 + a * 512 + b) | none => 0

/-- The header of a run goes out: a new run of a flow takes its number and is kept until acknowledged (R340). -/
def State.sendHead (s : State) (port : Nat) (x : LinkRun) : State :=
  let (x, s) : LinkRun × State := match x.own with
    | none => (x, s)
    | some r =>
      let k := flowKey r.chan r.dev
      let f : FlowOut := s.flowsOut.get {} k
      let r := { r with seq := f.next }
      let due := if f.kept.isEmpty then s.chc + 16384 else f.deadline
      let s := { s with flowsOut := s.flowsOut.put {} k { f with next := (f.next + 1) % 2 ^ 32, kept := f.kept ++ [r], deadline := due } }
      ({ x with own := some r, head := r.header s.devNo }, s.schedule due 0 0 (.resend r.chan r.dev))
  let s := s.emit port true x.head
  s.updLink port fun l => { l with runs := l.runs.filter (·.id != x.id), cur := if x.left = 0 then none else some { x with slot := s.chc } }

/-- The next data flit of the run that holds the link goes out; a slot held for one that is not ready carries IDLE, and so does that of a flit
that was dropped on the way (R337, R338). -/
def State.sendData (s : State) (port : Nat) (x : LinkRun) : State :=
  match x.flits with
  | (ready, b) :: rest =>
    if s.chc < ready then (if x.timed then s.emit port true idleFlit else s)
    else
      let s := match b with | some b => s.emit port false b | none => s.emit port true idleFlit
      let s := match x.pair with
        | some (chan, n, va) => s.schedule (landing s.frame (if 0x7E0000000000 ≤ va then 64 else 112) (s.hopsTo x.pdev - 1) x.slot s.chc) 1 0 (.landed chan n)
        | none => s
      let x := { x with flits := rest, left := x.left - 1, sent := x.sent + 1 }
      s.updLink port fun l => { l with cur := if x.left = 0 then none else some x }
  | [] => if x.timed then s.emit port true idleFlit else s

/-- An untimed run gives way (R337): what it has not sent waits under a new header. A run of this device's flows is cut at what it has sent and the
rest takes the next number; of one sent again that has been acknowledged meanwhile nothing is left to send. One on its way through goes on under its
own number, which is its source's to give (R340), and so does an answer, whose number is that of the run answered (R342; assumption log 14). -/
def State.giveWay (s : State) (port : Nat) (x : LinkRun) : State :=
  let n := 64 * x.sent
  match if x.own.isSome then x.own else x.resent with
  | some r =>
    let k := flowKey r.chan r.dev
    let f : FlowOut := s.flowsOut.get {} k
    if !(f.kept.any fun o => o.seq == r.seq) then s.updLink port fun l => { l with cur := none }
    else
      let kept := f.kept.map fun o => if o.seq = r.seq then { o with payload := o.payload.take n } else o
      let rest := { r with dest := r.dest + n, payload := r.payload.drop n }
      let s := { s with flowsOut := s.flowsOut.put {} k { f with kept := kept } }
      s.updLink port fun l => { l with cur := none, runs := { x with own := some rest, resent := none, sent := 0 } :: l.runs }
  | none =>
    let head := putField (putField (putField x.head 1 1 x.left) 8 8 (field x.head 8 8 + n)) 24 8 (field x.head 24 8 - n)
    s.updLink port fun l => { l with cur := none, runs := { x with head := head, sent := 0 } :: l.runs }

/-- A slot of a link (R335, R337): a timed run that holds it sends on; else a token, a timed header, the untimed run that holds it, an untimed
header. A token takes no slot held by a timed run (assumption log 14). -/
def State.useSlot (s : State) (port : Nat) : State :=
  let l := s.link port
  let yield := fun s : State => match l.cur with | some x => s.giveWay port x | none => s
  match l.cur with
  | some x =>
    if x.timed then s.sendData port x
    else match l.tokens with
      | t :: ts => (((yield s).emit port true t).updLink port fun l => { l with tokens := ts })
      | [] => match l.pick s.chc true with
        | some r => (yield s).sendHead port r
        | none => s.sendData port x
  | none => match l.tokens with
    | t :: ts => ((s.emit port true t).updLink port fun l => { l with tokens := ts })
    | [] => match l.pick s.chc true with
      | some r => s.sendHead port r
      | none => match l.pick s.chc false with
        | some r => s.sendHead port r
        | none => s

/-- The event of a link's slot: a slot is used once, and a count that starts none in the frame as it stands is passed over. -/
def State.linkSlot (s : State) (port : Nat) : State :=
  if s.chc < s.linkFree.get 0 port then s
  else if !slotStarts s.frame s.chc then s.armLink port
  else
    let t := s.useSlot port
    ({ t with linkFree := t.linkFree.put 0 port (s.chc + 1) } : State).armLink port

/-- Sends a control flit on every traffic port, three times in successive slots (R344). -/
def State.flood (s : State) (flit : List Byte) : State :=
  let ports := match s.domain with | some d => d.ports | none => []
  ports.foldl (fun s p => (s.updLink p fun l => { l with tokens := l.tokens ++ [flit, flit, flit] }).armLink p) s

/-- Takes every run that `p` holds of from every link. -/
def State.dropRuns (s : State) (p : LinkRun → Bool) : State :=
  { s with links := s.links.map fun (x : Nat × Link) => (x.1, { x.2 with runs := x.2.runs.filter fun r => !p r, cur := x.2.cur.filter fun r => !p r }) }

/-! ## Untimed runs of this device (R340) -/

/-- Source core of an engine's run in the order of R337. -/
def engineCore (chan : Nat) : Nat := 1024 + chan % 64 / 4

/-- Puts an untimed run on its link as it stands: one sent again, an answer, or an acknowledgement; `flits` of it are data. -/
def State.sendRaw (s : State) (dev core : Nat) (head : List Byte) (flits : List (List Byte)) (resent : Option RunOut) : State :=
  match s.route dev with
  | none => s
  | some p =>
    let id := s.nextAcc
    ({ s with nextAcc := id + 1 } : State).addRun p
      { id := id, timed := false, ready := s.chc, dev := s.devNo, core := core, pdev := dev, head := head, flits := flits.map fun b => (s.chc, some b)
        left := flits.length, resent := resent }

/-- Sends a run again under its own number (R340). -/
def State.emitRun (s : State) (r : RunOut) : State :=
  s.sendRaw r.dev (engineCore r.chan) (r.header s.devNo) (dataFlits (flitCount r.payload) r.payload) (some r)

/-- Sends an untimed run of a channel's flow: it waits for its link, is numbered as its header goes out, and kept until acknowledged. -/
def State.sendRun (s : State) (r : RunOut) : State :=
  match s.route r.dev with
  | none => s
  | some p =>
    let id := s.nextAcc
    ({ s with nextAcc := id + 1 } : State).addRun p
      { id := id, timed := false, ready := s.chc, dev := s.devNo, core := engineCore r.chan, pdev := r.dev, own := some r
        flits := (dataFlits (flitCount r.payload) r.payload).map fun b => (s.chc, some b), left := flitCount r.payload }

end Sys2Proof.Machine
end

