-- ==== Sys2Proof/Machine/Packets.lean ====
section
/-! DEFINITION. Engine packets and stencil tables: their fields, and the packets an engine refuses (19_transfer.md R310 to R313, R320 to R322,
R326, R419). -/

namespace Sys2Proof.Machine

/-! ## Fields (Tables 19-1, 19-2, 19-6, 19-7) -/

/-- A field of a packet: byte offset, bytes, low bit, bits. -/
def pf (p : List Byte) (at_ n lo w : Nat) : Nat := field p at_ n / 2 ^ lo % 2 ^ w
/-- TYPE. -/
def pType (p : List Byte) : Nat := pf p 0 1 0 4
/-- PH. -/
def pPhase (p : List Byte) : Nat := pf p 0 1 7 1
/-- XDEV. -/
def pXdev (p : List Byte) : Bool := pf p 1 1 3 1 = 1
/-- GATH. -/
def pGath (p : List Byte) : Bool := pf p 1 1 2 1 = 1
/-- BARV. -/
def pBarv (p : List Byte) : Bool := pf p 1 1 1 1 = 1
/-- DHV. -/
def pDhv (p : List Byte) : Bool := pf p 1 1 0 1 = 1
/-- DH. -/
def pDh (p : List Byte) : Nat := pf p 2 1 0 6
/-- ATT. -/
def pAtt (p : List Byte) : Nat := pf p 3 1 0 8
/-- START. -/
def pStart (p : List Byte) : Nat := field p 4 4
/-- BCORE. -/
def pBcore (p : List Byte) : Nat := pf p 8 4 22 10
/-- BOFF. -/
def pBoff (p : List Byte) : Nat := pf p 8 4 0 22
/-- Bytes of an element of COPY and FILL. -/
def pEsz (p : List Byte) : Nat := 2 ^ pf p 12 1 0 3
/-- CLIP0. -/
def pClip0 (p : List Byte) : Nat := pf p 13 3 0 12
/-- CLIP1. -/
def pClip1 (p : List Byte) : Nat := pf p 13 3 12 12
/-- SRC. -/
def pSrc (p : List Byte) : Nat := pf p 16 8 0 47
/-- DST. -/
def pDst (p : List Byte) : Nat := pf p 24 8 0 47
/-- PDEV. -/
def pPdev (p : List Byte) : Nat := pf p 24 8 47 9
/-- Element count of dimension `d`. -/
def pN (p : List Byte) (d : Nat) : Nat := field p (32 + 2 * d) 2
/-- Source stride of dimension `d`, 1 to 3. -/
def pSs (p : List Byte) (d : Nat) : Int := (BitVec.ofNat 32 (field p (36 + 4 * d) 4)).toInt
/-- Destination stride of dimension `d`, 1 to 3. -/
def pDs (p : List Byte) (d : Nat) : Nat := field p (48 + 4 * d) 4
/-- GTAB. -/
def pGtab (p : List Byte) : Nat := pf p 44 8 0 47
/-- Elements of dimension 0 that CLIP0 keeps. -/
def pKeep0 (p : List Byte) : Nat := if pClip0 p = 0 then pN p 0 else min (pClip0 p) (pN p 0)
/-- Elements of dimension 1 that CLIP1 keeps. -/
def pKeep1 (p : List Byte) : Nat := if pClip1 p = 0 then pN p 1 else min (pClip1 p) (pN p 1)
/-- TBL of LEVEL. -/
def pTbl (p : List Byte) : Nat := pf p 12 1 0 6
/-- SFMT of LEVEL. -/
def pSfmt (p : List Byte) : Nat := pf p 13 1 0 4
/-- DFMT of LEVEL. -/
def pDfmt (p : List Byte) : Nat := pf p 13 1 4 4
/-- RND of LEVEL. -/
def pRnd (p : List Byte) : Nat := pf p 14 1 0 3
/-- Destination extent of a dimension of LEVEL. -/
def pDext (p : List Byte) (d : Nat) : Nat := field p (32 + 2 * d) 2
/-- Source extent of a dimension of LEVEL. -/
def pSext (p : List Byte) (d : Nat) : Nat := field p (38 + 2 * d) 2
/-- SRP, SPP, DRP and DPP of LEVEL. -/
def pPitch (p : List Byte) (i : Nat) : Nat := field p (44 + 4 * i) 4
/-- SEED of LEVEL. -/
def pSeed (p : List Byte) : Word := BitVec.ofNat 32 (field p 60 4)
/-- COP of COLL. -/
def pCop (p : List Byte) : Nat := pf p 12 1 0 4
/-- GRP of COLL. -/
def pGrp (p : List Byte) : Nat := byteAt p 13
/-- LEN of COLL. -/
def pLen (p : List Byte) : Nat := field p 32 4

/-! ## Stencil tables (Table 19-5) -/

/-- Extent of a dimension. -/
def stExt (t : List Byte) (d : Nat) : Nat := byteAt t (1 + d)
/-- Weight `o`. -/
def stW (t : List Byte) (o : Nat) : Int := (BitVec.ofNat 16 (field t (8 + 2 * o) 2)).toInt

/-- Whether a stencil table keeps Table 19-5 (R320). -/
def stencilOk (t : List Byte) : Bool :=
  let dim := byteAt t 0
  let ext := [stExt t 0, stExt t 1, stExt t 2]
  let used := stExt t 0 * stExt t 1 * stExt t 2
  t.length = 64 && 1 ≤ dim && dim ≤ 3 && ext.all (fun e => 1 ≤ e && e ≤ 3) && (ext.drop dim).all (· == 1) && byteAt t 4 ≤ 22 &&
    byteAt t 5 ≤ 2 && byteAt t 6 ≤ 2 && byteAt t 7 = 0 && (List.range 27).all (fun o => decide (o < used) || decide (stW t o = 0)) &&
    field t 62 2 = 0 && (byteAt t 5 ≠ 2 || used = 1)

/-! ## Refusal (R313) -/

/-- An address in the local slice alias as the flat address of the core that issued the packet (R419). -/
def flatAddr (core : Option Nat) (a : Nat) : Nat :=
  if a < 0x400000 then 0x7E0000000000 + (match core with | some c => c % 512 | none => 0) * 0x400000 + a else a

/-- Whether an address field breaks R419: `n` the desk's logical cores, `alias` whether the local alias is allowed. The reserved ranges are those of
Table 1-4; an address past a core's slice in the flat window is none of them. -/
def addrBroken (n : Nat) (alias_ : Bool) (a : Nat) : Bool :=
  if a < 0x400000 then !alias_ || decide (0x280000 ≤ a)
  else if a < 0x7E0000000000 then false
  else if a < 0x7E0058000000 then
    decide (n ≤ (a - 0x7E0000000000) / 0x400000)
  else true

/-- Whether an address lies in a slice. -/
def inSlice (a : Nat) : Bool := a < 0x400000 || 0x7E0000000000 ≤ a

/-- Lowest and highest byte of the strided range of a COPY or FILL: base, bytes of a row, steps and counts of the other dimensions. -/
def spanOf (base : Int) (row : Nat) (dims : List (Int × Nat)) : Int × Int :=
  dims.foldl (fun r d =>
    let m := d.1 * ((d.2 : Int) - 1)
    if m < 0 then (r.1 + m, r.2) else (r.1, r.2 + m)) (base, base + row - 1)

/-- Whether two ranges share a byte. -/
def overlap (a b : Int × Int) : Bool := a.1 ≤ b.2 && b.1 ≤ a.2

/-- Whether destination strides keep the bounds of R312. -/
def stridesOk (p : List Byte) : Bool :=
  let e := pEsz p
  let r0 := pN p 0 * e
  let r1 := if pN p 1 > 1 then (pN p 1 - 1) * pDs p 1 + r0 else r0
  let r2 := if pN p 2 > 1 then (pN p 2 - 1) * pDs p 2 + r1 else r1
  (pN p 1 ≤ 1 || r0 ≤ pDs p 1) && (pN p 2 ≤ 1 || r1 ≤ pDs p 2) && (pN p 3 ≤ 1 || r2 ≤ pDs p 3)

/-- Source and destination ranges of a packet by lowest and highest byte (R313, R118); of a gathered COPY the source is the table. The
elements that clipping leaves out are of neither range, which is this model's choice (assumption log 67). -/
def packetRanges (core : Option Nat) (p : List Byte) : Option (Int × Int) × (Int × Int) :=
  let src : Int := flatAddr core (pSrc p)
  let dst : Int := flatAddr core (pDst p)
  match pType p with
  | 1 =>
    let es := elemBytes (pSfmt p); let ed := elemBytes (pDfmt p)
    (some (spanOf src (pSext p 0 * es) [((pPitch p 0 : Nat), pSext p 1), ((pPitch p 1 : Nat), pSext p 2)]),
      spanOf dst (pDext p 0 * ed) [((pPitch p 2 : Nat), pDext p 1), ((pPitch p 3 : Nat), pDext p 2)])
  | 2 => (some (src, src + pLen p - 1), (dst, dst + pLen p - 1))
  | t =>
    let e := pEsz p
    let row := pKeep0 p * e
    let d := spanOf dst row [((pDs p 1 : Nat), pKeep1 p), ((pDs p 2 : Nat), pN p 2), ((pDs p 3 : Nat), pN p 3)]
    if t = 3 then (none, d)
    else if pGath p then let g : Int := flatAddr core (pGtab p); (some (g, g + 4 * pN p 1 - 1), d)
    else (some (spanOf src row [(pSs p 1, pKeep1 p), (pSs p 2, pN p 2), (pSs p 3, pN p 3)]), d)

/-- Of a gathered COPY (R312): its table, the entries it reads, the base and stride of its rows, and the bytes of a row. -/
def gatherOf (core : Option Nat) (p : List Byte) : Option (Nat × Nat × Nat × Int × Nat) :=
  if pType p = 0 && pGath p then some (flatAddr core (pGtab p), pKeep1 p, flatAddr core (pSrc p), pSs p 1, pN p 0 * pEsz p) else none

/-- Whether the body of a COPY or FILL breaks R311 to R313. -/
def copyBroken (p : List Byte) : Bool :=
  let e := pEsz p
  let fill := pType p = 3
  let used := fun d => pN p d > 1
  let code := pf p 12 1 0 3
  pf p 12 1 3 5 ≠ 0 || decide (4 < code) || (fill && code = 4) || pf p 24 8 56 8 ≠ 0 || (List.range 4).any (fun d => pN p d = 0) ||
    (if fill then field p (16 + e) (8 - e) ≠ 0 || field p 40 12 ≠ 0 else pf p 16 8 47 17 ≠ 0) ||
    (pGath p && (pf p 44 8 47 17 ≠ 0 || pN p 2 ≠ 1 || pN p 3 ≠ 1 || pGtab p % 4 ≠ 0 || (pSs p 1) % (e : Int) ≠ 0)) ||
    (!fill && pSrc p % e ≠ 0) || pDst p % e ≠ 0 ||
    [1, 2, 3].any (fun d => used d && (pDs p d % e ≠ 0 || (!fill && !pGath p && (pSs p d) % (e : Int) ≠ 0))) || !stridesOk p

/-- Whether the body of a LEVEL breaks R322, given the tree's tables. -/
def levelBroken (tables : List (List Byte)) (p : List Byte) : Bool :=
  match tables[pTbl p]? with
  | none => true
  | some t =>
    let es := elemBytes (pSfmt p); let ed := elemBytes (pDfmt p)
    let fl := fun c => c = FP32C || c = 1 || c = 2
    let dims := (List.range 3).drop (byteAt t 0)
    pf p 12 1 6 2 ≠ 0 || !(fl (pSfmt p) && fl (pDfmt p) && (pSfmt p = FP32C || pDfmt p = FP32C)) || pf p 14 1 3 5 ≠ 0 || byteAt p 15 ≠ 0 ||
      !(pRnd p = 0 || pRnd p = 4) || pf p 16 8 47 17 ≠ 0 || pf p 24 8 47 17 ≠ 0 ||
      (List.range 3).any (fun d => pDext p d = 0 || pSext p d = 0) || dims.any (fun d => pDext p d ≠ 1 || pSext p d ≠ 1) ||
      pPitch p 0 % es ≠ 0 || pPitch p 1 % es ≠ 0 || pPitch p 2 % ed ≠ 0 || pPitch p 3 % ed ≠ 0 || pSrc p % es ≠ 0 || pDst p % ed ≠ 0 ||
      decide (pPitch p 0 < pSext p 0 * es) || decide (pPitch p 1 < (pSext p 1 - 1) * pPitch p 0 + pSext p 0 * es) ||
      decide (pPitch p 2 < pDext p 0 * ed) || decide (pPitch p 3 < (pDext p 1 - 1) * pPitch p 2 + pDext p 0 * ed)

/-- Whether the body of a COLL breaks R326; its words are 4 bytes wide. -/
def collBroken (p : List Byte) : Bool :=
  pf p 12 1 4 4 ≠ 0 || decide (3 < pCop p) || pf p 16 8 47 17 ≠ 0 || pf p 24 8 56 8 ≠ 0 || pLen p % 32 ≠ 0 || decide (pLen p < 32) ||
    decide (2 ^ 24 < pLen p) || field p 36 28 ≠ 0 || pSrc p % 4 ≠ 0 || pDst p % 4 ≠ 0

/-- Whether a packet's destination is on another device (R314). -/
def State.farPacket (s : State) (p : List Byte) : Bool := pXdev p && pPdev p ≠ s.devNo

/-- Whether an engine refuses a packet (R313, R419): issued by a core or by none, of a desk with `n` logical cores here, with the stencil
tables given; one that names a device needs a route to it (R416), its own device too. A destination and a barrier on another device go by the desk's count there. -/
def State.packetRefused (s : State) (core : Option Nat) (desk n : Nat) (tables : List (List Byte)) (p : List Byte) : Bool :=
  let ty := pType p
  let xd := pXdev p
  let fields := if ty = 3 then [] else if pGath p then [pSrc p, pGtab p] else [pSrc p]
  let far := s.farPacket p
  let m := if far then Config.peerCores desk (pPdev p) else n
  let ranges := packetRanges core p
  pf p 0 1 4 3 ≠ 0 || decide (3 < ty) || pf p 1 1 4 4 ≠ 0 || pf p 2 1 6 2 ≠ 0 || (ty ≠ 2 && pAtt p ≠ 0) || (pGath p && ty ≠ 0) ||
    (xd && (ty = 1 || ty = 3)) || (!xd && ty ≠ 1 && pPdev p ≠ 0) || (xd && (s.route (pPdev p)).isNone) ||
    (pDhv p && !inSlice (pDst p)) || (pBarv p && (decide (m ≤ pBcore p) || pBoff p % 16 ≠ 0 || decide (0x27C000 < pBoff p + 16))) ||
    (fields.any fun a => addrBroken n core.isSome a) || addrBroken m core.isSome (pDst p) || (xd && pDst p < 0x400000) ||
    (match ty with | 1 => levelBroken tables p | 2 => collBroken p | _ => copyBroken p) ||
    (!far && match ranges.1 with | some r => overlap r ranges.2 | none => false)

end Sys2Proof.Machine
end

