-- ==== Sys2Proof/Machine/Engines.lean ====
section
/-! DEFINITION. The copy engines: operations, delivery of sectors, level transfer, collective steps, and the events of a channel
(19_transfer.md R309 to R327, R418; 07_memory.md R118, R127 to R130). -/

namespace Sys2Proof.Machine

/-! ## Channels and engines (R309) -/

/-- Key of a channel: desk, logical die, engine, channel. -/
def chanKey (desk die e c : Nat) : Nat := desk * 4096 + die * 64 + e * 4 + c
/-- Desk of a channel. -/
def chanDesk (k : Nat) : Nat := k / 4096
/-- Logical die of a channel's engine. -/
def chanDie (k : Nat) : Nat := k % 4096 / 64
/-- Engine of a channel, 0 to 15. -/
def chanEngine (k : Nat) : Nat := k % 64 / 4

/-- A channel. -/
def State.chan (s : State) (k : Nat) : Chan := s.chans.get {} k
/-- Delayed requests enter a queue as it has room (R287). -/
def Chan.refill (c : Chan) : Chan :=
  if c.delayed.isEmpty then c else { c with queue := c.queue ++ c.delayed.take (16 - c.queue.length), delayed := c.delayed.drop (16 - c.queue.length) }
/-- Updates a channel. -/
def State.updChan (s : State) (k : Nat) (f : Chan → Chan) : State := { s with chans := s.chans.put {} k (f (s.chan k)).refill }
/-- Updates the operation of a channel. -/
def State.updEng (s : State) (k : Nat) (f : EngOp → EngOp) : State := s.updChan k fun c => { c with op := c.op.map f }

/-- Effect and availability offsets of an engine's access to a slice (R309, Table 19-3). -/
def engLat (chan core : Nat) : Nat × Nat :=
  let e := chanEngine chan
  let col := if e < 8 then 0 else 10
  let d := fun x y : Nat => if x < y then y - x else x - y
  let h := d (e % 8) (core % 512 % 88 / 11) + d col (core % 512 % 88 % 11)
  if coreDie core = chanDie chan then (12 + h, 24 + 2 * h) else (48 + h, 96 + 2 * h)

/-- Requester number of an engine in the slot calendar. -/
def engReq (chan : Nat) : Nat := 512 + chanDie chan * 16 + chanEngine chan

/-- A calendar slot for an engine's access (R110). -/
def State.engSlot (s : State) (chan pa ready : Nat) : Nat × State :=
  s.takeSlot (engReq chan) (· == .engine (chanDie chan * 16 + chanEngine chan)) pa ready

/-- Latencies of an engine to a stack (R315). -/
def engStack (chan pa : Nat) : Nat × Nat := if pa / 2 ^ 36 % 8 / 2 = chanDie chan then (64, 640) else (112, 736)

/-- The requester of a channel's bank uses (R126). -/
def engUser (chan : Nat) : User := { cls := 2, place := chan % 64 }

/-! ## Places -/

/-- Where an address of an operation leads. -/
def State.engLocate (s : State) (r : EngReq) (va : Nat) : Except Nat Loc := s.locate r.view (s.deskN r.desk) va

/-- The tree of a request: that of the wave that issued it, or of the chorus task that times it (R316). -/
def State.reqTree (s : State) (r : EngReq) : Option Tree := if r.core.isSome || r.start.isSome then s.tree? r.tree else none

/-- Whether a request runs in chorus mode. -/
def State.engC (s : State) (r : EngReq) : Bool := r.start.isSome || (match s.reqTree r with | some t => t.cmode | none => false)

/-- The error an operation meets at a byte (R284): XLATE, PERM, or MEMERR. A row whose address comes to lie in the local alias leads nowhere: only the
packet's own fields name a core's slice by it (R419). -/
def State.engError (s : State) (r : EngReq) (need : Need) (va : Nat) : Option Nat :=
  if va < 0x400000 then some XLATE else
  match s.accessFault r.view (s.deskN r.desk) need 1 va with
  | some (c, _) => some c
  | none => if s.badVa r.view (s.deskN r.desk) va (need == .write) then some MEMERR else none

/-- A byte as an engine reads it (R111): for a wave outside chorus mode as committed through the quantum in which the operation issued (R118). -/
def State.engByte (s : State) (r : EngReq) (va : Nat) : Byte :=
  match s.engLocate r va with
  | .ok l => s.byteAtLoc (r.core.isSome && r.start.isNone) l
  | .error _ => 0

/-- Writes a byte for every observer (R111). -/
def State.engPut (s : State) (r : EngReq) (va : Nat) (b : Byte) : State :=
  match s.engLocate r va with
  | .ok (.slice c o) => s.slicePutAll (sliceKey c o) [b]
  | .ok (.page x) => { s with mem := Store.put emptyByte s.mem (x.writeFrame + x.off) b }
  | .error _ => s

/-- A destination word as a combine finds it: as an atomic does (R111, R326). -/
def State.engWord (s : State) (r : EngReq) (va : Nat) : Nat :=
  s.atomicRead r.view (s.deskN r.desk) 4 va

/-! ## Planning (R312, R323, R326) -/

/-- Groups consecutive bytes of one destination sector (R129): `xs` lists destination and source bytes in delivery order. -/
def sectorsOf (copy : Bool) : List (Nat × Nat) → List Sector
  | [] => []
  | (d, x) :: r =>
    match sectorsOf copy r with
    | y :: ys => if y.dst.headD 0 / 32 = d / 32 then { y with dst := d :: y.dst, src := if copy then x :: y.src else [] } :: ys
      else { dst := [d], src := if copy then [x] else [] } :: y :: ys
    | [] => [{ dst := [d], src := if copy then [x] else [] }]

/-- The bytes of one row: destination and source base, length. -/
def rowBytes (d x n : Nat) : List (Nat × Nat) := (List.range n).map fun i => (d + i, x + i)

/-- An address plus a signed offset, as the 64-bit sum: one below zero leads to no place (R312). -/
def addrPlus (a : Nat) (o : Int) : Nat := (((a : Int) + o) % 2 ^ 64).toNat

/-- Rows of a COPY or FILL in delivery order: destination base and source base (R312). -/
def copyRows (core : Option Nat) (p : List Byte) : List (Nat × Nat) :=
  let src := flatAddr core (pSrc p); let dst := flatAddr core (pDst p)
  (List.range (pN p 3)).flatMap fun i3 => (List.range (pN p 2)).flatMap fun i2 => (List.range (pKeep1 p)).map fun i1 =>
    (dst + i1 * pDs p 1 + i2 * pDs p 2 + i3 * pDs p 3, addrPlus src (i1 * pSs p 1 + i2 * pSs p 2 + i3 * pSs p 3))

/-- Coordinates of destination element `e` of a LEVEL, x fastest (R322). -/
def levelCoord (p : List Byte) (e : Nat) : Nat × Nat × Nat :=
  (e % pDext p 0, e / pDext p 0 % pDext p 1, e / (pDext p 0 * pDext p 1))

/-- Destination address of an element of a LEVEL. -/
def levelDst (core : Option Nat) (p : List Byte) (e : Nat) : Nat :=
  let (x, y, z) := levelCoord p e
  flatAddr core (pDst p) + x * elemBytes (pDfmt p) + y * pPitch p 2 + z * pPitch p 3

/-- Position of a contribution in one dimension (R323): none when a prolongation skips it; the flag tells that a zero stands there. -/
def levelPos (mode bnd ext sext d o : Nat) : Option (Nat × Bool) :=
  let c : Int := (((ext - 1) / 2 : Nat) : Int)
  let q : Int := if mode = 1 then (d : Int) + c - (o : Int) else 2 * (d : Int) + (o : Int) - c
  if mode = 1 && q % 2 ≠ 0 then none
  else
    let q := if mode = 1 then q / 2 else q
    if 0 ≤ q ∧ q < (sext : Int) then some (q.toNat, false)
    else match bnd with
      | 0 => some (0, true)
      | 1 => some ((clamp q 0 ((sext : Int) - 1)).toNat, false)
      | _ => some ((q % (sext : Int)).toNat, false)

/-- Contributions to an element (R323): weight and source address, none for a zero outside. -/
def levelTerms (core : Option Nat) (p t : List Byte) (e : Nat) : List (Int × Option Nat) :=
  let (dx, dy, dz) := levelCoord p e
  let mode := byteAt t 5; let bnd := byteAt t 6
  let ex := stExt t 0; let ey := stExt t 1
  let src := flatAddr core (pSrc p)
  (List.range (ex * ey * stExt t 2)).filterMap fun o =>
    let pos := fun i d k => levelPos mode bnd (stExt t i) (pSext p i) d k
    match pos 0 dx (o % ex), pos 1 dy (o / ex % ey), pos 2 dz (o / (ex * ey)) with
    | some x, some y, some z =>
      let a := src + x.1 * elemBytes (pSfmt p) + y.1 * pPitch p 0 + z.1 * pPitch p 1
      some (stW t o, if x.2 || y.2 || z.2 then none else some a)
    | _, _, _ => none

/-- A weight times a value, scaled by 2^-SHIFT, exactly (R323). -/
def weighted (w : Int) (shift : Nat) (v : Val) : Val := ((Val.ofInt w).mul v).1.descale (shift + 127)

/-- An element of a LEVEL (R323, R324): summed exactly and rounded once. -/
def levelElem (core : Option Nat) (p t : List Byte) (gen : Word) (rd : Nat → Byte) (e : Nat) : Nat :=
  let es := elemBytes (pSfmt p)
  let src := (fmtOf (pSfmt p)).getD fp32
  let dst := (fmtOf (pDfmt p)).getD fp32
  let terms := (levelTerms core p t e).map fun x => match x.2 with
    | some a => weighted x.1 (byteAt t 4) (src.decode (readNat rd a es))
    | none => .fin false 0 0
  let sum := if terms.isEmpty then .fin false 0 0 else chunkValue false terms
  let rnd := if pRnd p = 4 then Rnd.sr (laneWord (genSteps gen (e / 32)) (e % 32) false) else .rne
  (dst.ofVal rnd sum).1

/-- The stencil tables of a request's tree, in its table slots (R321). -/
def State.tablesOf (s : State) (r : EngReq) : List (List Byte) :=
  match s.reqTree r with
  | some t =>
    let die := coreDie (r.core.getD 0)
    (t.tslots.getD die []).map fun i => s.stencils.get [] (t.dies.getD die 0 * 64 + i)
  | none => []

/-- The generator of a LEVEL at the operation's start (R325). -/
def State.levelGen (s : State) (r : EngReq) : Word :=
  seedHalf (pSeed r.packet ^^^ (match s.reqTree r with | some t => t.eseed | none => 0))

/-- What a channel issues for a packet, in order (R312, R322, R326). -/
def planItems (core : Option Nat) (p : List Byte) : List Item :=
  let sec := fun (xs : List Sector) => xs.map Item.sector
  match pType p with
  | 1 =>
    let ed := elemBytes (pDfmt p)
    let bytes := (List.range (pDext p 0 * pDext p 1 * pDext p 2)).flatMap fun e => rowBytes (levelDst core p e) (e * ed) ed
    sec ((sectorsOf true bytes).map fun x => { x with src := [], elems := (x.src.map (· / ed)).eraseDups })
  | 2 => sec (sectorsOf true (rowBytes (flatAddr core (pDst p)) (flatAddr core (pSrc p)) (pLen p)))
  | t =>
    if t = 0 && pGath p then (List.range (pKeep1 p)).map .row
    else
      let n := pKeep0 p * pEsz p
      sec (sectorsOf (t = 0) ((copyRows core p).flatMap fun x => rowBytes x.1 x.2 n))

/-- Bytes a packet writes in all (R314); rows a gather skips are taken off as they are met. -/
def planTotal (p : List Byte) : Nat :=
  match pType p with
  | 1 => pDext p 0 * pDext p 1 * pDext p 2 * elemBytes (pDfmt p)
  | 2 => pLen p
  | _ => pKeep0 p * pKeep1 p * pN p 2 * pN p 3 * pEsz p

/-- The sectors of row `i` of a gathered COPY whose entry is `g`, and the row's source range, which counts the clipped elements too (R312). -/
def gatherRow (core : Option Nat) (p : List Byte) (i g : Nat) : List Sector × (Int × Int) :=
  let src : Int := flatAddr core (pSrc p) + (g : Int) * pSs p 1
  (sectorsOf true (rowBytes (flatAddr core (pDst p) + i * pDs p 1) (src % 2 ^ 64).toNat (pKeep0 p * pEsz p)), (src, src + pN p 0 * pEsz p - 1))

/-- Source bytes a sector needs. -/
def State.sectorSources (s : State) (r : EngReq) (x : Sector) : List Nat :=
  if pType r.packet = 1 then
    match (s.tablesOf r)[pTbl r.packet]? with
    | none => []
    | some t => x.elems.flatMap fun e => (levelTerms r.core r.packet t e).flatMap fun y => match y.2 with
      | some a => (List.range (elemBytes (pSfmt r.packet))).map (a + ·)
      | none => []
  else x.src

/-- The bytes of a sector, given how source bytes are read. -/
def State.sectorData (s : State) (r : EngReq) (x : Sector) (rd : Nat → Byte) : List Byte :=
  let p := r.packet
  match pType p with
  | 3 => x.dst.map fun d => BitVec.ofNat 8 (byteAt p (16 + d % pEsz p))
  | 1 =>
    match (s.tablesOf r)[pTbl p]? with
    | none => []
    | some t =>
      let ed := elemBytes (pDfmt p)
      let vals := x.elems.map fun e => (levelDst r.core p e, levelElem r.core p t (s.levelGen r) rd e)
      x.dst.map fun d => match vals.find? fun v => decide (v.1 ≤ d) && decide (d < v.1 + ed) with
        | some v => BitVec.ofNat 8 (v.2 / 256 ^ (d - v.1))
        | none => 0
  | _ => x.src.map rd

/-- A combine of COLL on 32-bit words (R326). -/
def combine (cop w x : Nat) : Nat :=
  let aop := if cop = 1 then 1 else if cop = 2 then 0 else 3
  (atomicNew aop (BitVec.ofNat 64 w) (BitVec.ofNat 64 x) 0).toNat % 2 ^ 32

/-- Combines data into its destination in ascending address order (R326): the words at consecutive addresses. -/
def State.combineAt (s : State) (r : EngReq) (cop : Nat) : Nat → List Byte → State
  | va, a :: b :: c :: d :: rest =>
    let w := combine cop (s.engWord r va) (leNat [a, b, c, d])
    let s := (leBytes 4 w).zipIdx.foldl (fun s x => s.engPut r (va + x.2) x.1) s
    s.combineAt r cop (va + 4) rest
  | _, _ => s

/-! ## Counting (R122, R129, R130) -/

/-- A sector's bytes leave a barrier's BYTES (R122, R314). -/
def State.barrierBytes (s : State) (key n : Nat) (e : Entry) : State :=
  let (w0, b) := s.barrierWords key
  let (bs, under) := barrierUpdate w0 b 0 (BitVec.ofInt 64 (-(n : Int)))
  ((s.slicePutAll key bs).underflow key e bs under).wakeAll

/-- A sector counts to a buffer-table entry (Table 7-7): `va` is the lowest byte written in it. In a state other than FILLING it is not
counted, and an entry says so. `e` names what it belongs to. -/
def State.countSector (s : State) (core dh va : Nat) (e : Entry) : State :=
  let b := (s.core core).bufs.get {} dh
  if b.state = 1 then
    let n := b.count + 1
    let b' := { b with count := n, target := if b.count = 0 then va else b.target, state := if n = b.expect then 2 else 1, since := s.chc }
    s.updCore core fun c => { c with bufs := c.bufs.put {} dh b' }
  else s.log (s.atCore core { e with kind := 3, code := HANDLE, desk := core / 512, addr := va, detail := 1 })

/-- Core of a slice address, if it is one. -/
def State.sliceOf (s : State) (r : EngReq) (va : Nat) : Option Nat :=
  match s.engLocate r va with
  | .ok (.slice c _) => some c
  | _ => none

/-! ## The end of an operation -/

/-- Whether a wave is the one that issued a request and may still raise its error (R284): it has not executed its last EXIT. -/
def EngReq.issuer (r : EngReq) (w : Wave) : Bool :=
  w.wid == r.wid && w.tree == r.tree && w.grid == r.grid && w.num == r.wave && w.status != .ended && w.status != .idle

/-- Completes the handle of a request at this count, with an error or without (R283, R284); the request of an ENGINE slot is complete when it
has left its channel. An error that is found after the wave's last EXIT is that EXIT's: it stops the tree (assumption log 28). -/
def State.endReq (s : State) (r : EngReq) (err : Option (Nat × Nat)) : State :=
  match r.core with
  | none => match r.slot, err with
    | some (d, q, i), some (c, _) => { s with slots := s.slots.map fun x => if x.desk == d && x.queue == q && x.index == i then { x with err := some c } else x }
    | _, _ => s
  | some core =>
    let s := match r.handle with
      | none => s
      | some h => s.updHandle core h fun x =>
        { x with state := if x.state = 2 then 2 else if err.isSome then 3 else 1, comp := s.chc
                 code := match err with | some e => e.1 | none => 0
                 addr := match err with | some e => BitVec.ofNat 64 e.2 | none => 0 }
    match err with
    | none => s
    | some (c, a) =>
      if s.allWaves.any r.issuer then
        s.mapWaves fun w => if r.issuer w then { w with engErrs := w.engErrs ++ [(c, BitVec.ofNat 64 a, r.handle)] } else w
      else match s.tree? r.tree with
        | some t => s.halt t r.wid { q := if t.cmode then s.chc else t.committed, core := core % 512, wave := r.wave, code := c, pc := 0xFFFFFFFF
                                     grid := r.grid, addr := a, flags := if s.missTimed r.view a c then 1 else 0 }
        | none => s

/-- The operation of a channel ends. -/
def State.endEng (s : State) (chan : Nat) (op : EngOp) (err : Option (Nat × Nat)) : State :=
  let s := s.updChan chan fun c => { c with op := none, doneAt := s.chc }
  let s := match err with
    | some (c, a) =>
      if c = MEMERR then s.memErrorOf op.req.view (s.deskN op.req.desk) a { tree := op.req.tree, wave := op.req.wave, ord := op.req.grid }
      else s
    | none => s
  s.endReq op.req err

/-- Adds to an operation's write pointer and to its handle's (R128, R314). -/
def State.addWptr (s : State) (chan n : Nat) : State :=
  match (s.chan chan).op with
  | none => s
  | some op =>
    let s := s.updEng chan fun o => { o with wptr := o.wptr + n }
    match op.req.core, op.req.handle with
    | some c, some h => s.updHandle c h fun y => { y with wptr := op.wptr + n }
    | _, _ => s

/-- A COLL sector is dropped (R326, R327): it is added to the logbook, and the fault record gets an entry with the step. -/
def State.dropColl (s : State) (desk tree step addr : Nat) : State :=
  (s.log { kind := 3, unit := 4, desk := desk, tree := tree, addr := addr, detail := step }).count (counterKey 12 0) 32

/-- Delivers the bytes of a sector (R314, R326): written or combined, counted and subtracted. -/
def State.deliver1 (s : State) (chan : Nat) (op : EngOp) (x : Sector) (data : List Byte) : State :=
  let r := op.req
  let p := r.packet
  let lo := x.dst.headD 0
  let dropped := pType p = 2 && (match s.desk? r.desk with | some d => d.groups.get 0 (pGrp p) | none => 0) ≠ pAtt p
  if dropped then s.dropColl r.desk r.tree (field p 14 2) lo
  else
    let s := if pType p = 2 && pCop p ≠ 0 then s.combineAt r (pCop p) lo data
      else (x.dst.zip data).foldl (fun s y => s.engPut r y.1 y.2) s
    let e : Entry := { tree := r.tree, wave := r.wave, ord := r.grid }
    let s := if pDhv p && op.counted ≠ some (lo / 32) then
      (match s.sliceOf r lo with | some c => s.countSector c (pDh p) (if pDst p < 0x400000 then lo % 0x400000 else lo) e | none => s) else s
    let s := if pBarv p then s.barrierBytes (sliceKey (r.desk * 512 + pBcore p) (pBoff p)) x.dst.length e else s.wakeAll
    (s.updEng chan fun o => { o with counted := some (lo / 32) }).addWptr chan x.dst.length

/-- The first error a sector meets (R284): its sources first, then its destination. -/
def State.sectorError (s : State) (r : EngReq) (x : Sector) : Option (Nat × Nat) :=
  let at_ := fun need va => (s.engError r need va).map fun c => (c, va)
  match (s.sectorSources r x).findSome? (at_ .read) with
  | some e => some e
  | none => if s.farPacket r.packet then none else x.dst.findSome? (at_ .write)

/-! ## Destinations on other devices (R314, R337, R339, R340) -/

/-- Key of a page of a desk. -/
def pageKey (desk page : Nat) : Nat := desk * 2 ^ 47 + page
/-- A version of a page in the page's present life. -/
def Proctor.version (p : Proctor) (desk page ver : Nat) : Version :=
  { desk := desk, page := page, ver := ver, gen := p.gens.get 0 (pageKey desk page) + p.deskGens.get 0 desk }

/-- The versions of the staging pages that hold source bytes of a request (R366). -/
def State.sourceVersions (s : State) (r : EngReq) (srcs : List Nat) : List Version :=
  (srcs.filterMap fun a => match s.engLocate r a with
    | .ok (.page x) => if x.pbl && x.rreq then some (s.proctor.version r.desk (a - x.off) x.ver) else none
    | _ => none).eraseDups

/-- Sends a notice about an export to its device (R366). -/
def State.sendNotice (s : State) (e : Nat × List Version × Nat) (op : Nat) : State :=
  match e.2.1 with
  | [] => s
  | v :: _ =>
    if e.2.2 = s.devNo then s
    else s.sendRun { dev := e.2.2, chan := chanKey v.desk 0 0 0, seq := 0, op := op, dest := 0, group := 0, att := 0, exp := e.1, payload := [] }

/-- Release state exported with a run (R366): the export of the versions of the staging pages among the source bytes, one of another run of the same
versions to the same device if there is one; 0 for none. A run has one index, so one that takes bytes of two pages exports both versions under it, and
the indices start again after 65,535 (assumption log 75). What is released or revoked already is told at once. -/
def State.exportOf (s : State) (r : EngReq) (srcs : List Nat) : Nat × State :=
  let vs := s.sourceVersions r srcs
  let dev := pPdev r.packet
  if vs.isEmpty then (0, s)
  else match s.proctor.exports.find? fun e => e.2.1 == vs && e.2.2 == dev with
    | some e => (e.1, s)
    | none =>
      let p := s.proctor
      let e := (p.nextExport % 65535 + 1, vs, dev)
      let s := { s with proctor := { p with exports := p.exports.filter (fun x => x.1 ≠ e.1) ++ [e], nextExport := p.nextExport + 1 } }
      (e.1, if vs.any p.revoked.contains then s.sendNotice e 0xF2 else if vs.all p.released.contains then s.sendNotice e 0xF1 else s)

/-- Operation code of the runs of a packet (Table 20-3). -/
def runOp (p : List Byte) : Nat := if pType p = 2 then pCop p else 0

/-- Bytes cut into pieces of consecutive addresses. -/
def piecesOf : List (Nat × Byte) → List (Nat × List Byte)
  | [] => []
  | (a, b) :: r =>
    match piecesOf r with
    | (c, bs) :: ps => if c = a + 1 then (a, b :: bs) :: ps else (a, [b]) :: (c, bs) :: ps
    | [] => [(a, [b])]

/-- Sends a sector to another device as untimed runs, one for the bytes of consecutive addresses (R340, R342). The write pointer moves as they are
acknowledged. -/
def State.sendSector (s : State) (chan : Nat) (op : EngOp) (x : Sector) (data : List Byte) : State :=
  let p := op.req.packet
  let (e, s) := s.exportOf op.req x.src
  (piecesOf (x.dst.zip data)).foldl (fun s y =>
    s.sendRun { dev := pPdev p, chan := chan, seq := 0, op := runOp p, dest := y.1, group := pGrp p, att := pAtt p, exp := e, payload := y.2 }) s

/-- Runs of a channel's operation that another device has not acknowledged. -/
def State.chanUnacked (s : State) (chan dev : Nat) : Bool := (s.unacked chan dev).any fun r => r.chan = chan

/-! ## Outside chorus mode: sectors one by one -/

/-- Reads the table entry of a row of a gathered COPY and puts its sectors before the rest (R312, R418). -/
def State.enterRow (s : State) (chan : Nat) (op : EngOp) (i g : Nat) (rest : List Item) : State :=
  let r := op.req
  if g = 0xFFFFFFFF then s.updEng chan fun o => { o with items := rest, total := o.total - pKeep0 r.packet * pEsz r.packet }
  else
    let (xs, range) := gatherRow r.core r.packet i g
    let dst := (packetRanges r.core r.packet).2
    if overlap range dst && !s.farPacket r.packet then s.endEng chan op (some (PERM, (range.1 % 2 ^ 64).toNat))
    else s.updEng chan fun o => { o with items := xs.map .sector ++ rest }

/-- Address of the table entry of row `i`. -/
def entryAddr (r : EngReq) (i : Nat) : Nat := flatAddr r.core (pGtab r.packet) + 4 * i

/-- Performs what stands first of an operation outside chorus mode. -/
def State.advance (s : State) (chan : Nat) (op : EngOp) : State :=
  let r := op.req
  match op.items with
  | [] =>
    if s.farPacket r.packet && s.chanUnacked chan (pPdev r.packet) then s
    else
      let s := match r.core, r.handle with
        | some c, some h => s.updHandle c h fun y => { y with total := op.wptr }
        | _, _ => s
      s.endEng chan op none
  | .row i :: rest =>
    let a := entryAddr r i
    match (List.range 4).findSome? fun j => (s.engError r .read (a + j)).map fun c => (c, a + j) with
    | some e => s.endEng chan op (some e)
    | none => s.enterRow chan op i (readNat (s.engByte r) a 4) rest
  | .sector x :: rest =>
    match s.sectorError r x with
    | some e => s.endEng chan op (some e)
    | none =>
      let data := s.sectorData r x (s.engByte r)
      let s := s.updEng chan fun o => { o with items := rest }
      if s.farPacket r.packet then s.sendSector chan op x data else s.deliver1 chan op x data

/-- Whether the operation of a channel outside chorus mode can go on: a slice held for a chorus task (R127) and a full flow (R340) hold it. -/
def State.canAdvance (s : State) (chan : Nat) (op : EngOp) : Bool :=
  let r := op.req
  let held := fun a => match s.sliceOf r a with | some c => s.heldSlice c r.tree | none => false
  !s.engC r && match op.items with
  | .sector x :: _ =>
    !((s.sectorSources r x).any held) &&
      if s.farPacket r.packet then s.flowRoom chan (pPdev r.packet) (runOp r.packet) (piecesOf (x.dst.map fun a => (a, 0))).length else !(x.dst.any held)
  | [] => !(s.farPacket r.packet && s.chanUnacked chan (pPdev r.packet))
  | .row i :: _ => !held (entryAddr r i)

/-! ## Chorus mode: the counts of Table 19-3 -/

/-- Whether the grid of a tree stopped before this count in chorus mode (R242, R344). -/
def State.stoppedBefore (s : State) (tree : Nat) : Bool :=
  match s.tree? tree with
  | some t => t.cmode && (match t.stop with | some (c, _) => decide (c < s.chc) | none => false)
  | none => true

/-- Whether a timed request belongs to a grid that stopped before this count (R242, R344): it does nothing more. -/
def State.engStopped (s : State) (r : EngReq) : Bool :=
  (r.core.isSome || r.start.isSome) && s.stoppedBefore r.tree

/-- Drops the operation of a channel. -/
def State.dropEng (s : State) (chan : Nat) : State := s.updChan chan fun c => { c with op := none }

/-- TLATE of an engine (R343): raised at wave 0 of the core; for a request that no core issued, of logical core 0. -/
def State.engLate (s : State) (r : EngReq) : State :=
  match s.reqTree r with
  | some t => (s.tlate t).count (counterKey 7 (s.place (r.core.getD (r.desk * 512)))) 32
  | none => s

/-- Claims banks for an engine's use of slice bytes (R126). -/
def State.engClaim (s : State) (chan at_ acc : Nat) (rd : Bool) (places : List (Nat × Nat)) : State :=
  ((places.map fun x => (x.1, x.2 / 16 * 16)).eraseDups).foldl (fun s x => s.claim x.1 at_ acc (engUser chan) rd [x.2]) s

/-- The places in slices among addresses. -/
def State.engPlaces (s : State) (r : EngReq) (vas : List Nat) : List (Nat × Nat) :=
  vas.filterMap fun a => match s.engLocate r a with | .ok (.slice c o) => some (c, o) | _ => none

/-- Issues the read of one source line (Table 19-3): its effect is scheduled and its availability noted. `tag` names the line in the
operation's buffer. -/
def State.readLine (s : State) (chan : Nat) (r : EngReq) (tag : Nat) (vas : List Nat) : Nat × State :=
  let acc := s.nextAcc
  let s := { s with nextAcc := acc + 1 }
  let (eff, av, s) := match s.engLocate r (vas.headD 0) with
    | .ok (.slice c _) => let l := engLat chan c; (s.chc + l.1, s.chc + l.2, s)
    | .ok (.page x) =>
      let pa := x.readLog + x.off
      let l := engStack chan pa
      let (st, s) := s.engSlot chan pa (s.chc + l.1)
      (st, st + l.2, s)
    | .error _ => (s.chc + 12, s.chc + 24, s)
  let s := s.engClaim chan eff acc true (s.engPlaces r vas)
  let s := s.schedule eff 0 (chan % 64) (.line chan tag acc)
  (av, s.updEng chan fun o => { o with avail := (tag, av) :: o.avail })

/-- Source addresses of an operation in a line (R315: a line is read once). -/
def State.lineBytes (s : State) (op : EngOp) (line : Nat) : List Nat :=
  (op.items.flatMap fun i => match i with
    | .sector x => (s.sectorSources op.req x).filter fun a => a / 128 == line
    | .row _ => []).eraseDups

/-- Tag of a gather entry in an operation's buffer. -/
def entryTag (i : Nat) : Nat := 2 ^ 60 + i

/-- A channel issues its next read, one per count (Table 19-3, R418). -/
def State.issueNext (s : State) (chan : Nat) : State :=
  match (s.chan chan).op with
  | none => s
  | some op =>
    if s.engStopped op.req then s.dropEng chan else
    let r := op.req
    let more := fun (s : State) (rest : List Item) => if rest.isEmpty then s else s.schedule (s.chc + 1) 0 (chan % 64) (.issue chan)
    match op.items with
    | [] => s
    | .row i :: _ =>
      let a := entryAddr r i
      match (List.range 4).findSome? fun j => (s.engError r .read (a + j)).map fun c => (c, a + j) with
      | some e => s.endEng chan op (some e)
      | none =>
        let (av, s) := s.readLine chan r (entryTag i) ((List.range 4).map (a + ·))
        s.schedule av 0 (chan % 64) (.entry chan i)
    | .sector x :: rest =>
      let lines := (((s.sectorSources r x).map (· / 128)).eraseDups).sortBy fun a b => decide (a ≤ b)
      let s := lines.foldl (fun s l =>
        if op.avail.any (fun y => y.1 == l) then s
        else (s.readLine chan r l (s.lineBytes op l)).2) s
      let got := match (s.chan chan).op with | some o => o.avail | none => []
      let ready := lines.foldl (fun m l => match got.find? (·.1 == l) with | some y => max m y.2 | none => m) s.chc
      let ready := if pType r.packet = 1 then ready + 16 else ready
      let ready := max ready op.lastAvail
      let s := s.updEng chan fun o => { o with items := rest, waiting := o.waiting ++ [{ x with due := ready }], lastAvail := ready }
      more (s.schedule ready 0 (chan % 64) (.write chan)) rest

/-- Where a byte that an operation reads or writes stands, as the line that holds it (R315). -/
def State.lineAt (s : State) (q : EngReq) (wr : Bool) (a : Nat) : Option Nat :=
  match s.engLocate q a with
  | .ok (.slice c o) => some (sliceKey c o / 128)
  | .ok (.page x) => some ((2 ^ 50 + (if wr then x.writeFrame else x.readFrame) + x.off) / 128)
  | .error _ => none

/-- Destination addresses, one of each sector, that an operation has still to write: those of a gathered row are its own until its entry reads as
skipped. -/
def State.unwritten (s : State) (o : EngOp) : List Nat :=
  let heads := fun xs : List Sector => xs.map fun x => x.dst.headD 0
  heads o.out ++ heads o.waiting ++ o.items.flatMap fun i => match i with
    | .sector x => heads [x]
    | .row i =>
      if readNat (s.engByte o.req) (entryAddr o.req i) 4 = 0xFFFFFFFF then []
      else heads (gatherRow o.req.core o.req.packet i 0).1

/-- Whether a read of a line comes before a sector of another engine operation of its timing domain that goes there (R315): one of this device,
or one that has arrived from another. -/
def State.early (s : State) (chan : Nat) (r : EngReq) (base : Nat) : Bool :=
  let line := s.lineAt r false base
  (s.chans.any fun (k, c) => k ≠ chan && match c.op with
    | some o => o.req.tree == r.tree && s.engC o.req && !s.farPacket o.req.packet && (s.unwritten o).any fun a => s.lineAt o.req true a == line
    | none => false) ||
  s.flits.any fun x => x.task == r.tree && match x.va with
    | some a => s.lineAt { packet := [], desk := x.core / 512 } true a == line
    | none => false

/-- A line of an operation takes its bytes (Table 19-3, R119): a bank conflict keeps it (R126), and a sector of another engine operation of the
timing domain still to be written there raises TLATE (R315). -/
def State.takeLine (s : State) (chan line acc : Nat) : State :=
  match (s.chan chan).op with
  | none => s
  | some op =>
    let r := op.req
    let base := if line < 2 ^ 60 then line * 128 else entryAddr r (line - 2 ^ 60)
    let vas := (List.range (if line < 2 ^ 60 then 128 else 4)).map (base + ·)
    if s.engStopped r then s.dropEng chan else
    match s.clashNow acc with
    | some k => s.bankFault k
    | none =>
      if s.early chan r base then s.engLate r
      else s.updEng chan fun o => { o with lines := (line, vas.map (s.engByte r)) :: o.lines }

/-- A byte of an operation's lines. -/
def EngOp.lineByte (op : EngOp) (a : Nat) : Byte :=
  match op.lines.find? (·.1 == a / 128) with
  | some l => l.2.getD (a % 128) 0
  | none => 0

/-- Sends the sectors of a pair to another device (R339): a timed run of one flit under a KIND 2 header that names the first byte's address, ready 40
counts from now (assumption log 14). -/
def State.sendTimed (s : State) (chan : Nat) (op : EngOp) (bs : List (Nat × Byte)) : State :=
  let p := op.req.packet
  let (att, task) := match s.reqTree op.req with | some t => (t.attempt, t.ctask) | none => (0, 0)
  let att := if pType p = 2 then pAtt p else att
  match s.route (pPdev p), bs with
  | some port, (a, _) :: _ =>
    let id := s.nextAcc
    let n := bs.length
    let head := ctlFlit 2 1 s.devNo (pPdev p) att 0 (runOp p * 2 ^ 48 + a) (op.exp * 2 ^ 48 + chan % 64 * 2 ^ 32) n 0 task
    let s : State := { s with nextAcc := id + 1 }
    (s.addRun port
      { id := id, timed := true, ready := s.chc + 40, dev := s.devNo, core := engineCore chan, pdev := pPdev p, head := head
        flits := (dataFlits 1 (bs.map (·.2))).map fun b => (s.chc + 40, some b), left := 1, pair := some (chan, n, a) }).updEng chan fun o =>
      { o with away := o.away + n }
  | _, _ => s

/-- Sends the sector that waits for the second of its pair. -/
def State.flushHalf (s : State) (chan : Nat) : State :=
  match (s.chan chan).op with
  | some op => if op.half.isEmpty then s else (s.sendTimed chan op op.half).updEng chan fun o => { o with half := [], exp := 0 }
  | none => s

/-- A sector of a timed operation for another device is available: it waits for the next one of its pair, and the second one sends both; the last
sector of an operation waits for none. -/
def State.pairSector (s : State) (chan : Nat) (op : EngOp) (x : Sector) (data : List Byte) (last : Bool) : State :=
  let (e, s) := s.exportOf op.req x.src
  let s := s.updEng chan fun o => { o with half := o.half ++ x.dst.zip data, exp := if o.exp = 0 then e else o.exp }
  if op.half.isEmpty && !last then s else s.flushHalf chan

/-- A timed operation ends when nothing of it is left to issue, to write or on its way (R283, R315). -/
def State.finishEng (s : State) (chan : Nat) : State :=
  match (s.chan chan).op with
  | some o => if o.items.isEmpty && o.waiting.isEmpty && o.out.isEmpty && o.half.isEmpty && o.away = 0 then s.endEng chan o none else s
  | none => s

/-- Bytes of a sector pair have landed on the other device (R339). -/
def State.landed (s : State) (chan n : Nat) : State :=
  match (s.chan chan).op with
  | some op =>
    if s.engStopped op.req then s.dropEng chan
    else ((s.addWptr chan n).updEng chan fun o => { o with away := o.away - n }).finishEng chan
  | none => s

/-- The write of the next issued sector begins (Table 19-3): its landing count, one sector per count in delivery order (R128, R309); one for another
device goes to the pairs of R339. A sector for a stack lands at the first slot it may use after the one before has landed. Of engines and channels of
different logical dies that have the same numbers, those that act in one count go in the order in which they were scheduled: R119 orders them by
engine and channel only, and the rest is this model's choice (assumption log 68). -/
def State.beginWrite (s : State) (chan : Nat) : State :=
  match (s.chan chan).op with
  | none => s
  | some op =>
    if s.engStopped op.req then s.dropEng chan else
    match op.waiting with
    | [] => s
    | x :: rest =>
      let r := op.req
      if s.farPacket r.packet then
        match s.sectorError r x with
        | some e => s.endEng chan op (some e)
        | none =>
          let data := s.sectorData r x op.lineByte
          (s.updEng chan fun o => { o with waiting := rest }).pairSector chan op x data (op.items.isEmpty && rest.isEmpty)
      else
      let acc := s.nextAcc
      let s := { s with nextAcc := acc + 1 }
      let first := op.out.isEmpty && op.wptr = 0
      let after := fun t => if first then t else max t (op.lastDue + 1)
      let (t, s) := match s.engLocate r (x.dst.headD 0) with
        | .ok (.slice c _) => (after (s.chc + (engLat chan c).1), s)
        | .ok (.page y) => let pa := y.writeLog + y.off; s.engSlot chan pa (after (s.chc + (engStack chan pa).1))
        | .error _ => (after (s.chc + 12), s)
      let s := s.engClaim chan t acc false (s.engPlaces r x.dst)
      let s := s.updEng chan fun o => { o with waiting := rest, out := o.out ++ [{ x with due := t, acc := acc }], lastDue := t }
      s.schedule t 0 (chan % 64) (.sector chan)

/-- The first sector on its way lands (R314, Table 19-3). -/
def State.landSector (s : State) (chan : Nat) (op : EngOp) : State :=
  match op.out with
  | [] => s.finishEng chan
  | x :: rest =>
    let r := op.req
    match s.clashNow x.acc with
    | some k => s.bankFault k
    | none =>
      match s.sectorError r x with
      | some e => s.endEng chan op (some e)
      | none =>
        let data := s.sectorData r x op.lineByte
        ((s.updEng chan fun o => { o with out := rest }).deliver1 chan op x data).finishEng chan

/-- The effect of the payload of a run at its destination (R342): written, or combined as the operation says. -/
def State.putRun (s : State) (r : EngReq) (op a : Nat) (bs : List Byte) : State :=
  (if op = 0 then bs.zipIdx.foldl (fun s x => s.engPut r (a + x.2) x.1) s else s.combineAt r op a bs).wakeAll

/-- Whether a timed flit still acts at its count (R304, R344): one of an earlier attempt, or after the stop, is discarded. -/
def State.flitActs (s : State) (x : Flit) : Bool :=
  (match s.tree? x.task with | some t => t.attempt % 256 == x.attempt % 256 | none => false) && !s.stoppedBefore x.task

/-- Of a run from another device, what its header does not carry (Table 20-2; assumption log 14): the step of a COLL. -/
def markStep (m : Dword) : Nat := m.toNat / 2 ^ 45 % 2 ^ 16
/-- Whether its sectors are those of a COLL, with group and step. -/
def markColl (op : Nat) (m : Dword) : Option (Nat × Nat) :=
  if op ≠ 0 || bit m.toNat 36 then some (m.toNat / 2 ^ 37 % 256, markStep m) else none
/-- The buffer-table entry its sectors count to. -/
def markDh (m : Dword) : Option Nat := if bit m.toNat 0 then some (m.toNat / 2 % 64) else none
/-- Core and slice offset of the barrier object its sectors count to, of a desk with `n` cores. -/
def markBar (n : Nat) (m : Dword) : Option (Nat × Nat) :=
  let core := m.toNat / 2 ^ 26 % 2 ^ 10
  let off := m.toNat / 2 ^ 8 % 2 ^ 18 * 16
  if bit m.toNat 7 && decide (core < n) && decide (off + 16 ≤ 0x27C000) then some (core, off) else none

/-- Whether a COLL sector of a group is dropped at the ingress (R327, R344): its attempt is not the current one, or the chorus task that names the
group has stopped. -/
def State.collDropped (s : State) (desk group att : Nat) : Bool :=
  (match s.desk? desk with | some d => d.groups.get 0 group ≠ att | none => true) ||
    s.trees.any fun t => t.desk == desk && t.cmode && t.stop.isSome && t.code.groups.contains group

/-- Sectors of a run or flit from another device reach their destination (R314, R326, R342): dropped, or written or combined and counted there. -/
def State.landRun (s : State) (desk tree op a att : Nat) (coll : Option (Nat × Nat)) (m : Dword) (bs : List Byte) : State :=
  let r : EngReq := { packet := [], desk := desk }
  match coll.filter fun g => s.collDropped desk g.1 att with
  | some g => s.dropColl desk tree g.2 a
  | none =>
    (sectorsOf false (rowBytes a 0 bs.length)).foldl (fun (s : State) (x : Sector) =>
      let s := match markDh m, s.sliceOf r (x.dst.headD 0) with
        | some h, some c => s.countSector c h (x.dst.headD 0) { tree := tree }
        | _, _ => s
      match markBar (s.deskN desk) m with
      | some (c, o) => s.barrierBytes (sliceKey (desk * 512 + c) o) x.dst.length { tree := tree }
      | none => s) (s.putRun r op a bs)

/-- The bytes of a timed flit at its count (R304, R326, R339): written to its slice, or written or combined at its address. A flit of a sector pair
that is missing there raises TLATE (R315). -/
def State.putFlit (s : State) (x : Flit) : State :=
  if !s.flitActs x || (s.clashNow x.id).isSome then s
  else match x.va with
    | some a =>
      if x.bytes.isEmpty then s.engLate { packet := [], desk := x.core / 512, tree := x.task, core := some x.core }
      else s.landRun (x.core / 512) x.task x.op a x.att (markColl x.op x.mark) x.mark x.bytes
    | none => s.slicePutAll (sliceKey x.core x.off) x.bytes

/-! ## Starting an operation (R287, R288, R315, R316) -/

/-- A channel starts the packet at the head of its queue. In chorus mode a channel that is still busy at the start count is late (R288). -/
def State.startHead (s : State) (chan : Nat) : State :=
  let c := s.chan chan
  match c.queue with
  | [] => s
  | r :: rest =>
    match r.start with
    | some n =>
      if s.engStopped r then s.updChan chan fun c => { c with queue := rest }
      else if c.op.isSome || (c.doneAt = n && n ≠ 0) then (s.updChan chan fun c => { c with queue := rest }).engLate r
      else
        let ranges := packetRanges r.core r.packet
        let op : EngOp := { req := r, items := planItems r.core r.packet, total := planTotal r.packet
                            srcLo := (ranges.1.getD ranges.2).1.toNat, srcHi := (ranges.1.getD ranges.2).2.toNat
                            dstLo := ranges.2.1.toNat, dstHi := ranges.2.2.toNat }
        let s := s.updChan chan fun c => { c with queue := rest, op := some op }
        let s := match r.core, r.handle with
          | some k, some h => s.updHandle k h fun y => { y with total := op.total }
          | _, _ => s
        s.issueNext chan
    | none =>
      if c.op.isSome then s
      else
        let ranges := packetRanges r.core r.packet
        let op : EngOp := { req := r, items := planItems r.core r.packet, total := planTotal r.packet
                            srcLo := (ranges.1.getD ranges.2).1.toNat, srcHi := (ranges.1.getD ranges.2).2.toNat
                            dstLo := ranges.2.1.toNat, dstHi := ranges.2.2.toNat }
        let s := s.updChan chan fun c => { c with queue := rest, op := some op }
        match r.core, r.handle with
        | some k, some h => s.updHandle k h fun y => { y with total := op.total }
        | _, _ => s

/-- Whether a request waits for an operation earlier in commit order whose destination meets its ranges, the rows of a gathered COPY among them
(R118, R287). -/
def State.behind (s : State) (r : EngReq) : Bool :=
  r.core.isSome && (s.inFlight r.tree).any fun q =>
    decide (q.seq < r.seq) && (touches r.dst.1 (r.dst.2 - r.dst.1) q.dst || s.touchesSrc q.dst.1 (q.dst.2 - q.dst.1) r)

/-- A timed start falls due (R288, R315): the head of the queue starts; a request behind an operation that starts later is late. -/
def State.startDue (s : State) (chan : Nat) : Host.Outcome State Fault Refusal :=
  let due := fun r : EngReq => match r.start with | some n => decide (n ≤ s.chc) | none => false
  match (s.chan chan).queue with
  | [] => .fault .noOccasion
  | r :: rest =>
    if due r then .next (s.startHead chan)
    else match rest.find? due with
      | some x => .next (if s.engStopped x then s.updChan chan fun c => { c with queue := c.queue.erase x }
          else (s.updChan chan fun c => { c with queue := c.queue.erase x }).engLate x)
      | none => .fault .noOccasion

/-- Whether the head of a channel's queue may start now. -/
def State.headReady (s : State) (chan : Nat) : Bool :=
  let c := s.chan chan
  match c.queue with
  | [] => false
  | r :: _ => match r.start with
    | some n => decide (n ≤ s.chc)
    | none => c.op.isNone && !s.behind r

/-- Runs a channel outside chorus mode as far as it goes, at most `n` steps (assumption log 15). -/
def State.runChan (chan : Nat) : Nat → State → State
  | 0, s => s
  | n + 1, s =>
    match (s.chan chan).op with
    | some op => if s.canAdvance chan op then State.runChan chan n (s.advance chan op) else s
    | none => if s.headReady chan && !((s.chan chan).queue.any fun r => r.start.isSome) then State.runChan chan n (s.startHead chan) else s

/-- Steps that a packet takes at most. -/
def packetSteps (p : List Byte) : Nat := 2 * planTotal p + pKeep1 p + 8

/-- The table entry of a row is available in chorus mode (R418), with the bytes its read found: its sectors join what the channel issues, from this
count on; of a row that is skipped none does, and the next entry read follows at the next count (assumption log 15). -/
def State.entryReady (s : State) (chan row : Nat) : State :=
  match (s.chan chan).op with
  | none => s
  | some op =>
    if s.engStopped op.req then s.dropEng chan
    else match op.items with
      | .row i :: rest =>
        if i ≠ row then s
        else
          let g := match op.lines.find? (·.1 == entryTag i) with | some l => leNat (l.2.take 4) | none => 0
          let t := s.enterRow chan op i g rest
          if g ≠ 0xFFFFFFFF then t.issueNext chan
          else if rest.isEmpty then (if op.waiting.isEmpty then (t.flushHalf chan).finishEng chan else t)
          else t.schedule (s.chc + 1) 0 (chan % 64) (.issue chan)
      | _ => s

/-- Starts the packet at the head of a channel's queue when it has the type given. -/
def State.startType (s : State) (chan ty : Nat) : Host.Outcome State Fault Refusal :=
  match (s.chan chan).queue with
  | r :: _ => if s.headReady chan && pType r.packet = ty then .next (s.startHead chan) else .fault .noOccasion
  | [] => .fault .noOccasion

/-- COPY (R312). -/
def execCopy (chan : Nat) (s : State) := s.startType chan 0
/-- LEVEL (R323). -/
def execLevel (chan : Nat) (s : State) := s.startType chan 1
/-- COLL (R326). -/
def execColl (chan : Nat) (s : State) := s.startType chan 2
/-- FILL (R312). -/
def execFill (chan : Nat) (s : State) := s.startType chan 3

/-- SECTOR_DELIVERY (R314): in chorus mode at the sector's landing count, and not after the stop of its grid (R242); otherwise the next
sector of the operation. -/
def execSectorDelivery (chan : Nat) (s : State) : Host.Outcome State Fault Refusal :=
  match (s.chan chan).op with
  | none => .fault .noOccasion
  | some op =>
    if s.engC op.req then
      if s.engStopped op.req then .next (s.dropEng chan) else
      let due := match op.out with | x :: _ => decide (x.due ≤ s.chc) | [] => op.items.isEmpty && op.waiting.isEmpty
      if due then .next (s.landSector chan op) else .fault .noOccasion
    else if s.canAdvance chan op then .next (s.advance chan op) else .fault .noOccasion

/-- SHARED_QUEUE_CONSUME (R319): the descriptor at `descr` names the slot, whose packet joins the channel's queue or is refused. -/
def execSharedQueueConsume (chan desk descr : Nat) (s : State) : Host.Outcome State Fault Refusal :=
  let r : EngReq := { packet := [], desk := desk }
  let rd := fun a n => readNat (s.engByte r) a n
  let ridx := rd (descr + 8) 8
  let nslot := rd (descr + 24) 4
  let bound := rd (descr + 29) 1 = 1
  let slot := rd (descr + 16) 8 + ridx % (max 1 nslot) * 64
  let p := (List.range 64).map fun i => s.engByte r (slot + i)
  if (s.chan chan).shared.contains (desk, descr) && pPhase p = 1 - ridx / (max 1 nslot) % 2 && decide ((s.chan chan).queue.length < 16) then
    let s := (leBytes 8 ((ridx + 1) % 2 ^ 64)).zipIdx.foldl (fun s x => s.engPut r (descr + 8 + x.2) x.1) s
    let task := s.tasks.find? fun t => t.desk == desk && t.dispatched
    let t? := if bound then task.bind fun k => s.tree? k.tree else none
    let tables := match t? with | some t => t.code.stencils | none => []
    let bad := s.packetRefused none desk (s.deskN desk) tables p || (pStart p ≠ 0 && (!bound || task.isNone))
    if bad then .next (s.log { kind := 3, unit := 4, code := HANDLE, desk := desk, addr := descr, detail := ridx % 2 ^ 32 })
    else
      let add := fun (s : State) (r : EngReq) => s.updChan chan fun c => { c with queue := c.queue ++ [r] }
      match decide (pStart p ≠ 0), task with
      | true, some t =>
        let start := t.base + pStart p
        let r : EngReq := { packet := p, desk := desk, tree := t.tree, start := some start }
        .next (if start < s.chc then s.engLate r else (add s r).schedule start 0 (chan % 64) (.start chan))
      | _, _ =>
        let tree := match t? with | some t => if pType p = 1 then t.id else 0 | none => 0
        .next (add s { packet := p, desk := desk, tree := tree })
  else .fault .noOccasion

end Sys2Proof.Machine
end

