-- ==== Sys2Proof/Machine/Records.lean ====
section
/-! DEFINITION. Records that an instruction reads whole: JTV's table, SPREC's pattern record, and the packets and records of engine, operator and
launch instructions (11_isa_scalar.md R178, R179; 13_isa_memory.md R220; 17_isa_engines.md R282), with the meanings of JTV and SPREC. -/

namespace Sys2Proof.Machine

/-! ## Near reads of C-mode at their effect count -/

/-- The slices as an event leaves them that takes effect by the count at hand (R119): an access, a sector, a flit, a unit of a matrix operation. -/
def State.effectOf (s : State) (ev : Event) : State :=
  match ev with
  | .effect a => match execFarAccessEffect a s with | .next s' => s' | _ => s
  | .sector c => match execSectorDelivery c s with | .next s' => s' | _ => s
  | .flit x => match s.flits.find? fun (f : Flit) => f.id == x with | some f => s.putFlit f | none => s
  | .unit c o => match (s.core c).ops.find? (·.id == o) with | some p => s.moveUnit p | none => s
  | _ => s

/-- The slices as the issuing wave's near accesses find them at their effect count, issue + 2 (R116, R119, R214): after every effect that comes
before them. The effects themselves take place at their own counts. -/
def State.foresee (s : State) : State :=
  let upto := s.chc + 2
  (s.agenda.filter fun d => decide (d.at_ < upto) || (d.at_ = upto && decide (d.ord < 2 * 2 ^ 64 + s.wave.order))).foldl
    (fun (x : State) d => ({ x with chc := max x.chc d.at_ } : State).effectOf d.ev) s

/-- A byte of a near read as it finds it: at its effect in C-mode (R119), now in L-mode (R116). -/
def State.nearByte (s : State) (cmode : Bool) (core n va : Nat) : Byte := (if cmode then s.foresee else s).nowByte core n va

/-- A record that an instruction stalls on when it is far (JTV's table R179, SPREC's record R220): continues with the words read,
in lane order. -/
def State.loadNow (s : State) (t : Tree) (f : Frag) (size : Nat) (ls : List (Nat × Nat)) (k : State → List (Nat × Nat) → Act) : Act :=
  let w := s.wave
  s.access t .read size ls (
    let near := s.allNear w.core t.n ls
    if !t.cmode || near then
      if !near && ls.any (fun x => s.heldAt w.core t.n t.id x.2) then .hold s.stall
      else match s.laneBad w.core t.n ls with
      | some va => s.failNow t.n va
      | none =>
        let vals := ls.map fun (l, va) => (l, readNat (if near then s.nearByte t.cmode w.core t.n else s.farByte t w) va size)
        k (if t.cmode then (s.sendLanes t f s.nextAcc true false false ls fun _ a => a).2 else s) vals
    else match w.ticket with
      | some (.tick n) =>
        if s.chc < n then .hold s.stall
        else match s.laneBad w.core t.n ls with
          | some va => s.failNow t.n va
          | none => k (s.upd fun w => { w with latch := [] }) (w.latch.sortBy fun a b => decide (a.1 ≤ b.1))
      | _ =>
        let (land, s) := s.sendLanes t f s.nextAcc false false false ls fun mine a => { a with load := mine, form := .latch }
        .hold ((s.upd fun w => { w with ticket := some (.tick land), latch := [] }).stall))

/-- Reads a record of the own slice (R282), as a near access: the checks of R261, then the waits of R47, R118, R215 and R265. -/
def State.record (s : State) (f : Frag) (t : Tree) (n : BitVec 4) (len : Nat) (k : State → List Byte → Act) : Act :=
  let a := s.wave.ra n.toNat
  let core := s.wave.core
  match s.operandFault t a 0 len 64 with
  | some e => .fault e
  | none =>
    let off := a.toNat % 0x400000
    if s.needsCommit t then .hold (s.waitCommit s.wave.qnt s.wave.qnt)
    else if !t.cmode && s.nearBusy core ((List.range len).map (off + ·)) then .hold s.stall
    else if !t.cmode && s.engineWaits t core len .read [(noLane, off)] then .hold s.stall
    else if t.cmode && s.acquireBusy then .hold s.acquireStall
    else match (List.range len).find? fun i => s.badAt (.slice core (off + i)) with
      | some i => s.failNow t.n (off + i)
      | none =>
        let bs := (List.range len).map fun i => s.nearByte t.cmode core t.n (off + i)
        let s := if t.cmode then
            ({ s with nextAcc := s.nextAcc + 1 } : State).claim core (s.chc + 2) s.nextAcc (s.wave.user 0 f.pc) true ((List.range (len / 16)).map fun i => off + 16 * i)
          else s
        k s bs

/-! ## JTV and SPREC -/

/-- JTV (R178, R179); PERM in handler state (R240). -/
def execJtv (v : BitVec 6) (n : BitVec 4) (b : BitVec 5) (jo : BitVec 9) (s : State) :=
  s.issueIP (.jtv v n b jo) (fun _ _ => s.wave.hnd) fun f t =>
    let w := s.wave
    let ix := (lanesOf f.mask).map fun l => (l, (w.rv v.toNat l).toNat)
    let bad := ix.filter fun x => decide ((w.rs b.toNat).toNat ≤ x.2)
    if bad ≠ [] then .fault { code := JTRANGE, lanes := some (maskOf (bad.map (·.1))) }
    else
      let ls := ix.map fun (l, i) => (l, (w.ra n.toNat + BitVec.ofNat 64 (4 * i)).toNat)
      s.loadNow t f 4 ls fun s vals =>
        let odd := vals.filter fun x => x.2 % 2 = 1
        match odd with
        | (l, _) :: _ =>
          .fault { code := ALIGN, lanes := some (maskOf (odd.map (·.1)))
                   addr := BitVec.ofNat 64 (((ls.find? (·.1 == l)).map (·.2)).getD 0) }
        | [] =>
          s.split (jtvGroups (vals.map fun (l, e) =>
            (l, ((ix.find? (·.1 == l)).map (·.2)).getD 0, BitVec.ofNat 64 t.code.addr + BitVec.ofNat 64 e))) (target f.pc jo)

/-- SPREC. -/
def execSprec (n : BitVec 4) (k : BitVec 3) (s : State) :=
  s.issueI (.sprec n k) fun f t =>
    let a := (s.wave.ra n.toNat).toNat
    s.loadNow t f 8 [(noLane, a), (noLane + 1, a + 8), (noLane + 2, a + 16), (noLane + 3, a + 24)] fun s vals =>
      .done (s.upd fun w => { w with pats := w.pats.put {} k.toNat (patOf (vals.map (·.2))) }) .seq

end Sys2Proof.Machine
end

