-- ==== Sys2Proof/Machine/Commands.lean ====
section
/-! DEFINITION. Meanings of the buffer-table, engine, publish, operator and launch instructions (17_isa_engines.md R281 to R299; 07_memory.md
R111, R112, R130). -/

namespace Sys2Proof.Machine

/-! ## Handles -/

/-- Gives an engine, operator or launch instruction its handle (R274, R281): hd = 0 takes none; none free stalls. -/
def State.takeHandle (s : State) (hd : BitVec 4) (h : Handle) (k : State → Option Nat → Act) : Act :=
  if hd = 0 then k s none
  else match s.freeHandle s.wave.core with
    | none => .hold s.stall
    | some i => k ((s.putHandle s.wave.core i { h with wid := s.wave.wid, tree := s.wave.tree, quantum := s.wave.qnt }).result 1 (.hnd hd.toNat (some i))) (some i)

/-! ## Buffer table (R290, R291, Table 7-7) -/

/-- Runs an instruction on the buffer-table entry that `a` names: a value above 63 raises HANDLE. -/
def State.bufOp (s : State) (a : BitVec 5) (k : Nat → Buf → Act) : Act :=
  let x := (s.wave.rs a.toNat).toNat
  if 64 ≤ x then .fault { code := HANDLE } else k x ((s.core s.wave.core).bufs.get {} x)

/-- Writes a buffer-table entry of the issuing core. -/
def State.setBuf (s : State) (x : Nat) (b : Buf) : State := s.updCore s.wave.core fun c => { c with bufs := c.bufs.put {} x b }

/-- DHSET. -/
def execDhset (a b : BitVec 5) (s : State) :=
  s.issueI (.dhset a b) fun _ t =>
    s.bufOp a fun x e =>
      let n := (s.wave.rs b.toNat).toNat
      if e.state ≠ 0 || n = 0 || 2 ^ 24 ≤ n then .fault { code := HANDLE }
      else .done (s.setBuf x { state := 1, expect := n, tree := t.id }) .seq

/-- The wait of DHWAIT and DHGET for FULL (R285, R291): in L-mode the quantum ends first; in C-mode the wave waits in place, past the count at
which the entry filled. -/
def State.awaitBuf (s : State) (t : Tree) (a : BitVec 5) (k : Nat → Buf → Act) : Act :=
  s.bufOp a fun x e =>
    if !t.cmode && s.wave.ticket ≠ some .ended then .hold s.endQuantum
    else if e.state = 1 then .hold (if t.cmode then s.waitHere else s.stall)
    else if t.cmode && s.wave.ticket = some .waiting && decide (s.chc ≤ e.since) then .hold s.waitHere
    else k x e

/-- DHWAIT. -/
def execDhwait (a : BitVec 5) (s : State) :=
  s.issueI (.dhwait a) fun _ t =>
    s.awaitBuf t a fun _ e => if e.state = 0 then .fault { code := HANDLE } else .done s .seq

/-- DHGET. -/
def execDhget (d a : BitVec 5) (s : State) :=
  s.issueI (.dhget d a) fun _ t =>
    s.awaitBuf t a fun x e =>
      if e.state = 2 then .done ((s.setBuf x { e with state := 3 }).result 1 (.sca d.toNat (BitVec.ofNat 64 e.target))) .seq
      else .fault { code := HANDLE }

/-- DHREL. -/
def execDhrel (a : BitVec 5) (s : State) :=
  s.issueI (.dhrel a) fun _ _ =>
    s.bufOp a fun x e => if e.state = 3 then .done (s.setBuf x {}) .seq else .fault { code := HANDLE }

/-! ## CPYQ and WPTR (R286 to R288, R292) -/

/-- CPYQ. -/
def execCpyq (h : BitVec 4) (n : BitVec 4) (a b : BitVec 5) (s : State) :=
  s.issueI (.cpyq h n a b) fun f t =>
    s.record f t n 64 fun s' p =>
      let w := s.wave
      let sel := (w.rs b.toNat).toNat
      let at_ := (w.rs a.toNat).toNat
      let p := p.take 4 ++ leBytes 4 at_ ++ p.drop 8
      let chan := chanKey t.desk (coreDie w.core) (sel % 16) (sel / 16 % 4)
      if 64 ≤ sel || 2 ^ 32 ≤ at_ || pPhase p = 1 || s.packetRefused (some w.core) t.desk t.n t.code.stencils p then .fault { code := HANDLE }
      else
        let start := if at_ = 0 then s.chc + 16 else t.base + at_
        if t.cmode && (decide (start < s.chc + 16) || decide (16 ≤ (s.chan chan).queue.length)) then .fault { code := TLATE }
        else
          s'.takeHandle h { kind := 4, total := planTotal p } fun s i =>
            if t.cmode then
              let r : EngReq := { packet := p, desk := t.desk, tree := t.id, core := some w.core, wid := w.wid, wave := w.num, handle := i, grid := w.grid
                                  start := some start, issued := s.chc }
              .done ((s.updChan chan fun c => { c with queue := c.queue ++ [r] }).schedule start 0 (chan % 64) (.start chan)) .seq
            else .done (s.addCommit t (.engine p chan i at_)) .seq

/-- WPTR: P against the threshold in L-mode, P as it stands in C-mode. -/
def execWptr (d : BitVec 5) (h : BitVec 4) (b : BitVec 5) (s : State) :=
  s.issueI (.wptr d h b) fun _ t =>
    match s.wave.rh h.toNat with
    | none => .fault { code := HANDLE }
    | some i =>
      let e := (s.core s.wave.core).handles.get {} i
      if e.state = 2 then .fault { code := FUTCAN, fdat := h.setWidth 64 }
      else if e.kind ≠ 4 then .fault { code := HANDLE }
      else if !t.cmode && e.quantum = s.wave.qnt && s.wave.ticket ≠ some .ended then .hold s.endQuantum
      else match s.wave.errorOn [i] with
        | some g => s.raiseEngine g
        | none =>
          let v := if t.cmode then e.wptr else min (s.wave.rs b.toNat).toNat e.total
          if v ≤ e.wptr then .done (s.result 3 (.sca d.toNat (BitVec.ofNat 64 v))) .seq
          else if e.state = 3 then
            -- DESIGN CHOICE (assumption log 28): an operation that ended on an error never reaches the threshold; the value read is free.
            let (x, s) := s.draw
            .done (s.result 3 (.sca d.toNat x)) .seq
          else .hold s.stall

/-! ## PUB (R289, R111, R112, R359) -/

/-- The pages of a range as a wave's core sees them: address, and the leaf or the fault of each; an address without a leaf counts for
16 KiB. -/
def State.pages (s : State) (core n : Nat) (hi : Nat) : Nat → Nat → List (Nat × Except Nat Xlat)
  | 0, _ => []
  | k + 1, va =>
    if hi < va then []
    else match s.locate core n va with
      | .ok (.page x) => (va, .ok x) :: s.pages core n hi k (va - x.off + x.size)
      | .ok (.slice _ _) => (va, .error PERM) :: s.pages core n hi k (va / 0x4000 * 0x4000 + 0x4000)
      | .error c => (va, .error c) :: s.pages core n hi k (va / 0x4000 * 0x4000 + 0x4000)

/-- The pages of `len` bytes from `lo`. -/
def State.pagesOf (s : State) (core n lo len : Nat) : List (Nat × Except Nat Xlat) :=
  s.pages core n (lo + len - 1) (len / 0x4000 + 2) lo

/-- The fault of a range whose pages must satisfy `ok` (R107): XLATE before PERM, at the lowest address. `core` names the view: that of a core
of a C-mode grid misses where a page is not pinned, with the timing class (R108). -/
def State.pageFault (s : State) (t : Tree) (core lo len : Nat) (ok : Xlat → Bool) : Option Flt :=
  let bad := (s.pagesOf core t.n lo len).filterMap fun x => match x.2 with
    | .error c => some (c, s.missTimed core x.1 c, x.1)
    | .ok y => if ok y then none else some (PERM, false, x.1)
  match bad.find? fun x => x.1 == XLATE with
  | some x => some { code := XLATE, tcls := x.2.1, addr := BitVec.ofNat 64 x.2.2 }
  | none => match bad with
    | x :: _ => some { code := x.1, addr := BitVec.ofNat 64 x.2.2 }
    | [] => none

/-- Whether an operator without a final grade holds a version (R359): grade 3 is ABSTAIN. -/
def Proctor.holds (p : Proctor) (desk page ver : Nat) : Bool :=
  p.ops.any fun o => (o.grade.isNone || o.grade == some 3) && o.vers.any fun v => v.2.1 == p.version desk page ver

/-- Whether any page of a range is held at its current version. -/
def State.rangeHeld (s : State) (core n desk lo len : Nat) : Bool :=
  (s.pagesOf core n lo len).any fun x => match x.2 with
    | .ok y => s.proctor.holds desk (x.1 - y.off) y.ver
    | .error _ => false

/-- PUB_EXCHANGE of a range of a desk's pages (R111): current and shadow change places, and VER advances, in the tables and in the pinned
translations of a C-mode grid alike. -/
def State.exchange (s : State) (desk lo len : Nat) : State :=
  let ps := (s.pagesOf (deskView desk) (s.deskN desk) lo len).filterMap fun x => match x.2 with | .ok y => some y | .error _ => none
  ps.foldl (fun s x =>
    if !x.pbl then s
    else
      let raw := x.raw - x.ver * 2 ^ 46 - (if x.cur then 2 ^ 45 else 0) + (x.ver + 1) % 2 ^ 16 * 2 ^ 46 + (if x.cur then 0 else 2 ^ 45)
      let s := s.devPut x.pte (leBytes 8 raw)
      { s with trees := s.trees.map fun t => { t with pins := t.pins.map fun p => if p.pte = x.pte then { p with raw := raw } else p } }) s

/-- The pages of a range that a PUB exchanges, with the VER each then has: the versions it makes (R111, R362). -/
def State.pubVersions (s : State) (desk lo len : Nat) : List Version :=
  (s.pagesOf (deskView desk) (s.deskN desk) lo len).filterMap fun x => match x.2 with
    | .ok y => if y.pbl then some (s.proctor.version desk (x.1 - y.off) ((y.ver + 1) % 2 ^ 16)) else none
    | .error _ => none

/-- A PUB of a launch tree takes effect (R111). -/
def State.publish (s : State) (tree desk lo len : Nat) : State :=
  let vs := (s.pubVersions desk lo len).map fun v => (v, tree)
  ({ s with proctor := { s.proctor with made := s.proctor.made ++ vs } } : State).exchange desk lo len

/-- Release dependencies that bytes from another device bring to the staging pages they are written to (R366). -/
def State.noteExport (s : State) (desk src exp dest n : Nat) : State :=
  if exp = 0 then s
  else
    let ps := (s.pagesOf (deskView desk) (s.deskN desk) dest n).filterMap fun x => match x.2 with
      | .ok y => if y.pbl && y.rreq then some (s.proctor.version desk (x.1 - y.off) ((y.ver + 1) % 2 ^ 16), src, exp) else none
      | .error _ => none
    { s with proctor := { s.proctor with deps := s.proctor.deps ++ ps.filter fun p => !s.proctor.deps.contains p } }

/-- PUB_EXCHANGE (R111). -/
def execPubExchange (desk lo len : Nat) (s : State) : Host.Outcome State Fault Refusal := .next (s.exchange desk lo len)

/-- Whether two byte ranges meet. -/
def rangesMeet (lo len lo' len' : Nat) : Bool := lo < lo' + len' && lo' < lo + len

/-- Whether a packet writes into a range of bytes (R112). -/
def packetWrites (core : Option Nat) (p : List Byte) (lo len : Nat) : Bool :=
  let d := (packetRanges core p).2
  rangesMeet d.1.toNat (d.2 - d.1 + 1).toNat lo len

/-- The range of whole pages that a PUB covers. -/
def State.pubSpan (s : State) (core n lo len : Nat) : Nat × Nat :=
  let ps := (s.pagesOf core n lo len).filterMap fun x => match x.2 with | .ok y => some (x.1 - y.off, y.size) | .error _ => none
  match ps with
  | [] => (lo, len)
  | (a, _) :: _ => let last := ps.getLastD (a, 1); (a, last.1 + last.2 - a)

/-- The latest quantum whose pending records hold a store, an engine operation or an operator of the wave that bears on a range (R112, R359). -/
def State.coveredQuantum (s : State) (t : Tree) (lo len : Nat) : Option Nat :=
  let qs := (t.pend.filter fun r => r.wid == s.wave.wid && match r.eff with
    | .store bs => bs.any fun x => decide (lo ≤ x.1) && decide (x.1 < lo + len)
    | .engine p _ _ _ => packetWrites (some s.wave.core) p lo len
    | .opend op _ _ _ => op.args.any fun a => rangesMeet a.addr a.len lo len
    | _ => false).map (·.q)
  if qs.isEmpty then none else some (maxOf qs)

/-- Whether an engine operation that the wave issued before count `upto` and that writes into a range is incomplete (R112). -/
def State.coveredBusy (s : State) (wid upto lo len : Nat) : Bool :=
  s.chans.any fun (_, c) => c.reqs.any fun r =>
    r.core.isSome && r.wid == wid && decide (r.issued ≤ upto) && packetWrites r.core r.packet lo len

/-- Whether a store of the wave that issued before the PUB of count `upto` has not reached a range of bytes yet (R112). -/
def State.coveredStore (s : State) (wid upto lo len : Nat) : Bool :=
  s.accesses.any fun a => a.wid == wid && decide (a.issued ≤ upto) && decide (s.chc ≤ a.at_) && match a.eff with
    | some (.store bs) => bs.any fun x => decide (lo ≤ x.1) && decide (x.1 < lo + len)
    | _ => false

/-- PUB. -/
def execPub (n : BitVec 4) (b : BitVec 5) (s : State) :=
  s.issueI (.pub n b) fun _ t =>
    let w := s.wave
    let lo := (w.ra n.toNat).toNat
    let b := (w.rs b.toNat).toNat
    let len := max b 1
    if 2 ^ 26 ≤ b then .fault { code := PERM }
    else match s.pageFault t s.wave.core lo len fun x => x.pbl && x.allows .write with
      | some e => .fault e
      | none =>
        let (a, m) := s.pubSpan w.core t.n lo len
        if t.cmode then
          if s.acquireBusy then .hold s.acquireStall
          else if s.rangeHeld w.core t.n t.desk lo len then .fault { code := PERM }
          else .done (s.schedule (s.chc + 320) 2 w.order (.pub t.desk lo len w.wid s.chc)) .seq
        else match s.coveredQuantum t a m with
          | some q => if q = w.qnt then .hold s.endQuantum else .hold (s.waitCommit w.qnt (q + 1))
          | none =>
            if s.coveredBusy w.wid s.chc a m || s.rangeHeld w.core t.n t.desk lo len then .hold s.stall
            else .done (s.addCommit t (.pub lo len)) .seq

/-! ## Operators (R293 to R297) -/

/-- Sends the effect of an operator instruction on its way (R296): at the commit in L-mode, at issue + 320 in C-mode. -/
def State.operator (s : State) (t : Tree) (e : Effect) : State :=
  if t.cmode then s.schedule (s.chc + 320) 2 s.wave.order (.opAccept s.wave.core s.wave.wid e) else s.addCommit t e

/-- OPBEG (R293). -/
def execOpbeg (b : BitVec 5) (s : State) :=
  s.issueI (.opbeg b) fun _ t =>
    let c := (s.wave.rs b.toNat).toNat
    if s.wave.op.isSome || c = 0 || 5 < c then .fault { code := HANDLE }
    else .done ((s.upd fun w => { w with op := some { cls := c } }).operator t (.opbeg c)) .seq

/-- OPARG (R294). -/
def execOparg (n : BitVec 4) (a b : BitVec 5) (s : State) :=
  s.issueI (.oparg n a b) fun _ t =>
    let w := s.wave
    let d := (w.rs a.toNat).toNat
    let len := (w.rs b.toNat).toNat
    let lo := (w.ra n.toNat).toNat
    let role := d % 16
    let efmt := d / 16
    match w.op with
    | none => .fault { code := HANDLE }
    | some o =>
      if 16 ≤ o.args.length || len = 0 || 2 ^ 36 < len || role = 0 || 3 < role || 7 < efmt then .fault { code := HANDLE }
      else match s.pageFault t (deskView t.desk) lo len fun x => if role = 1 then x.allows .read else x.pbl && x.rreq && x.allows .write with
        | some e => .fault e
        | none =>
          let arg : OpArg := { role := role, num := (o.args.filter fun x => x.role == role).length, addr := lo, len := len, efmt := efmt }
          .done ((s.upd fun w => { w with op := some { o with args := o.args ++ [arg] } }).operator t (.oparg arg)) .seq

/-- OPEND (R295). -/
def execOpend (h n : BitVec 4) (b : BitVec 5) (s : State) :=
  s.issueI (.opend h n b) fun f t =>
    let w := s.wave
    let len := (w.rs b.toNat).toNat
    match w.op with
    | none => .fault { code := HANDLE }
    | some o =>
      if len < 64 || 4096 < len || len % 64 ≠ 0 || !(o.args.any fun x => x.role == 2) then .fault { code := HANDLE }
      else s.record f t n len fun s bs =>
        s.takeHandle h { kind := 5 } fun s i =>
          .done ((s.upd fun w => { w with op := none, opSeq := w.opSeq + 1 }).operator t (.opend o w.opSeq bs i)) .seq

/-! ## LNCH (R298, R299) -/

/-- The grid a launch record asks for: X, Y, Z, team lanes (Table 17-5). -/
def recordShape (k : Kernel) (r : List Byte) : Nat × Nat × Nat × Nat :=
  let pick := fun v d => if v = 0 then d else v
  (pick (field r 4 4) k.x, pick (field r 8 4) k.y, pick (field r 12 4) k.z, pick (field r 16 2) k.tl)

/-- Whether grid dimensions keep R31. -/
def gridOk (x y z : Nat) : Bool :=
  1 ≤ x && x ≤ 2 ^ 31 && 1 ≤ y && y ≤ 2 ^ 31 && 1 ≤ z && z ≤ 2 ^ 31 && x * y * z ≤ 2 ^ 31

/-- Whether LNCH refuses a record (R298). -/
def launchRefused (t : Tree) (r : List Byte) : Bool :=
  match t.code.kernels[field r 0 4]? with
  | none => true
  | some k =>
    let (x, y, z, tl) := recordShape k r
    let args := pf r 24 1 1 1 = 1
    k.cmode || !gridOk x y z || 512 < tl || decide (t.resv.1 < (tl + 31) / 32) || decide (t.resv.2.1 < k.s) || decide (t.resv.2.2 < k.a) ||
      (args && decide (k.s < 32)) || field r 18 2 ≠ 0 || pf r 24 1 2 6 ≠ 0 || field r 25 7 ≠ 0

/-- LNCH. -/
def execLnch (h n : BitVec 4) (s : State) :=
  s.issueI (.lnch h n) fun f t =>
    if s.wave.tw ≠ 0 || t.cmode then .fault { code := PERM }
    else
      let depth := match t.grid? s.wave.grid with | some g => g.depth | none => 0
      if 10 ≤ depth then .fault { code := DEPTH }
      else s.record f t n 64 fun s r =>
        if launchRefused t r then .fault { code := HANDLE }
        else s.takeHandle h { kind := 6 } fun s i => .done (s.addCommit t (.lnch r i)) .seq

end Sys2Proof.Machine
end

