-- ==== Sys2Proof/Machine/Timed.lean ====
section
/-! DEFINITION. Meanings of the chorus-count, timed-transfer and restart instructions and of the events they cause (17_isa_engines.md R300
to R307; 20_chorus.md R302, R332, R339). -/

namespace Sys2Proof.Machine

/-! ## The chorus count (R300 to R302) -/

/-- CHRD. -/
def execChrd (d : BitVec 5) (s : State) := s.plainOp (.chrd d) fun s _ _ => s.result 1 (.sca d.toNat (BitVec.ofNat 64 s.chc))

/-- CHBASE: 0 in L-mode. -/
def execChbase (d : BitVec 5) (s : State) :=
  s.plainOp (.chbase d) fun s _ t => s.result 1 (.sca d.toNat (if t.cmode then BitVec.ofNat 64 t.base else 0))

/-- CHWAIT (R301). -/
def execChwait (a : BitVec 5) (s : State) :=
  s.issueI (.chwait a) fun _ t =>
    let x := (s.wave.rs a.toNat).toNat
    if t.cmode then
      if x = 0 then .done s .seq
      else if t.base + x ≤ s.chc then .fault { code := TLATE }
      else .done (s.upd fun w => { w with issueAt := t.base + x }) .seq
    else if x ≤ s.chc then .done s .seq else .hold s.stall

/-- CHSLIP (R302): `hold` lasts two cycles. -/
def State.setSlip (s : State) (t : Tree) (a : BitVec 5) (hold : Bool) : Act :=
  let c := t.base + (s.wave.rs a.toNat).toNat
  let other := match s.slip with | some p => p ≠ (c, hold) | none => false
  if !t.cmode || s.wave.num ≠ 0 || c < s.chc + 4096 || other then .fault { code := PERM }
  else if s.slip.isSome then .done s .seq
  else .done (({ s with slip := some (c, hold) } : State).scheduleFirst c .slip) .seq

/-- CHSLIP.HOLD. -/
def execChslipHold (a : BitVec 5) (s : State) := s.issueI (.chslipHold a) fun _ t => s.setSlip t a true
/-- CHSLIP.SKIP. -/
def execChslipSkip (a : BitVec 5) (s : State) := s.issueI (.chslipSkip a) fun _ t => s.setSlip t a false

/-- The core and, where a wave acts, the wave and the PC of an event that is an action of a C-mode grid (R302): an access, a sector, a flit or a
timed command. -/
def State.actionCore (s : State) : Event → Option (Nat × Option (Nat × Option Dword))
  | .effect acc => (s.accesses.find? (·.id == acc)).map fun a => (a.core, some (a.wid, some a.pc))
  | .unit core op => some (core, ((s.core core).ops.find? (·.id == op)).map fun x => (x.wid, none))
  | .sector chan => (s.chan chan).op.map fun o => (o.req.core.getD (o.req.desk * 512), none)
  | .line chan _ _ => (s.chan chan).op.map fun o => (o.req.core.getD (o.req.desk * 512), none)
  | .start chan => (s.chan chan).queue.head?.map fun r => (r.core.getD (r.desk * 512), none)
  | .send id _ => (s.sends.find? (·.id == id)).map fun x => (x.core, none)
  | .flit id => (s.flits.find? (·.id == id)).map fun x => (x.core, none)
  | .trecv wid => (s.wave? wid).map fun w => (w.core, some (wid, w.frag.map (·.pc)))
  | .opAccept core wid _ => some (core, some (wid, none))
  | .pub _ _ _ wid _ => some (wid / 16, some (wid, none))
  | _ => none

/-- SLIP (R302, R332): the count passes, %drift moves inside a locked domain, and an action of the grid that falls there raises PERM at its
wave, or at wave 0 of its core. -/
def execSlip (s : State) : Host.Outcome State Fault Refusal :=
  match s.slip with
  | none => .fault .noOccasion
  | some (c, hold) =>
    if s.chc < c then .fault .noOccasion
    else
      let locked := match s.domain with | some d => d.locked | none => false
      let s' := { s with slip := none, slipAt := some c, drift := if locked then (if hold then s.drift - 64 else s.drift + 64) else s.drift }
      let hit := s.agenda.findSome? fun d => if d.at_ = c then s.actionCore d.ev else none
      match hit, s.chorusTree with
      | some (core, by_), some t =>
        let w := s.allWaves.find? fun w => w.tree == t.id && w.core == core && (match by_ with | some i => w.wid == i.1 | none => w.tw == 0)
        let pc := match by_.bind (·.2) with | some pc => (pc.toNat + 2 ^ 64 - t.code.addr) % 2 ^ 32 | none => 0xFFFFFFFF
        .next (s'.stopTree t { q := s.chc, core := core % 512, wave := (w.map Wave.num).getD 0, code := PERM, pc := pc })
      | _, _ => .next s'

/-! ## Timed transfers (R303 to R306) -/

/-- LEN of a descriptor (Table 17-6). -/
def dLen (b : Nat) : Nat := b / 2 ^ 48 % 2 ^ 16
/-- DOFF. -/
def dOff (b : Nat) : Nat := b / 2 ^ 24 % 2 ^ 24
/-- TAG. -/
def dTag (b : Nat) : Nat := b / 2 ^ 19 % 2 ^ 4
/-- PCORE. -/
def dCore (b : Nat) : Nat := b / 2 ^ 9 % 2 ^ 10
/-- PDEV. -/
def dDev (b : Nat) : Nat := b % 2 ^ 9

/-- Team counts of the task's grids by device (R376). -/
def State.taskMembers (s : State) (t : Tree) : List (Nat × Nat) :=
  match s.tasks.find? fun k => k.tree == t.id with
  | some k => k.members
  | none => match t.grid? 0 with
    | some g => [(s.devNo, g.x * g.y * g.z)]
    | none => []

/-- Whether TSEND refuses a descriptor and source (R303). -/
def State.sendRefused (s : State) (t : Tree) (a : Dword) (b : Nat) : Bool :=
  let n := 64 * dLen b
  let own := match s.locate s.wave.core t.n a.toNat with | .ok (.slice c _) => c == s.wave.core | _ => false
  let member := (s.taskMembers t).any fun m => m.1 == dDev b && decide (dCore b < m.2)
  !t.cmode || dLen b = 0 || decide (4096 < dLen b) || dOff b % 64 ≠ 0 || !own || decide (0x27C000 < a.toNat % 0x400000 + n) ||
    decide (0x27C000 < dOff b + n) || bit b 23 || !member || (dDev b ≠ s.devNo && (s.route (dDev b)).isNone)

/-- Claims the banks of a 64-byte flit in a slice (R126, R304). -/
def State.claimFlit (s : State) (core off at_ acc : Nat) (user : User) (rd : Bool) : State :=
  s.claim core at_ acc user rd ((List.range 4).map fun j => off + 16 * j)

/-- Counts from a flit's sending to its effect in a slice of the same device (R304). -/
def flitLat (core peer : Nat) : Nat := (sliceLat core peer).1

/-- TSEND (R303, R304). -/
def execTsend (h n : BitVec 4) (a b : BitVec 5) (s : State) :=
  s.issueI (.tsend h n a b) fun f t =>
    let w := s.wave
    let src := w.ra n.toNat
    let d := (w.rs b.toNat).toNat
    let x := (w.rs a.toNat).toNat
    let start := if x = 0 then s.chc + 2 else t.base + x
    if s.sendRefused t src d then .fault { code := PERM }
    else if src.toNat % 64 ≠ 0 then .fault { code := ALIGN, addr := src }
    else if start < s.chc + 2 || start ≤ (s.core w.core).sendBusy then .fault { code := TLATE }
    else s.takeHandle h { kind := 8 } fun s i =>
      let len := dLen d
      let off := src.toNat % 0x400000
      let peer := w.core / 512 * 512 + dCore d
      let here := dDev d = s.devNo
      let acc := s.nextAcc
      let x : Send := { id := acc, wid := w.wid, core := w.core, tree := t.id, handle := i, start := start, len := len, src := off, pdev := dDev d
                        pcore := dCore d, doff := dOff d, tag := dTag d, attempt := t.attempt, accs := acc }
      let s := { s with nextAcc := acc + 2 * len, sends := s.sends ++ [x] }
      let s := s.updCore w.core fun c => { c with sendBusy := start + len - 1 }
      let s := (List.range len).foldl (fun s j =>
        let s := s.claimFlit w.core (off + 64 * j) (start + j) (acc + 2 * j) { w.user 2 f.pc with sender := true } true
        if here then s.claimFlit peer (dOff d + 64 * j) (start + j + flitLat w.core peer) (acc + 2 * j + 1) (w.user 1 f.pc) false else s) s
      .done (s.schedule start 0 64 (.send acc 0)) .seq

/-- The link side of flit `i` of a send (R337, R339): a timed run for every 64 flits, its header ready with its first flit. -/
def State.sendOut (s : State) (x : Send) (i : Nat) (bytes : List Byte) : State :=
  match s.route x.pdev with
  | none => s
  | some p =>
    if i % 64 = 0 then
      let n := min 64 (x.len - i)
      let id := s.nextAcc
      let task := match s.tree? x.tree with | some t => t.ctask | none => 0
      let head := ctlFlit 1 n s.devNo x.pdev x.attempt x.tag (x.pcore + (x.doff + 64 * i) * 1024) 0 0 0 task
      let s := { s with nextAcc := id + 1, sends := s.sends.map fun (y : Send) => if y.id == x.id then { y with run := id } else y }
      s.addRun p { id := id, timed := true, ready := s.chc + 40, dev := s.devNo, core := x.core % 512, pdev := x.pdev, head := head
                   flits := [(s.chc + 40, some bytes)], left := n }
    else s.addFlit p x.run (s.chc + 40) (some bytes)

/-- TSEND_FLIT_SEND (R304): flit `idx` reads its source and leaves; the last one completes the handle. -/
def execTsendFlitSend (send idx : Nat) (s : State) : Host.Outcome State Fault Refusal :=
  match s.sends.find? fun x => x.id == send && decide (idx < x.len) && decide (x.start + idx ≤ s.chc) with
  | none => .fault .noOccasion
  | some x =>
    if s.stoppedBefore x.tree then .next { s with sends := s.sends.filter (·.id != send) }
    else match s.clashNow (x.accs + 2 * idx) with
      | some k => .next (s.bankFault k)
      | none =>
        let bytes := s.sliceBytes x.core (x.src + 64 * idx) 64
        let s :=
          if x.pdev = s.devNo then
            let peer := x.core / 512 * 512 + x.pcore
            let at_ := s.chc + flitLat x.core peer
            let fl : Flit := { id := x.accs + 2 * idx + 1, at_ := at_, task := x.tree, attempt := x.attempt, core := peer, off := x.doff + 64 * idx
                               tag := x.tag, bytes := bytes }
            ({ s with flits := s.flits ++ [fl] } : State).schedule at_ 1 0 (.flit fl.id)
          else s.sendOut x idx bytes
        if idx + 1 < x.len then .next (s.schedule (s.chc + 1) 0 64 (.send send (idx + 1)))
        else
          let s := { s with sends := s.sends.filter (·.id != send) }
          match x.handle with
          | none => .next s
          | some h => .next (s.updHandle x.core h fun y => if y.state = 0 then { y with state := 1, comp := s.chc } else { y with comp := s.chc })

/-- FLIT_EFFECT (R304, R306, R339): the flit is written and counts to its tag; one of an earlier attempt, or after the stop, is discarded.
A flit of a sector pair is written or combined (R315, R326). -/
def execFlitEffect (flit : Nat) (s : State) : Host.Outcome State Fault Refusal :=
  match s.flits.find? fun x => x.id == flit && decide (x.at_ ≤ s.chc) with
  | none => .fault .noOccasion
  | some x =>
    let s := { s with flits := s.flits.filter (·.id != flit) }
    if !s.flitActs x then .next s
    else match s.clashNow x.id with
      | some k => .next (s.bankFault k)
      | none =>
        let s := s.putFlit x
        match x.va with
        | some va => .next (s.noteExport (x.core / 512) x.src x.exp va x.bytes.length)
        | none =>
        let n := (s.core x.core).tags.get 0 x.tag
        let s := if n < 65535 then s.updCore x.core fun c => { c with tags := c.tags.put 0 x.tag (n + 1) }
          else s.log (s.atCore x.core { kind := 3, desk := x.core / 512, tree := x.task, addr := x.off, detail := 1 })
        .next s.wakeAll

/-- TRECV (R305). -/
def execTrecv (a b : BitVec 5) (s : State) :=
  s.issueI (.trecv a b) fun _ t =>
    let w := s.wave
    let d := (w.rs b.toNat).toNat
    let x := (w.rs a.toNat).toNat
    let r := if x = 0 then s.chc else t.base + x
    let n := (s.core w.core).tags.get 0 (dTag d)
    if !t.cmode || dLen d = 0 || decide (4096 < dLen d) || dOff d ≠ 0 || bit d 23 || dCore d ≠ 0 || dDev d ≠ 0 then .fault { code := PERM }
    else match w.ticket with
      | some .done => .done s .seq
      | some (.tick _) => .hold s.stall
      | _ =>
        if r < s.chc then .fault { code := TLATE }
        else if r = s.chc then
          if n < dLen d then .fault { code := TLATE }
          else .done (s.updCore w.core fun c => { c with tags := c.tags.put 0 (dTag d) (n - dLen d) }) .seq
        else
          .hold (((s.upd fun w => { w with ticket := some (.tick r), latch := [(dTag d, dLen d)] }).stall).schedule r 2 w.order (.trecv w.wid))

/-- TRECV_CHECK (R305): at count r. -/
def execTrecvCheck (wid : Nat) (s : State) : Host.Outcome State Fault Refusal :=
  match s.wave? wid with
  | none => .fault .noOccasion
  | some w =>
    match w.ticket, w.latch with
    | some (.tick r), (tag, len) :: _ =>
      if s.chc < r then .fault .noOccasion
      else
        let n := (s.core w.core).tags.get 0 tag
        if len ≤ n then
          let s := s.updCore w.core fun c => { c with tags := c.tags.put 0 tag (n - len) }
          .next (s.updWave wid fun w => { w with ticket := some .done, latch := [], issueAt := r + 1 })
        else .next (s.asWave wid fun s => s.raise { code := TLATE })
    | _, _ => .fault .noOccasion

/-! ## Restart points (R307) -/

/-- The restart record of a wave at the epoch it has just marked. -/
def Wave.restart (w : Wave) (off : Nat) : Restart :=
  let f := w.frag.getD {}
  { epoch := w.epoch, off := off, pc := f.pc, live := w.live, s := w.s, a := w.a, k := w.k, m := w.m, fmt := f.fmt, sig := f.sig, lcnt := w.lcnt
    loopStart := w.loopStart, loopEnd := w.loopEnd, pats := w.pats, opSeq := w.opSeq }

/-- RPT: in C-mode the record is taken after it retires; in L-mode it only marks the epoch that the next RPT is checked against. -/
def execRpt (b : BitVec 5) (s : State) : Host.Outcome State Fault Refusal :=
  let out := s.issue (wordEnc (0x80000F7 + b.toNat * 2 ^ 21) true) true .plain [.s b.toNat] fun _ _ =>
    let w := s.wave
    let e := (w.rs b.toNat).toNat
    if 2 ^ 32 ≤ e || e ≠ w.epoch + 1 || (w.getSlot (!w.cur)).isSome || w.depth ≠ 0 then .fault { code := PERM }
    else .done (s.upd fun w => { w with epoch := e }) .seq
  match out, s.tree? s.wave.tree with
  | .next s', some t =>
    if t.cmode && s'.wave.epoch ≠ s.wave.epoch then
      let s' := s'.upd fun w => { w with records := (w.restart (s.chc - t.base) :: w.records).take 2 }
      .next (s'.markCore t.id s.wave.core)
    else out
  | _, _ => out

end Sys2Proof.Machine
end

