-- ==== Sys2Proof/Machine/Launches.lean ====
section
/-! DEFINITION. Launch trees: what a host launch asks for and what refuses it, the Manifest, the start of a tree and of its teams, and the
completion of slots (24_front_end.md R373 to R375; 03_execution.md R30 to R40; 28_security.md R407; 05_formats.md R92). -/

namespace Sys2Proof.Machine

/-! ## Signals to the Registrar (R385) -/

/-- Signal lines of a hart: kicks, sweep, launch retirement, grade posting, management mailbox (assumption log 16). -/
inductive Line where
  | kicks | sweep | retirement | grades | mailbox
  deriving DecidableEq, Repr

/-- Number of a line in a hart's masks. -/
def Line.bit : Line → Nat
  | .kicks => 0
  | .sweep => 1
  | .retirement => 2
  | .grades => 3
  | .mailbox => 4

/-- Raises a line at the harts that serve a desk; none names every hart. -/
def State.signal (s : State) (l : Line) (desk : Option Nat) : State :=
  { s with harts := s.harts.map fun (k, h) =>
      let mine := match desk with | some d => h.desks.contains d | none => true
      (k, if mine then { h with pending := h.pending ||| (h.lines &&& BitVec.ofNat 64 (2 ^ l.bit)) } else h) }

/-! ## Access to a desk's memory by the device itself -/

/-- Whether `n` bytes at a virtual address of a desk lie in pages that allow an access. -/
def State.deskOk (s : State) (desk : Nat) (need : Need) (va n : Nat) : Bool :=
  let c := s.deskN desk
  (s.pagesOf (deskView desk) c va n).all fun x => match x.2 with
    | .ok y => y.allows need
    | .error _ => false

/-- Reads bytes of a desk's memory. -/
def State.deskRead (s : State) (desk va n : Nat) : List Byte :=
  (List.range n).map fun i => s.nowByte (deskView desk) (s.deskN desk) (va + i)

/-- Writes bytes of a desk's memory (R111). -/
def State.deskWrite (s : State) (desk va : Nat) (bs : List Byte) : State :=
  s.storeBytes (deskView desk) (s.deskN desk) (bs.zipIdx.map fun x => (va + x.2, x.1))

/-- The first byte of a desk's memory that holds an uncorrectable error, of `n` from an address on. -/
def State.deskBad? (s : State) (desk va n : Nat) (write : Bool := false) : Option Nat :=
  ((List.range n).find? fun i => s.badVa (deskView desk) (s.deskN desk) (va + i) write).map (va + ·)
/-- Whether an uncorrectable error stands at a byte of a desk's memory. -/
def State.deskBad (s : State) (desk va n : Nat) (write : Bool := false) : Bool := (s.deskBad? desk va n write).isSome

/-! ## Completion of a slot (R373, R374) -/

/-- A fetched slot. -/
def State.slot? (s : State) (d q i : Nat) : Option Slot := s.slots.find? fun x => x.desk == d && x.queue == q && x.index == i
/-- Updates a fetched slot. -/
def State.updSlot (s : State) (d q i : Nat) (f : Slot → Slot) : State :=
  { s with slots := s.slots.map fun x => if x.desk == d && x.queue == q && x.index == i then f x else x }

/-- A field of a slot (Table 24-2). -/
def Slot.f (x : Slot) (at_ n : Nat) : Nat := field x.bytes at_ n
/-- TYPE. -/
def Slot.type (x : Slot) : Nat := x.f 254 1
/-- CLASS. -/
def Slot.cls (x : Slot) : Nat := x.f 253 1
/-- CADDR. -/
def Slot.caddr (x : Slot) : Nat := x.f 0 8

/-- An entry of kind 3 about a queue: the queue in WAVE, the index in DETAIL (assumption log 17). -/
def queueEntry (d q i addr : Nat) : Entry := { kind := 3, unit := 4, desk := d, wave := q, addr := addr, detail := i }

/-- A slot completes (R374): the completion record is written, or lost with an entry. -/
def State.complete (s : State) (d q i status code tree : Nat) : State :=
  match s.slot? d q i with
  | none => s
  | some x =>
    let s := { s with slots := s.slots.filter fun y => !(y.desk == d && y.queue == q && y.index == i) }
    let a := x.caddr
    if a = 0 then s
    else if a % 16 ≠ 0 then s.log (queueEntry d q i a)
    else if s.deskOk d .write a 32 && !s.deskBad d a 32 true then
      s.deskWrite d a (leBytes 8 (x.f 8 8) ++ leBytes 1 status ++ leBytes 1 code ++ leBytes 6 0 ++ leBytes 8 tree ++ leBytes 8 0)
    else s.log (queueEntry d q i a)

/-! ## What a launch asks for (Table 24-4) -/

/-- The four words of ARGS that a body holds. -/
def bodyArgs (b : List Byte) : List Dword := (List.range 4).map fun i => BitVec.ofNat 64 (field b (40 + 8 * i) 8)

/-- The launch of a body: bytes 24 to 151 of a slot, 128 in all. -/
def launchOf (b : List Byte) : Launch :=
  let f := fun at_ n => field b (at_ - 24) n
  { cobj := f 24 8, kidx := f 32 4, x := f 36 4, y := f 40 4, z := f 44 4, tl := f 48 2
    fmtv := if f 50 1 % 2 = 1 then some (BitVec.ofNat 32 (f 52 4)) else none
    args := if f 50 1 / 2 % 2 = 1 then some (bodyArgs b) else none
    ctask := f 56 4, nmem := f 96 2 }

/-- Whether a body is malformed (R374, R376): reserved bytes and the pair CTASK, NMEM. -/
def bodyMalformed (b : List Byte) : Bool :=
  let f := fun at_ n => field b (at_ - 24) n
  f 50 1 / 4 ≠ 0 || f 51 1 ≠ 0 || f 60 4 ≠ 0 || f 98 54 ≠ 0 || (f 96 2 ≠ 0 && f 56 4 = 0) || (f 96 2 = 0 && f 56 4 ≠ 0) || decide (512 < f 96 2)

/-- A grid dimension: 0 takes the descriptor's. -/
def orElse0 (v d : Nat) : Nat := if v = 0 then d else v

/-- Waves of a team of `tl` lanes (R30). -/
def wavesOf (tl : Nat) : Nat := (tl + 31) / 32

/-- Slice bytes below the split-stack area (R36). -/
def sliceRoom : Nat := 0x27C000

/-- Per-core occupancy P (R36). -/
def occupancy (w sl a : Nat) (resv : Nat × Nat × Nat) : Nat :=
  let p := (16 - resv.1) / max 1 w
  let p := if 0 < sl then min p ((sliceRoom - resv.2.1) / sl) else p
  if 0 < a then min p ((256 - resv.2.2) / a) else p

/-- The kernel a launch names. -/
def State.kernel? (s : State) (desk : Nat) (l : Launch) : Option (CodeObj × Kernel) :=
  match s.codes.find? fun c => c.desk == desk && c.addr == l.cobj with
  | none => none
  | some c => (c.kernels[l.kidx]?).map fun k => (c, k)

/-- Logical dies of a desk of `n` logical cores (R17). -/
def diesOf (n : Nat) : Nat := (n + 87) / 88

/-- Table slots of a physical die that the trees placed on it leave free (R321). -/
def State.freeTslots (s : State) (die : Nat) : List Nat :=
  let used := s.trees.flatMap fun t => (t.tslots.zipIdx.filter fun x => t.dies.getD x.2 0 = die).flatMap (·.1)
  (List.range 64).filter fun i => !used.contains i

/-- Table slots for `k` tables on each logical die of a tree of `n` cores whose logical dies lie on `dies`: the lowest free ones (R321). -/
def State.tslotsFor (s : State) (dies : List Nat) (n k : Nat) : List (List Nat) :=
  (List.range (diesOf n)).map fun l => (s.freeTslots (dies.getD l 0)).take k

/-- Whether table slots are enough for `k` tables on each logical die (R321). -/
def slotsFit (ts : List (List Nat)) (k : Nat) : Bool := ts.all fun xs => decide (xs.length = k)

/-- Whether every stencil table of a code object keeps Table 19-5, and the tables fit the slots of each die of the desk (R320, R321). -/
def State.stencilsFit (s : State) (desk : Nat) (c : CodeObj) : Bool :=
  let d := (s.desk? desk).getD {}
  c.stencils.all stencilOk && slotsFit (s.tslotsFor d.dies d.n c.stencils.length) c.stencils.length

/-- Loads the stencil tables of a tree into its slots (R321). -/
def State.loadStencils (s : State) (t : Tree) : State :=
  { s with stencils := t.tslots.zipIdx.foldl (fun (m : Store (List Byte)) x =>
      (x.1.zip t.code.stencils).foldl (fun m y => m.put [] (t.dies.getD x.2 0 * 64 + y.1) y.2) m) s.stencils }

/-- Empties the table slots of a tree. -/
def State.dropStencils (s : State) (t : Tree) : State :=
  { s with stencils := t.tslots.zipIdx.foldl (fun (m : Store (List Byte)) x =>
      x.1.foldl (fun m i => m.erase (t.dies.getD x.2 0 * 64 + i)) m) s.stencils }

/-- Loads the pinned translation cache of a C-mode tree (R108). -/
def State.loadPins (s : State) (t : Tree) : State :=
  if !t.cmode then s
  else
    let pins := t.code.pins.eraseDups.filterMap fun p => (s.walk t.desk p).map fun x => ({ va := p - x.off, pte := x.pte, raw := x.raw, size := x.size } : Pin)
    s.updTree t.id fun t => { t with pins := pins }

/-! ## Cores lent to desks (R16, R17, R369) -/

/-- Enabled cores of a compute die (R16). -/
def Proctor.enabledOn (p : Proctor) (die : Nat) : List Nat :=
  if p.deadDies.contains die then []
  else ((List.range 96).map (die * 96 + ·)).filter fun x => !p.spares.contains x && !p.retired.contains x && !p.fused.contains x

/-- Priority of a desk. -/
def State.prioOf (s : State) (d : Nat) : Nat := match s.desk? d with | some k => k.prio | none => 0

/-- The physical dies that a tree's logical dies lie on. -/
def Tree.onDies (t : Tree) : List Nat := (List.range (diesOf t.n)).map fun l => t.dies.getD l 0

/-- Whether a desk's cores are lent to it (R369). -/
def State.holdsCores (s : State) (d : Nat) : Bool :=
  s.trees.any fun t => t.desk == d && t.started && (!t.noStart || s.teams.any fun m => m.tree == t.id)

/-- Logical cores of a desk on one of its logical dies. -/
def coresOnDie (n l : Nat) : Nat := min 88 (n - 88 * l)

/-- Cores of a physical die that are lent to the desks of a kind (R17, R369). -/
def State.heldOn (s : State) (p : Nat → Bool) (die : Nat) : Nat :=
  (s.desks.map fun x => match x.2 with
    | some d => if p x.1 then (d.places.filter fun p => p / 96 = die).length else 0
    | none => 0).foldl (· + ·) 0

/-- The dies of a tree with too few enabled cores besides those that the desks of a kind hold. -/
def State.shortOn (s : State) (p : Nat → Bool) (t : Tree) : List Nat :=
  ((List.range (diesOf t.n)).filter fun l =>
    decide ((s.proctor.enabledOn (t.dies.getD l 0)).length < s.heldOn p (t.dies.getD l 0) + coresOnDie t.n l)).map fun l => t.dies.getD l 0

/-- Whether a tree waits for its desk's cores, on dies that have as many (R369). -/
def State.wantsCores (s : State) (t : Tree) : Bool :=
  t.stop.isNone && !t.noStart && !t.save && !t.debug && !s.holdsCores t.desk && (s.shortOn (fun _ => false) t).isEmpty

/-- Whether a desk of a higher priority waits for cores of one of these dies: it takes them before a desk of lower priority does (R369). -/
def State.outranked (s : State) (desk : Nat) (dies : List Nat) : Bool :=
  s.trees.any fun u => decide (s.prioOf desk < s.prioOf u.desk) && s.wantsCores u && u.onDies.any dies.contains

/-- Whether a tree has its cores, or can have them: those its desk holds, or as many on each of its dies as no desk holds, and none of a higher priority
waits for (R369). -/
def State.coresFree (s : State) (t : Tree) : Bool :=
  (t.started && s.holdsCores t.desk) ||
    ((s.desk? t.desk).isSome && (s.holdsCores t.desk || (s.shortOn s.holdsCores t).isEmpty) && !s.outranked t.desk t.onDies)

/-- Takes `n` elements of a list in turn, each wherever a free value points. -/
def State.choose : Nat → List Nat → State → List Nat × State
  | 0, _, s => ([], s)
  | n + 1, xs, s =>
    match xs with
    | [] => ([], s)
    | y :: _ =>
      let (r, s) := s.draw
      let x := (xs[r.toNat % xs.length]?).getD y
      let (ys, s) := State.choose n (xs.erase x) s
      (x :: ys, s)

/-- Every order of the elements of a list. -/
def ordersOf : Nat → List Nat → List (List Nat)
  | 0, _ => [[]]
  | n + 1, xs => xs.flatMap fun x => (ordersOf n (xs.erase x)).map (x :: ·)

/-- The logical core that a built core is lent as, if any (R17). -/
def State.lentAs (s : State) (place : Nat) : Option Nat :=
  s.desks.findSome? fun (x : Nat × Option Desk) => match x.2 with
    | some d => (d.places.zipIdx.find? fun y => y.1 = place).map fun y => x.1 * 512 + y.2
    | none => none

/-- The second of powered time at which a built core's test falls due (R393). -/
def Proctor.dueAt (p : Proctor) (place : Nat) : Nat := p.tested.get p.onAt place + 600

/-- The tests asked for name the logical cores that their built cores are lent as now, and those cores know it (R394, R396). -/
def State.flagTests (s : State) : State :=
  let tests := s.tests.map fun x => (x.1, x.2.1, s.lentAs (x.1 * 96 + x.2.1))
  let s := { s with tests := tests, cores := s.cores.map fun (x : Nat × Core) => (x.1, { x.2 with testDue := false, overdue := false }) }
  tests.foldl (fun (s : State) x => match x.2.2 with
    | some c => s.updCore c fun k => { k with testDue := true, overdue := decide (s.proctor.dueAt (x.1 * 96 + x.2.1) + 3000 ≤ s.seconds) }
    | none => s) s

/-- Lends a desk its cores (R17, R369) for a tree whose logical dies lie on `dies`: each logical core gets an enabled core of its die that no desk
holds. Which one, firmware chooses, and nothing says how (R350; assumption log 10). -/
def State.lend (s : State) (desk : Nat) (dies : List Nat) : State :=
  let s := { s with desks := s.desks.map fun (x : Nat × Option Desk) => (x.1, x.2.map fun d => if s.holdsCores x.1 then d else { d with places := [] }) }
  match s.desk? desk with
  | none => s
  | some d =>
    if d.places ≠ [] then s.flagTests
    else
      let taken := s.desks.flatMap fun (x : Nat × Option Desk) => match x.2 with | some d => d.places | none => []
      let (ps, s) := (List.range (diesOf d.n)).foldl (fun (a : List Nat × State) l =>
        let free := (a.2.proctor.enabledOn (dies.getD l 0)).filter fun p => !taken.contains p
        let (ys, s) := State.choose (coresOnDie d.n l) free a.2
        (a.1 ++ ys, s)) ([], s)
      (s.updDesk desk fun d => { d with places := ps }).flagTests

/-- Whether every pinned page has PIN (R108). -/
def State.pinsOk (s : State) (desk : Nat) (c : CodeObj) : Bool :=
  decide (c.pins.eraseDups.length ≤ 256) && c.pins.all fun p => match s.walk desk p with
    | some x => bit x.raw 2
    | none => false

/-- Whether a host launch is refused (R375, R31, R36, R38, R39, R108, R321, R329). -/
def State.refusesLaunch (s : State) (desk : Nat) (l : Launch) : Bool :=
  match s.kernel? desk l with
  | none => true
  | some (c, k) =>
    let n := s.deskN desk
    let x := orElse0 l.x k.x; let y := orElse0 l.y k.y; let z := orElse0 l.z k.z
    let tl := orElse0 l.tl k.tl
    let w := wavesOf tl
    let teams := x * y * z
    let p := occupancy w k.s k.a k.resv
    let child := c.kernels.zipIdx.any fun q => q.2 ≠ l.kidx && !q.1.cmode &&
      (decide (k.resv.1 < wavesOf q.1.tl) || decide (k.resv.2.1 < q.1.s) || decide (k.resv.2.2 < q.1.a))
    !gridOk x y z || decide (512 < tl) || !s.stencilsFit desk c || !(s.deskOk desk .read c.addr c.len) ||
      (if k.cmode then
        decide (n < teams) || decide (16 < w) || decide (sliceRoom < k.s) || decide (256 < k.a) || !s.pinsOk desk c || s.trees.any (·.cmode)
      else p = 0 || (k.cores && decide (n * p < teams)) || (k.resv ≠ (0, 0, 0) && child) || l.ctask ≠ 0 || l.nmem ≠ 0)

/-! ## The Manifest (R407) -/

/-- The MODE byte of a tree. -/
def modeByte (cmode co : Bool) (resv : Nat × Nat × Nat) : Nat :=
  (if cmode then 1 else 0) + (if co then 2 else 0) + (if resv ≠ (0, 0, 0) then 4 else 0)

/-- GRADE of the Manifest (R357). -/
def Desk.gradeByte (d : Desk) : Nat := match d.spot with | some k => 0x80 + k | none => 0

/-- The collective group table of a code object, as the Manifest hashes it. -/
def CodeObj.groupTable (c : CodeObj) : List Byte := c.groups.map (BitVec.ofNat 8)

/-- SHA-384 as a list of bytes. -/
def sha (bs : List Byte) : List Byte := (Config.sha384 bs).toList

/-- The 512 bytes of the Manifest of a launch (Table 28-2). -/
def State.manifestOf (s : State) (dn : Nat) (d : Desk) (c : CodeObj) (k : Kernel) : List Byte :=
  let sten := c.stencils.foldl (fun h t => sha (h ++ sha t)) (List.replicate 48 0)
  let meas := fun i => s.proctor.meas.getD i (List.replicate 48 0)
  leBytes 2 1 ++ leBytes 2 dn ++ leBytes 1 (modeByte k.cmode k.cores k.resv) ++ leBytes 1 (Nat.log2 k.q) ++ leBytes 2 d.n ++ leBytes 1 1 ++
    leBytes 1 (if d.logged then 1 else 0) ++ leBytes 1 d.gradeByte ++ leBytes 1 (if d.unchecked then 1 else 0) ++ leBytes 4 0 ++
    leBytes 4 d.vseed.toNat ++ leBytes 4 d.dseed.toNat ++ leBytes 4 d.eseed.toNat ++ leBytes 4 Config.stepping.toNat ++
    sha (s.deskRead dn c.addr c.len) ++ sten ++ sha c.groupTable ++ meas 0 ++ meas 1 ++ s.proctor.wkh ++ List.replicate 192 0

/-! ## A new tree -/

/-- The grid a launch creates: ordinal 0 of a tree of kernel `k`. -/
def topGrid (l : Launch) (k : Kernel) : Grid :=
  let tl := orElse0 l.tl k.tl
  { ord := 0, x := orElse0 l.x k.x, y := orElse0 l.y k.y, z := orElse0 l.z k.z, tl := tl, w := wavesOf tl
    p := if k.cmode then 1 else occupancy (wavesOf tl) k.s k.a k.resv
    s := k.s, a := k.a, kidx := l.kidx, entry := k.entry, fmt := l.fmtv.getD k.fmt &&& fmtMask, args := l.args, slice := k.slice }

/-- Creates a launch tree for an accepted launch (R34): its identifier and the state. A C-mode tree with CTASK 0 is a chorus task of its own
(R376). -/
def State.newTree (s : State) (desk : Nat) (l : Launch) (c : CodeObj) (k : Kernel) (slot : Option (Nat × Nat × Nat)) (replayOf : Option Nat) :
    Nat × State :=
  let id := s.nextTree
  let d := (s.desk? desk).getD {}
  let g := topGrid l k
  let t : Tree := { id := id, desk := desk, cmode := k.cmode, coRes := k.cores, n := d.n, q := k.q, code := c, launch := l, grids := [g], resv := k.resv
                    vseed := d.vseed, dseed := d.dseed, eseed := d.eseed, dies := d.dies, tslots := s.tslotsFor d.dies d.n c.stencils.length, slot := slot
                    replayOf := replayOf }
  let s := { s with nextTree := id + 1 }
  if k.cmode then
    let task : CTask := { id := s.nextTask, tag := l.ctask, desk := desk, tree := id, lead := s.devNo, members := [(s.devNo, g.x * g.y * g.z)]
                          nmem := max 1 l.nmem, since := s.chc }
    (id, { s with trees := s.trees ++ [{ t with ctask := s.nextTask }], tasks := s.tasks ++ [task], nextTask := s.nextTask + 1 })
  else (id, { s with trees := s.trees ++ [t] })

/-- Seed of a generator of logical core `l` (R92). -/
def coreSeed (seed : Word) (l : Nat) : Word := seedHalf (seed ^^^ BitVec.ofNat 32 (l * 0x9E3779B9))

/-- Clears a staging page: both frames zero and, unless the tree is a replay, VER 0 (R157, R362), with which another life of the page begins. -/
def State.clearStaging (s : State) (desk va : Nat) (keepVer : Bool) : State :=
  match s.walk desk va with
  | none => s
  | some x =>
    let f := onStack x.stackMap (pteFrame x.raw)
    let s := s.devPut f (List.replicate (2 * x.size) 0)
    let k := pageKey desk (va - x.off)
    let s := { s with proctor := { s.proctor with wipes := s.proctor.wipes.put 0 k (s.proctor.wipes.get 0 k + 1) } }
    if keepVer then s
    else ({ s with proctor := { s.proctor with gens := s.proctor.gens.put 0 k (s.proctor.gens.get 0 k + 1) } } : State).devPut x.pte
      (leBytes 8 (x.raw - x.ver * 2 ^ 46))

/-- Every slice of a desk's logical cores holds zero (R362). -/
def State.zeroSlices (s : State) (desk n : Nat) : State :=
  let mine := fun (x : Nat × Byte) => decide (desk * 512 ≤ x.1 / 0x400000) && decide (x.1 / 0x400000 < desk * 512 + n)
  { s with slices := s.slices.filter fun x => !mine x, slicesC := s.slicesC.filter fun x => !mine x }

/-- The start of a launch tree: the Manifest (R407), its sections (R157), the generators (R92), the weight planes (R260), the stencil tables
(R321), the attempts of all collective groups (R327), the pinned pages (R108); a replay's slices are zero but for what its teams are given (R362). -/
def State.beginTree (s : State) (id : Nat) : State :=
  match s.tree? id with
  | none => s
  | some t =>
    if t.started then s else
    let d := (s.desk? t.desk).getD {}
    let m := if t.replayOf.isSome then t.manifest
      else s.manifestOf t.desk d t.code ((t.code.kernels[t.launch.kidx]?).getD { entry := 0 })
    let t := if t.replayOf.isSome then t else { t with vseed := d.vseed, dseed := d.dseed, eseed := d.eseed }
    let s := (s.lend t.desk t.dies).updTree id fun u =>
      { u with started := true, manifest := m, mdig := sha m, vseed := t.vseed, dseed := t.dseed, eseed := t.eseed }
    let s := t.code.data.foldl (fun (s : State) x => s.deskWrite t.desk x.1 x.2) s
    let s := if t.replayOf.isSome then s.zeroSlices t.desk t.n else s
    let s := t.code.dram.foldl (fun (s : State) x => s.deskWrite t.desk x.1 (List.replicate x.2 0)) s
    let s := t.code.staging.foldl (fun (s : State) p => s.clearStaging t.desk p t.replayOf.isSome) s
    let s := (List.range t.n).foldl (fun (s : State) l =>
      s.updCore (t.desk * 512 + l) fun c => { c with vgen := coreSeed t.vseed l, dgen := coreSeed t.dseed l, plane0 := {}, plane1 := {}, active := false }) s
    ((s.loadStencils t).loadPins t).updDesk t.desk fun d => { d with groups := [] }

/-! ## Teams (R30, R32, R35 to R38) -/

/-- The lanes of wave `tw` of a team of `tl` lanes. -/
def launchedMask (tl tw : Nat) : Mask := maskOf ((List.range 32).filter fun i => decide (32 * tw + i < tl))

/-- A wave at its start (Table 3-1, R55). -/
def freshWave (t : Tree) (g : Grid) (m : Team) (tw q : Nat) : Wave :=
  let mask := launchedMask g.tl tw
  { status := .live, tree := t.id, grid := g.ord, core := m.core, slot := m.w0 + tw, team := m.t, tw := tw, wpt := g.w
    tbase := BitVec.ofNat 64 m.sbase, launched := mask, live := mask, qnt := q, issueAt := t.base
    slotA := some { pc := BitVec.ofNat 64 (t.code.addr + g.entry), mask := mask, fmt := g.fmt } }

/-- The bytes a team's area receives at its start (R157, R299): the `.slice` copy, then ARGS, as far as the area reaches. -/
def areaBytes (g : Grid) (old : List Byte) : List Byte :=
  let bs := g.slice ++ old.drop g.slice.length
  let args := (g.args.getD []).flatMap fun x => leBytes 8 x.toNat
  (args ++ bs.drop args.length).take g.s

/-- Every bank of a team's pool holds zero (R257). -/
def State.zeroBanks (s : State) (core abase a : Nat) : State :=
  { s with accs := s.accs.filter fun x => !(decide (tileKey core abase 0 0 ≤ x.1) && decide (x.1 < tileKey core (abase + a) 0 0)) }

/-- Starts a team: its area, its bank pool (R257), its waves in the wave slots it takes (R37); in C-mode the core's tag counts are 0 (R306). -/
def State.startTeam (s : State) (t : Tree) (g : Grid) (m : Team) (q : Nat) : State :=
  let s := (s.slicePutAll (sliceKey m.core m.sbase) (areaBytes g (s.sliceBytes m.core m.sbase g.s))).zeroBanks m.core m.abase m.a
  let s := (s.updTree t.id fun t => t.updGrid g.ord fun g => { g with next := g.next.put 0 m.core (g.next.get 0 m.core + 1) })
  let s := if t.cmode then s.updCore m.core fun c => { c with tree := t.id, tags := [], recs := [], sendBusy := 0 } else s
  { s with teams := s.teams ++ [m], waves := s.waves ++ (List.range g.w).map fun tw => freshWave t g m tw q }

/-- Whether resources of a core are free of resident teams: wave slots, slice bytes and banks from the places given. -/
def State.roomAt (s : State) (core w0 w sbase sl abase a : Nat) : Bool :=
  !((s.teams.filter (·.core == core)).any fun m =>
    rangesMeet w0 w m.w0 m.w || rangesMeet sbase sl m.sbase m.s || rangesMeet abase a m.abase m.a)

/-- Teams of a grid. -/
def Grid.teams (g : Grid) : Nat := g.x * g.y * g.z

/-- The next team of a grid on a core, if any is left: its number on the core and its linear index (R35). -/
def Grid.nextTeam (g : Grid) (n core : Nat) : Option (Nat × Nat) :=
  let i := g.next.get 0 core
  let t := core % 512 + i * n
  if core % 512 < n && t < g.teams then some (i, t) else none

/-- Key of a core's `i`-th team in a grid's list of retired ones. -/
def goneKey (core i : Nat) : Nat := core * 2 ^ 32 + i

/-- The place the next team of the top grid takes: residency slot i mod P, free once team i − P has retired (R37). R49 gives its first quantum,
the one after that retirement; where the team was held back until later quanta had committed (a drain, a chorus task that waits, a save), it takes
the next quantum to commit, which is this model's choice (assumption log 62). -/
def State.topPlace (s : State) (t : Tree) (g : Grid) (core : Nat) : Option (Team × Nat) :=
  match g.nextTeam t.n core with
  | none => none
  | some (i, x) =>
    let j := i % max 1 g.p
    let m : Team := { tree := t.id, grid := g.ord, core := core, t := x, j := j, w0 := j * g.w, w := g.w, sbase := j * g.s, s := g.s, abase := j * g.a, a := g.a }
    let freed := if i < g.p then some g.firstQ else
      let r := g.gone.get 0 (goneKey core (i - g.p))
      if r = 0 then none else some r
    match freed with
    | some q => if s.roomAt core m.w0 m.w m.sbase m.s m.abase m.a then some (m, max q t.committed) else none
    | none => none

/-- Slice offset of the child reserve of a tree (R38): the top of the slice room, as its banks are the top of the 256. R36 places only its wave
slots; this is the model's choice (assumption log 63). -/
def Tree.resvSlice (t : Tree) : Nat := sliceRoom - t.resv.2.1
/-- First bank of the child reserve (assumption log 63). -/
def Tree.resvBank (t : Tree) : Nat := 256 - t.resv.2.2

/-- Places where a run of `len` may start within the reserve: its start, and the ends of what is taken there. -/
def starts (lo : Nat) (taken : List (Nat × Nat)) : List Nat :=
  ((lo :: taken.map fun x => x.1 + x.2).filter fun a => decide (lo ≤ a)).sortBy fun a b => decide (a ≤ b)

/-- The place the next team of a child grid takes: the lowest-numbered free resources of the reserve (R38). Its first quantum follows that in which
a team that held some of them retired (R49). -/
def State.childPlace (s : State) (t : Tree) (g : Grid) (core : Nat) : Option (Team × Nat) :=
  match g.nextTeam t.n core with
  | none => none
  | some (_, x) =>
    let ms := s.teams.filter (·.core == core)
    let pick := fun (lo hi len : Nat) (taken : List (Nat × Nat)) =>
      (starts lo taken).find? fun a => decide (a + len ≤ hi) && !(taken.any fun y => rangesMeet a len y.1 y.2)
    match pick (16 - t.resv.1) 16 g.w (ms.map fun m => (m.w0, m.w)), pick t.resvSlice sliceRoom g.s (ms.map fun m => (m.sbase, m.s)),
        pick t.resvBank 256 g.a (ms.map fun m => (m.abase, m.a)) with
    | some w0, some sb, some ab =>
      let here := fun (x : Leaving) => x.core == core && (rangesMeet w0 g.w x.w0 x.w || rangesMeet sb g.s x.lo x.len || rangesMeet ab g.a x.abase x.a)
      let freed := maxOf ((t.leaving.filter here).map fun x => x.q + 1)
      some ({ tree := t.id, grid := g.ord, core := core, t := x, j := 0, w0 := w0, w := g.w, sbase := sb, s := g.s, abase := ab, a := g.a },
        max (max g.firstQ freed) t.committed)
    | _, _, _ => none

/-! ## The end of a tree -/

/-- Takes away every trace of a tree in the cores: teams, waves, operations, handles, the buffer-table entries it set (R130). -/
def State.dropTree (s : State) (id : Nat) : State :=
  let mine := fun w : Wave => w.tree == id && w.status != .idle
  let wids := (s.allWaves.filter mine).map Wave.wid
  let accs := (s.accesses.filter fun a => wids.contains a.wid).map (·.id)
  let dead := fun (d : Due) => match d.ev with
    | .effect a => accs.contains a
    | .tick w => wids.contains w
    | .trecv w => wids.contains w
    | .far a => s.allWaves.any fun w => mine w && w.far.any (·.id == a)
    | .opAccept _ w _ => wids.contains w
    | _ => false
  let s := match s.tree? id with | some t => if t.started then s.dropStencils t else s | none => s
  let held := fun x : Waiting => match x with
    | .load _ _ _ t _ _ _ => t == id
    | .record t _ _ => t == id
    | .run .. => false
  { s with
    trees := s.trees.filter fun t => t.id ≠ id
    teams := s.teams.filter fun m => m.tree ≠ id
    waves := s.waves.filter fun w => !mine w
    wave := if mine s.wave then {} else s.wave
    accesses := s.accesses.filter fun a => !accs.contains a.id
    agenda := s.agenda.filter fun d => !dead d
    sends := s.sends.filter fun x => x.tree ≠ id
    flits := s.flits.filter fun x => x.task ≠ id
    held := s.held.filter fun x => !held x
    tasks := s.tasks.filter fun k => k.tree ≠ id
    cores := s.cores.map fun (k, c) => (k, { c with
      ops := c.ops.filter fun o => o.tree ≠ id
      bufs := c.bufs.filter fun b => b.2.tree ≠ id
      handles := c.handles.filter fun h => h.2.tree ≠ id
      recs := if c.tree = id then [] else c.recs
      awaits := c.awaits.filter fun x => x.1 ≠ id
      loopBuf := match c.loopBuf with | some b => if wids.contains b.wid then none else some b | none => none
      running := match c.running with | some w => if wids.contains w then none else some w | none => none
      yielded := match c.yielded with | some w => if wids.contains w then none else some w | none => none }) }

/-- Starts a launch from its body for a slot (R375): a tree, or none when it is refused. -/
def State.launch (s : State) (desk : Nat) (l : Launch) (slot : Option (Nat × Nat × Nat)) : Option (Nat × State) :=
  if s.refusesLaunch desk l then none
  else match s.kernel? desk l with
    | none => none
    | some (c, k) => some (s.newTree desk l c k slot none)

/-- Iteration `i` of a repeated launch of a body (R377): FLAGS[1] is set and ARGS word 0 holds the iteration. -/
def iterationOf (b : List Byte) (i : Nat) : Launch := { launchOf b with args := some (BitVec.ofNat 64 i :: (bodyArgs b).drop 1) }

/-- A launch tree ends with a status and a fault code (R373, R377): the harts of its desk see its retirement (R385), and its slot completes, or its
next iteration starts; a device that shuts down starts none (R28). -/
def State.endLaunch (s : State) (t : Tree) (status code : Nat) : State :=
  let s := s.signal .retirement (some t.desk)
  match t.slot with
  | none => s
  | some (d, q, i) =>
    match s.slot? d q i with
    | none => s
    | some x =>
      if status = 0 && 1 < x.left then
        if s.shutdown.isSome then s else
        let s := s.updSlot d q i fun x => { x with left := x.left - 1, iter := x.iter + 1, tree := none }
        match s.launch d (iterationOf x.body (x.iter + 1)) (some (d, q, i)) with
        | some (id, s) => s.updSlot d q i fun x => { x with tree := some id }
        | none => s.complete d q i 1 0 0
      else s.complete d q i status code t.id

end Sys2Proof.Machine
end

