-- ==== Sys2Proof/Machine/Grading.lean ====
section
/-! DEFINITION. The tests of the Proctor on the bytes of an operator's arguments, computed exactly (22_proctor.md R351 to R356, R420). -/

namespace Sys2Proof.Machine

/-! ## Exact values -/

/-- A magnitude. -/
def Val.abs : Val → Val
  | .fin _ m e => .fin false m e
  | .inf _ => .inf false
  | v => v
/-- Whether a value is finite. -/
def Val.finite : Val → Bool
  | .fin _ _ _ => true
  | _ => false
/-- Whether a value is a zero. -/
def Val.isZero : Val → Bool
  | .fin _ m _ => m = 0
  | _ => false
/-- Exact sum. -/
def Val.plus (a b : Val) : Val := (a.add b).1
/-- Exact product. -/
def Val.times (a b : Val) : Val := (a.mul b).1
/-- Exact difference. -/
def Val.minus (a b : Val) : Val := a.plus b.negate
/-- Sum of a list. -/
def Val.sum (xs : List Val) : Val := xs.foldl Val.plus (.fin false 0 0)
/-- 2^e. -/
def pow2 (e : Int) : Val := .fin false 1 e
/-- A natural number. -/
def Val.ofNat (n : Nat) : Val := .fin false n 0
/-- a ≤ b for finite values. -/
def Val.le (a b : Val) : Bool := !b.lt a

/-- Number of factors 2 of a number that is not 0. -/
def twos : Nat → Nat → Nat
  | 0, _ => 0
  | n + 1, m => if m % 2 = 0 then twos n (m / 2) + 1 else 0

/-- Whether a finite value is a multiple of 2^q. -/
def Val.multipleOf (q : Int) : Val → Bool
  | .fin _ m e => m = 0 || decide (q ≤ e + (twos (bitLen m) m : Int))
  | _ => false

/-! ## Arguments (R351) -/

/-- What a test reads of an operator: bytes of an argument by role and number, from an offset, as a number. -/
abbrev ArgRd := Nat → Nat → Nat → Nat → Nat

/-- A field of a witness record. -/
def wf (w : List Byte) (at_ n : Nat) : Nat := field w at_ n

/-- Rounding of a code of Table 5-4. -/
def rndOf (c : Nat) : Rnd :=
  match c with
  | 1 => .rz
  | 2 => .rd
  | 3 => .ru
  | 4 => .sr 0
  | _ => .rne

/-- Roles: IN 1, OUT 2, AUX 3. A shape lists role, number, bytes needed, and the EFMT asked for, if one is. -/
abbrev Shape := List (Nat × Nat × Nat × Option Nat)

/-- Whether an operator's arguments are those of a shape, each long enough (R351). -/
def shapeOk (args : List OpArg) (sh : Shape) : Bool :=
  args.length = sh.length && sh.all fun x =>
    match args.find? fun a => a.role == x.1 && a.num == x.2.1 with
    | some a => decide (x.2.2.1 ≤ a.len) && (match x.2.2.2 with | some e => a.efmt == e | none => true)
    | none => false

/-- EFMT of an argument. -/
def efmtOf (args : List OpArg) (role num : Nat) : Nat :=
  match args.find? fun a => a.role == role && a.num == num with | some a => a.efmt | none => 0

/-! ## MATP -/

/-- The fields of a MATP record. -/
structure Matp where
  a : Nat
  b : Nat
  c : Nat
  ac : Nat
  rnd : Nat
  lay : Nat
  m : Nat
  k : Nat
  n : Nat
  pa : Nat
  pb : Nat
  pc : Nat
  deriving DecidableEq, Repr

/-- Reads a MATP record (Table 22-2). -/
def matpOf (w : List Byte) : Matp :=
  ⟨wf w 1 1, wf w 2 1, wf w 3 1, wf w 4 1, wf w 5 1, wf w 6 1, wf w 8 4, wf w 12 4, wf w 16 4, wf w 20 4, wf w 24 4, wf w 28 4⟩

/-- SCALE of the operands as Table 5-9 codes it. -/
def Matp.scale (x : Matp) : Nat := if x.a = E2M1XC then 1 else x.lay / 8 % 4

/-- Bytes of `len` elements stored in a run. -/
def runBytes (fmt len : Nat) : Nat := if fmt = E2M1XC then (len + 31) / 32 * 18 else len * elemBytes fmt

/-- The arguments of MATP (Tables 22-1 and 22-2, R420). -/
def Matp.shape (x : Matp) : Shape :=
  let mat := fun (byCol : Bool) p f rows cols =>
    if byCol then (cols - 1) * p + runBytes f rows else (rows - 1) * p + runBytes f cols
  let col := fun i => bit x.lay i
  let c := (x.k + 31) / 32
  let scales := match x.lay / 8 % 4 with
    | 1 => [(1, 2, x.m * c, none), (1, 3, x.n * c, none)]
    | 2 => [(1, 2, x.m, none), (1, 3, x.n, none)]
    | _ => []
  [(1, 0, mat (col 0) x.pa x.a x.m x.k, none), (1, 1, mat (col 1) x.pb x.b x.k x.n, none)] ++ scales ++
    [(2, 0, mat (col 2) x.pc x.c x.m x.n, none)]

/-- Whether a MATP record breaks Table 22-2. -/
def Matp.malformed (x : Matp) : Bool :=
  let dim := fun d => decide (d = 0) || decide (2 ^ 24 < d)
  !mmaAllowed x.a x.b x.scale x.ac || decide (7 < x.c) || x.c = E2M1XC || decide (4 < x.rnd) || x.lay / 32 ≠ 0 ||
    (x.lay / 8 % 4 ≠ 0 && !(x.a = 3 || x.a = 4)) || (x.a = E2M1XC && x.lay % 4 ≠ 2) || dim x.m || dim x.k || dim x.n

/-- An element of A (`ab` 0: row i, index k) or B (`ab` 1: column i, index k), without its separate scale. -/
def Matp.elem (x : Matp) (rd : ArgRd) (ab i k : Nat) : Val :=
  let f := if ab = 0 then x.a else x.b
  let p := if ab = 0 then x.pa else x.pb
  let alongK := if ab = 0 then !bit x.lay 0 else bit x.lay 1
  let n := elemBytes f
  if f = E2M1XC then
    let o := i * p + k / 32 * 18
    let c := rd 1 ab (o + 2 + k % 32 / 2) 1
    blockElem (rd 1 ab o 1) (rd 1 ab (o + 1) 1) (if k % 2 = 0 then c % 16 else c / 16)
  else
    let v := rd 1 ab (if alongK then i * p + k * n else k * p + i * n) n
    if f = INT8C then Val.ofInt (BitVec.ofNat 8 v).toInt
    else match fmtOf f with
      | some g => g.decode v
      | none => .nan false

/-- The E8M0 scale of an element of A or B (R420). -/
def Matp.sc (x : Matp) (rd : ArgRd) (ab i k : Nat) : Nat :=
  match x.lay / 8 % 4 with
  | 1 => rd 1 (2 + ab) (i * ((x.k + 31) / 32) + k / 32) 1
  | 2 => rd 1 (2 + ab) i 1
  | _ => 127

/-- An element with its scale (R354). -/
def Matp.val (x : Matp) (rd : ArgRd) (ab i k : Nat) : Val :=
  let s := x.sc rd ab i k
  if s = 255 then .nan false else (x.elem rd ab i k).descale (254 - s)

/-- The stored code of element (i, n) of C. -/
def Matp.cCode (x : Matp) (rd : ArgRd) (i n : Nat) : Nat :=
  let e := elemBytes x.c
  rd 2 0 (if bit x.lay 2 then n * x.pc + i * e else i * x.pc + n * e) e

/-- The stored value of an element of C. -/
def Matp.cVal (x : Matp) (rd : ArgRd) (i n : Nat) : Val :=
  let v := x.cCode rd i n
  if x.c = INT8C then Val.ofInt (BitVec.ofNat 8 v).toInt
  else if x.c = INT32C then Val.ofInt (BitVec.ofNat 32 v).toInt
  else match fmtOf x.c with
    | some f => f.decode v
    | none => .nan false

/-- The accumulator value of an element by the rules of the array (R96 to R98). -/
def Matp.acc (x : Matp) (rd : ArgRd) (i n : Nat) : Nat :=
  let d := chunkDepth x.a
  (List.range ((x.k + d - 1) / d)).foldl (fun acc j =>
    let ks := (List.range d).map (j * d + ·) |>.filter (· < x.k)
    if x.a = INT8C then
      let c := ks.foldl (fun y k => match x.elem rd 0 i k, x.elem rd 1 n k with
        | .fin s m _, .fin t l _ => y + (if s != t then -((m * l : Nat) : Int) else ((m * l : Nat) : Int))
        | _, _ => y) (0 : Int)
      (BitVec.ofInt 32 (clamp ((BitVec.ofNat 32 acc).toInt + c) (-2147483648) 2147483647)).toNat
    else chunkUpdate (d = 16) acc (ks.map fun k => scaledProduct (x.elem rd 0 i k) (x.elem rd 1 n k) (x.sc rd 0 i k) (x.sc rd 1 n k))) 0

/-- An accumulator value converted into CFMT under a rounding: code and flags. -/
def Matp.conv (x : Matp) (r : Rnd) (acc : Nat) : Nat × Word :=
  let v := if x.ac = INT32C then Val.ofInt (BitVec.ofNat 32 acc).toInt else fp32.decode acc
  if x.c = x.ac then (acc, 0)
  else if x.c = INT8C then
    if x.ac = INT32C then let (y, g) := narrow (-128) 127 8 (BitVec.ofNat 32 acc).toInt; (y.toNat, g)
    else let (y, g) := v.toRange r (-128) 127; ((BitVec.ofInt 8 y).toNat, g)
  else if x.c = INT32C then let (y, g) := v.toRange r (-2147483648) 2147483647; ((BitVec.ofInt 32 y).toNat, g)
  else match fmtOf x.c with
    | some f => f.ofVal r v
    | none => (0, 0)

/-- Whether a stored code is a result of the conversion of an accumulator value (R355): under SR either neighbour. -/
def Matp.convOk (x : Matp) (acc code : Nat) : Bool :=
  if x.rnd ≠ 4 then (x.conv (rndOf x.rnd) acc).1 = code
  else
    let d := x.conv .rd acc; let u := x.conv .ru acc
    let near := if (d.2 ||| u.2) &&& flagOF = 0 then [d.1, u.1] else []
    ([(x.conv (.sr 0) acc).1, (x.conv (.sr 0xFFFFFFFF) acc).1] ++ near).contains code

/-- Row `i` recomputed (R355). -/
def Matp.rowExact (x : Matp) (rd : ArgRd) (i : Nat) : Bool :=
  (List.range x.n).all fun n => x.convOk (x.acc rd i n) (x.cCode rd i n)

/-- Row `i` by the vectors of R354: `z` gives the signs. -/
def Matp.rowVector (x : Matp) (rd : ArgRd) (z : Nat → Bool) (i : Nat) : Bool :=
  let ks := List.range x.k; let ns := List.range x.n
  let sgn := fun n v => if z n then v.negate else v
  let a := fun k => x.val rd 0 i k
  let b := fun k n => x.val rd 1 n k
  let y := fun k => Val.sum (ns.map fun n => sgn n (b k n))
  let w := Val.sum (ks.map fun k => (a k).times (y k))
  let xi := Val.sum (ns.map fun n => sgn n (x.cVal rd i n))
  let diff := (xi.minus w).abs
  if x.a = INT8C then diff.isZero
  else
    let m := 2 * ((x.k + chunkDepth x.a - 1) / chunkDepth x.a)
    let one := Val.sum [pow2 0, (Val.fin true m (-24))]
    let bigA := Val.sum (ks.map fun k => (a k).abs.times (Val.sum (ns.map fun n => (b k n).abs)))
    let bigC := Val.sum (ns.map fun n => (x.cVal rd i n).abs)
    let t : Int := if x.c = 1 then 11 else if x.c = 2 then 8 else if x.c = 3 then 4 else 3
    let uo := if x.c = x.ac then Val.ofNat 0 else pow2 ((if x.rnd = 0 then 1 else 2) - t)
    let lam := if chunkDepth x.a = 16 then pow2 (-43) else Val.ofNat 0
    let cols := (ns.filter fun n => ks.any fun k => !((a k).times (b k n)).isZero).length
    let odd := ks.any fun k => ns.any fun n => let p := (a k).times (b k n); !p.isZero && !p.multipleOf (-149)
    let mua := if odd then Val.fin false m (-150) else Val.ofNat 0
    let muo := if x.c = x.ac then Val.ofNat 0 else match fmtOf x.c with
      | some f => f.decode 1
      | none => Val.ofNat 0
    let delta := (Val.ofNat cols).times (mua.plus muo)
    let tau := Val.sum [(Val.fin false m (-24)).times bigA, (lam.times bigA).times one, (uo.times bigC).times one, delta.times one]
    (diff.times one).le tau

/-- Whether row `i` is checked by recomputation (R355). -/
def Matp.recompute (x : Matp) (rd : ArgRd) (i : Nat) : Bool :=
  let ks := List.range x.k; let ns := List.range x.n
  ks.any (fun k => !(x.val rd 0 i k).finite) || ns.any (fun n => ks.any fun k => !(x.val rd 1 n k).finite) ||
    ns.any (fun n => !(x.cVal rd i n).finite || (x.c = 3 && x.cCode rd i n % 128 = 0x7E)) || x.c = INT8C ||
    (x.c = INT32C && x.ac = FP32C) || (x.c ≠ INT32C && x.c ≠ INT8C && x.ac = INT32C)

/-- The test of MATP: the first row that fails. -/
def Matp.test (x : Matp) (rd : ArgRd) (z : Nat → Bool) : Option (Nat × Nat) :=
  ((List.range x.m).find? fun i => !(if x.recompute rd i then x.rowExact rd i else x.rowVector rd z i)).map fun i => (1, i)

/-! ## SORT -/

/-- Place of a key in its order (R356): signed integers; totalOrder for the floating formats. -/
def keyPlace (fmt v : Nat) : Int :=
  if fmt = INT8C then (BitVec.ofNat 8 v).toInt
  else if fmt = INT32C then (BitVec.ofNat 32 v).toInt
  else
    let h := 2 ^ (8 * elemBytes fmt - 1)
    if v < h then (v : Int) else -((v - h : Nat) : Int) - 1

/-- The tests of SORT in checking order (Table 22-3). -/
def sortTest (w : List Byte) (args : List OpArg) (rd : ArgRd) : Option (Nat × Nat) :=
  let f := wf w 1 1; let flags := wf w 2 1; let np := wf w 3 1; let n := wf w 4 4
  let perm := fun i => rd 3 0 (4 * i) 4
  let width := fun j => if j = 0 then elemBytes f else elemBytes (efmtOf args 1 j)
  let at_ := fun role j i => rd role j (width j * i) (width j)
  let key := fun i => keyPlace f (at_ 2 0 i)
  let is := List.range n
  let t1 := is.find? fun i => decide (n ≤ perm i) || (List.range i).any fun j => perm j == perm i
  let t2 := is.find? fun i => (List.range (np + 1)).any fun j => at_ 2 j i != at_ 1 j (perm i)
  let pairs := List.range (n - 1)
  let t3 := pairs.find? fun i => if bit flags 0 then decide (key i < key (i + 1)) else decide (key (i + 1) < key i)
  let t4 := if bit flags 1 then pairs.find? fun i => key i == key (i + 1) && decide (perm (i + 1) ≤ perm i) else none
  match t1, t2, t3, t4 with
  | some i, _, _, _ => some (1, i)
  | none, some i, _, _ => some (2, i)
  | none, none, some i, _ => some (3, i)
  | none, none, none, some i => some (4, i)
  | none, none, none, none => none

/-- The arguments of SORT. -/
def sortShape (w : List Byte) (args : List OpArg) : Shape :=
  let f := wf w 1 1; let np := wf w 3 1; let n := wf w 4 4
  let width := fun j => if j = 0 then elemBytes f else elemBytes (efmtOf args 1 j)
  ((List.range (np + 1)).map fun j => (1, j, width j * n, none)) ++ ((List.range (np + 1)).map fun j => (2, j, width j * n, none)) ++
    [(3, 0, 4 * n, some 7)]

/-- Whether a SORT record breaks Table 22-2. -/
def sortMalformed (w : List Byte) : Bool :=
  let f := wf w 1 1; let n := wf w 4 4
  !([0, 1, 2, 6, 7].contains f) || decide (4 ≤ wf w 2 1) || decide (6 < wf w 3 1) || n = 0 || decide (2 ^ 31 < n)

/-! ## SCAN -/

/-- The tests of SCAN (Table 22-3). -/
def scanTest (w : List Byte) (rd : ArgRd) : Option (Nat × Nat) :=
  let n := wf w 4 4
  let excl := bit (wf w 2 1) 0
  let s := fun i => (BitVec.ofNat 32 (rd 1 0 (4 * i) 4)).toInt
  let d := fun (b : Int) => if b < 0 then (BitVec.ofNat 64 (wf w 8 8)).toInt else (BitVec.ofNat 64 (rd 3 0 (8 * b.toNat) 8)).toInt
  let sum := fun lo hi => ((List.range (hi - lo)).map fun j => s (lo + j)).foldl (· + ·) 0
  let t1 := (List.range ((n + 3) / 4)).find? fun (b : Nat) =>
    decide ((d (b : Int) - d ((b : Int) - 1) - sum (4 * b) (min (4 * b + 4) n)) % 2 ^ 64 ≠ 0)
  let t2 := (List.range n).find? fun (i : Nat) =>
    let b : Nat := i / 4
    let v := d ((b : Int) - 1) + sum (4 * b) (if excl then i else i + 1)
    decide ((BitVec.ofInt 32 v).toNat ≠ rd 2 0 (4 * i) 4)
  match t1, t2 with
  | some b, _ => some (1, b)
  | none, some i => some (2, i)
  | none, none => none

/-- Whether a SCAN record breaks Table 22-2. -/
def scanMalformed (w : List Byte) : Bool :=
  let n := wf w 4 4
  wf w 1 1 ≠ INT32C || decide (2 ≤ wf w 2 1) || n = 0 || decide (2 ^ 31 < n)

/-! ## SOLV -/

/-- Entries of row `i` of the matrix: column and value (dense or CSR); none when the CSR pointers or columns do not name entries. -/
def solvRow (w : List Byte) (rd : ArgRd) (i : Nat) : Option (List (Nat × Val)) :=
  let n := wf w 4 4
  if wf w 2 1 = 0 then some ((List.range n).map fun j => (j, fp32.decode (rd 1 0 (i * wf w 12 4 + 4 * j) 4)))
  else
    let lo := rd 1 3 (4 * i) 4; let hi := rd 1 3 (4 * i + 4) 4
    let xs := (List.range (hi - lo)).map fun j => (rd 1 2 (4 * (lo + j)) 4, fp32.decode (rd 1 0 (4 * (lo + j)) 4))
    if hi < lo || wf w 8 4 < hi || xs.any (fun x => decide (n ≤ x.1)) then none else some xs

/-- The test of SOLV (Table 22-3). -/
def solvTest (w : List Byte) (rd : ArgRd) : Option (Nat × Nat) :=
  let n := wf w 4 4
  let rho := fp32.decode (wf w 16 4)
  let x := fun j => fp32.decode (rd 2 0 (4 * j) 4)
  let b := fun i => fp32.decode (rd 1 1 (4 * i) 4)
  let ok := fun i => match solvRow w rd i with
    | none => false
    | some row =>
      (b i).finite && (x i).finite && row.all (fun e => e.2.finite && (x e.1).finite) &&
        (((b i).minus (Val.sum (row.map fun e => e.2.times (x e.1)))).abs).le
          (rho.times (Val.sum ((b i).abs :: row.map fun e => e.2.abs.times (x e.1).abs)))
  ((List.range n).find? fun i => !ok i).map fun i => (1, i)

/-- The arguments of SOLV. -/
def solvShape (w : List Byte) : Shape :=
  let n := wf w 4 4; let nnz := wf w 8 4
  if wf w 2 1 = 0 then [(1, 0, (n - 1) * wf w 12 4 + 4 * n, none), (1, 1, 4 * n, none), (2, 0, 4 * n, none)]
  else [(1, 0, 4 * nnz, none), (1, 1, 4 * n, none), (1, 2, 4 * nnz, some 7), (1, 3, 4 * (n + 1), some 7), (2, 0, 4 * n, none)]

/-- Whether RHO is finite and not negative. -/
def rhoBad (v : Nat) : Bool :=
  let r := fp32.decode v
  !r.finite || (r.neg? && !r.isZero)

/-- Whether a SOLV record breaks Table 22-2. -/
def solvMalformed (w : List Byte) : Bool :=
  let n := wf w 4 4; let dense := wf w 2 1 = 0
  wf w 1 1 ≠ FP32C || decide (1 < wf w 2 1) || n = 0 || decide (2 ^ 26 < n) || (dense && wf w 8 4 ≠ 0) ||
    (!dense && wf w 12 4 ≠ 0) || rhoBad (wf w 16 4)

/-! ## XFRM -/

/-- Fraction bits of the fixed-point values below. -/
def fixBits : Nat := 256
/-- arctan(1 / x) in fixed point, by its series. -/
def arctanInv (x : Nat) : Int :=
  (List.range 200).foldl (fun (s : Int) i =>
    let t : Int := ((2 ^ fixBits / (x ^ (2 * i + 1) * (2 * i + 1)) : Nat) : Int)
    if i % 2 = 0 then s + t else s - t) 0
/-- π in fixed point (Machin's formula). -/
def piFix : Int := 4 * (4 * arctanInv 5 - arctanInv 239)
/-- Sine and cosine of an angle in fixed point, by their series. -/
def sinCos (a : Int) : Int × Int :=
  let one : Int := ((2 ^ fixBits : Nat) : Int)
  let r := (List.range 96).foldl (fun (x : Int × Int × Int) i =>
    let (term, s, c) := x
    let (s, c) := match i % 4 with
      | 0 => (s, c + term)
      | 1 => (s + term, c)
      | 2 => (s, c - term)
      | _ => (s - term, c)
    (term * a / one / ((i : Int) + 1), s, c)) (one, 0, 0)
  (r.2.1, r.2.2)
/-- Rounds a fixed-point value to 64 fraction bits, half up. -/
def to64 (x : Int) : Val :=
  let q : Int := ((2 ^ (fixBits - 64) : Nat) : Int)
  let v := (2 * x + q) / (2 * q)
  .fin (decide (v < 0)) v.natAbs (-64)
/-- The twiddle of phase p / q turns, rounded to 64 fraction bits: real and imaginary part; `inv` takes the exponent's sign +. -/
def twiddle (inv : Bool) (p q : Nat) : Val × Val :=
  let ph := p % q
  let (s, c) := sinCos (2 * piFix * ((ph : Int)) / (q : Int))
  (to64 c, to64 (if inv then s else -s))

/-- Samples of the stream T: batch and coefficient index (R353). -/
def xfrmSample (w : List Byte) (t : Nat → Byte) (i : Nat) : Nat × Nat :=
  let u := leNat ((List.range 12).map fun j => t (12 * i + j))
  (u % 2 ^ 32 % wf w 16 4, u / 2 ^ 32 % (wf w 4 4 * wf w 8 4 * wf w 12 4))

/-- Format of XFRM's parts. -/
def xfrmFmt (w : List Byte) : Fmt := if wf w 1 1 = 1 then fp16 else fp32

/-- A complex element of an argument. -/
def xfrmAt (w : List Byte) (rd : ArgRd) (role e : Nat) : Val × Val :=
  let n := elemBytes (wf w 1 1)
  ((xfrmFmt w).decode (rd role 0 (2 * n * e) n), (xfrmFmt w).decode (rd role 0 (2 * n * e + n) n))

/-- Whether a sample passes (Table 22-3). Elements stand with the index of n0 fastest (assumption log 18). -/
def xfrmOk (w : List Byte) (rd : ArgRd) (bk : Nat × Nat) : Bool :=
  let n0 := wf w 4 4; let n1 := wf w 8 4; let n2 := wf w 12 4
  let total := n0 * n1 * n2
  let base := bk.1 * wf w 20 4
  let k := bk.2
  let inv := bit (wf w 2 1) 0
  let phase := fun j => (k % n0 * (j % n0) * n1 * n2 + k / n0 % n1 * (j / n0 % n1) * n0 * n2 + k / (n0 * n1) * (j / (n0 * n1)) * n0 * n1)
  let xs := (List.range total).map fun j => (xfrmAt w rd 1 (base + j), twiddle inv (phase j) total)
  let re := Val.sum (xs.map fun x => (x.1.1.times x.2.1).minus (x.1.2.times x.2.2))
  let im := Val.sum (xs.map fun x => (x.1.1.times x.2.2).plus (x.1.2.times x.2.1))
  let a1 := Val.sum (xs.map fun x => x.1.1.abs.plus x.1.2.abs)
  let got := xfrmAt w rd 2 (base + k)
  let lim := ((fp32.decode (wf w 28 4)).plus (pow2 (-60))).times a1
  let sc := if bit (wf w 2 1) 1 then total else 1
  let near := fun (g v : Val) => g.finite && v.finite && (((Val.ofNat sc).times g).minus v).abs.le ((Val.ofNat sc).times lim)
  near got.1 re && near got.2 im

/-- The test of XFRM: the first sample that fails. -/
def xfrmTest (w : List Byte) (rd : ArgRd) (t : Nat → Byte) : Option (Nat × Nat) :=
  ((List.range (wf w 24 4)).find? fun i => !xfrmOk w rd (xfrmSample w t i)).map fun i => (1, i)

/-- The arguments of XFRM. -/
def xfrmShape (w : List Byte) : Shape :=
  let e := 2 * elemBytes (wf w 1 1)
  let n := ((wf w 16 4 - 1) * wf w 20 4 + wf w 4 4 * wf w 8 4 * wf w 12 4) * e
  [(1, 0, n, none), (2, 0, n, none)]

/-- Whether an XFRM record breaks Table 22-2. -/
def xfrmMalformed (w : List Byte) : Bool :=
  let ns := [wf w 4 4, wf w 8 4, wf w 12 4]
  let dims := wf w 3 1
  !(wf w 1 1 = 0 || wf w 1 1 = 1) || decide (4 ≤ wf w 2 1) || dims = 0 || decide (3 < dims) || ns.any (fun n => n = 0 || decide (2 ^ 30 < n)) ||
    (ns.drop dims).any (· ≠ 1) || decide (2 ^ 34 < wf w 4 4 * wf w 8 4 * wf w 12 4) || wf w 16 4 = 0 || wf w 24 4 = 0 || decide (4096 < wf w 24 4) ||
    rhoBad (wf w 28 4)

/-! ## All classes -/

/-- Whether an operator is malformed (R351, R352); the reserved bytes of its record, which lies in memory, are ignored (R5). -/
def operMalformed (cls : Nat) (w : List Byte) (args : List OpArg) : Bool :=
  wf w 0 1 ≠ cls ||
    match cls with
    | 1 => let x := matpOf w; x.malformed || !shapeOk args x.shape
    | 2 => sortMalformed w || !shapeOk args (sortShape w args)
    | 3 => scanMalformed w || !shapeOk args [(1, 0, 4 * wf w 4 4, none), (2, 0, 4 * wf w 4 4, none), (3, 0, 8 * ((wf w 4 4 + 3) / 4), some 0)]
    | 4 => solvMalformed w || !shapeOk args (solvShape w)
    | 5 => xfrmMalformed w || !shapeOk args (xfrmShape w)
    | _ => true

/-- The first failing test and its least index (R354 to R356); `t` gives the bytes of the stream T (R353). -/
def operTest (cls : Nat) (w : List Byte) (args : List OpArg) (rd : ArgRd) (t : Nat → Byte) : Option (Nat × Nat) :=
  match cls with
  | 1 => (matpOf w).test rd fun n => (t (n / 8)).getLsbD (n % 8)
  | 2 => sortTest w args rd
  | 3 => scanTest w rd
  | 4 => solvTest w rd
  | 5 => xfrmTest w rd t
  | _ => none

end Sys2Proof.Machine
end

