-- ==== Sys2Proof/Machine/Proctor.lean ====
section
/-! DEFINITION. The Proctor: acceptance of operators, grades and their posting, revocation, release, classification and charges
(22_proctor.md R350 to R366; 23_proctor_program.md R367, R368; 24_front_end.md R382). -/

namespace Sys2Proof.Machine

/-! ## Records by name -/

/-- Updates an operator. -/
def State.updOper (s : State) (id : Nat) (f : Oper → Oper) : State :=
  { s with proctor := { s.proctor with ops := s.proctor.ops.map fun o => if o.id == id then f o else o } }
/-- An operator by its number. -/
def State.oper? (s : State) (id : Nat) : Option Oper := s.proctor.ops.find? fun o => o.id == id
/-- OPID (R350). -/
def Oper.opid (o : Oper) : List Byte := leBytes 2 o.desk ++ leBytes 8 o.tree ++ leBytes 4 o.grid ++ leBytes 8 o.wave ++ leBytes 4 o.seq
/-- Whether a grade is final: CLEAR, SKIP, REJECT or REVOKED (R358). -/
def Oper.final (o : Oper) : Bool := match o.grade with | some g => g ≠ 3 | none => false
/-- The versions an operator recorded for arguments of the roles selected. -/
def Oper.versions (o : Oper) (sel : Nat → Bool) : List Version :=
  (o.vers.filter fun v => match o.args[v.1]? with | some a => sel a.role | none => false).map (·.2.1)
/-- Versions recorded as OUT or AUX. -/
def Oper.results (o : Oper) : List Version := o.versions (· ≠ 1)
/-- Versions recorded as IN. -/
def Oper.inputs (o : Oper) : List Version := o.versions (· = 1)

/-! ## Acceptance (R296, R350, R353) -/

/-- Versions that a launch tree made, and those its operators recorded as results. -/
def State.versionsOf (s : State) (tree : Nat) : List Version :=
  (((s.proctor.ops.filter fun o => o.tree == tree).flatMap Oper.results) ++ ((s.proctor.made.filter fun x => x.2 == tree).map (·.1))).eraseDups

/-- The versions of the pages of an operator's arguments (R350): argument, version, and how often the page had been cleared. A page without PBL has
none (R359). -/
def State.argVersions (s : State) (desk : Nat) (args : List OpArg) : List (Nat × Version × Nat) :=
  args.zipIdx.flatMap fun a => (s.pagesOf (deskView desk) (s.deskN desk) a.1.addr a.1.len).filterMap fun x => match x.2 with
    | .ok y => if y.pbl then some (a.2, s.proctor.version desk (x.1 - y.off) y.ver, s.proctor.wipes.get 0 (pageKey desk (x.1 - y.off))) else none
    | .error _ => none

/-- Draws `n` free dwords as bytes. -/
def State.drawBytes : Nat → State → List Byte × State
  | 0, s => ([], s)
  | n + 1, s =>
    let (x, s) := s.draw
    let (r, s) := State.drawBytes n s
    (leBytes 8 x.toNat ++ r, s)

/-- The Proctor records an operator (R350), with the physical core that ran the wave (R17) and the seed, which is free (R353); the seed policy is that of
the tree's Manifest (R353, R362). -/
def State.recordOper (s : State) (tree grid wave core : Nat) (op : OpenOp) (seq : Nat) (witness : List Byte) (handle : Option Nat) : State :=
  let desk := core / 512
  let d := (s.desk? desk).getD {}
  let vers := s.argVersions desk op.args
  let logged := match s.tree? tree with | some t => byteAt t.manifest 9 = 1 | none => false
  let (seed, s) := State.drawBytes 4 s
  let orig := match (s.tree? tree).bind (·.replayOf) with
    | some t => (s.proctor.ops.find? fun o => o.tree == t && o.grid == grid && o.wave == wave && o.seq == seq).map (·.id)
    | none => none
  let o : Oper := { id := s.proctor.nextOp, desk := desk, tree := tree, grid := grid, wave := wave, seq := seq, cls := op.cls, args := op.args, vers := vers
                    witness := witness, core := core, unit := s.place core, spot := d.spot, logged := logged, seed := seed
                    deadline := d.deadlineUs, replayOf := orig }
  let named := o.results.filter fun v => !s.proctor.named.contains v
  let s := { s with proctor := { s.proctor with ops := s.proctor.ops ++ [o], nextOp := o.id + 1, named := s.proctor.named ++ named } }
  match handle with
  | some h => s.updHandle core h fun x => { x with state := if x.state = 2 then 2 else 1, comp := s.chc }
  | none => s

/-! ## Grade entries (R382) -/

/-- An entry has been posted: a final grade completes the REGRADE slots that wait for its operator (Table 24-3). -/
def State.endRegrades (s : State) (e : List Byte) : State :=
  if byteAt e 26 = 3 || byteAt e 26 = 5 then s
  else
    let xs := s.slots.filter fun x => x.type = 5 && x.started && (x.bytes.drop 24).take 26 == e.take 26
    xs.foldl (fun (s : State) x => s.complete x.desk x.queue x.index 0 0 0) s

/-- Writes what waits for room into a desk's grade queue, at most `n` entries. -/
def State.flushGrades (desk : Nat) : Nat → State → State
  | 0, s => s
  | n + 1, s =>
    match s.desk? desk with
    | none => s
    | some d =>
      match d.gradeWait with
      | [] => s
      | e :: rest =>
        if d.gradeSlots ≤ d.gradeProd - d.gradecons then s
        else
          let i := d.gradeProd % max 1 d.gradeSlots
          let phase := 0x80 + (1 - d.gradeProd / max 1 d.gradeSlots % 2)
          let s := s.deskWrite desk (d.gradeAddr + 128 * i) (e ++ leBytes 1 phase)
          let s := (s.updDesk desk fun d => { d with gradeWait := rest, gradeProd := d.gradeProd + 1 }).signal .grades (some desk)
          State.flushGrades desk n (s.endRegrades e)

/-- Posts an entry of 127 bytes to a desk. -/
def State.post (s : State) (desk : Nat) (e : List Byte) : State :=
  let s := s.updDesk desk fun d => { d with gradeWait := d.gradeWait ++ [e] }
  State.flushGrades desk (match s.desk? desk with | some d => d.gradeWait.length | none => 0) s

/-- The entry of an operator with a code: its grade, or 5 for NOTICE; `root` the operator that began a cascade. -/
def Oper.entry (o : Oper) (code : Nat) (root : Option Oper) : List Byte :=
  o.opid ++ leBytes 1 code ++ leBytes 1 o.test ++ leBytes 4 o.index ++ leBytes 1 o.cls ++ leBytes 1 o.cls2 ++ List.replicate 30 0 ++
    (if o.logged then o.seed else List.replicate 32 0) ++ (match root with | some r => r.opid | none => List.replicate 26 0) ++ List.replicate 5 0

/-- Posts a desk's grades in acceptance order, as far as every earlier operator has one (R358). -/
def State.postGrades (s : State) (desk : Nat) : State :=
  let mine := (s.proctor.ops.filter (·.desk == desk)).takeWhile fun o => o.grade.isSome
  (mine.filter fun o => !o.posted).foldl (fun (s : State) o =>
    let root := if o.grade = some 4 then o.root.bind s.oper? else none
    (s.updOper o.id fun o => { o with posted := true }).post desk (o.entry (o.grade.getD 3) root)) s

/-! ## Release (R360, R366) -/

/-- Whether a page of a desk is a staging page (R113). -/
def State.staging (s : State) (v : Version) : Bool := match s.walk v.desk v.page with | some x => x.pbl && x.rreq | none => false

/-- Whether a version meets the conditions of R360, given the versions released so far. -/
def State.releasableNow (s : State) (v : Version) : Bool :=
  let p := s.proctor
  let makers := p.ops.filter fun o => o.results.contains v
  !p.revoked.contains v && makers ≠ [] && makers.all (fun o => o.grade == some 0 || o.grade == some 1) &&
    makers.all (fun o => o.inputs.all fun i => !s.staging i || p.released.contains i) &&
    (p.deps.filter (·.1 == v)).all fun d => p.freed.contains (d.2.1, d.2.2)

/-- Tells the devices that a version was exported to of its release, once the other versions of the export are released too, or of its revocation
(R366). -/
def State.notify (s : State) (v : Version) (op : Nat) : State :=
  (s.proctor.exports.filter fun e => e.2.1.contains v && (op = 0xF2 || e.2.1.all s.proctor.released.contains)).foldl (fun (s : State) e => s.sendNotice e op) s

/-- Releases every version that has become releasable, at most `n` of them one after another (R360); each is notified (R366). -/
def State.settleRelease : Nat → State → State
  | 0, s => s
  | n + 1, s =>
    match s.proctor.named.find? fun v => !s.proctor.released.contains v && s.releasableNow v with
    | none => s
    | some v =>
      let s := { s with proctor := { s.proctor with released := s.proctor.released ++ [v] } }
      State.settleRelease n (s.notify v 0xF1)

/-- Settles release after a change. -/
def State.release (s : State) : State := State.settleRelease s.proctor.named.length s

/-! ## Revocation (R361) -/

/-- Revokes versions and cascades: `root` the operator whose REJECT began it, none for a revocation from another device. An operator that
recorded a revoked version as IN without a final grade becomes REVOKED; one whose final grade stands receives a NOTICE. -/
def State.revoke (root : Option Nat) : Nat → List Version → State → State
  | 0, _, s => s
  | n + 1, vs, s =>
    let vs := vs.filter fun v => !s.proctor.revoked.contains v && !s.proctor.released.contains v
    if vs.isEmpty then s
    else
      let s := { s with proctor := { s.proctor with revoked := s.proctor.revoked ++ vs.eraseDups } }
      let s := vs.foldl (fun (s : State) v => s.notify v 0xF2) s
      let hit := s.proctor.ops.filter fun o => some o.id ≠ root && o.inputs.any vs.contains
      let s := hit.foldl (fun (s : State) o =>
        if o.final then
          if o.notice then s
          else (s.updOper o.id fun o => { o with notice := true }).post o.desk (o.entry 5 (root.bind s.oper?))
        else s.updOper o.id fun o => { o with grade := some 4, root := root, posted := false, notice := true }) s
      State.revoke root n (hit.flatMap Oper.results) s

/-- Revokes versions with everything that follows. -/
def State.revokeAll (s : State) (root : Option Nat) (vs : List Version) : State :=
  let s := State.revoke root (s.proctor.ops.length + 1) vs s
  (s.proctor.ops.map (·.desk)).eraseDups.foldl (fun (s : State) d => s.postGrades d) s

/-! ## Grading (R353 to R358, R367, R368) -/

/-- A byte of an argument at its recorded version (R359), or none when it cannot be read (R356): the page has another version by now, or a launch has
cleared its frames. -/
def State.operByte (s : State) (o : Oper) (k off : Nat) : Option Byte :=
  match o.args[k]? with
  | none => none
  | some a =>
    let va := a.addr + off
    match s.walk o.desk va with
    | none => none
    | some x =>
      let held := !x.pbl || o.vers.contains (k, s.proctor.version o.desk (va - x.off) x.ver, s.proctor.wipes.get 0 (pageKey o.desk (va - x.off)))
      if held && !s.badAt (.page x) then some (s.devByte (x.readFrame + x.off)) else none

/-- Number of an argument by role and number. -/
def Oper.argAt (o : Oper) (role num : Nat) : Option Nat := o.args.findIdx? fun a => a.role == role && a.num == num

/-- The first byte of the arguments, in role order and then number order, that cannot be read: its offset and its address. -/
def State.unreadable (s : State) (o : Oper) : Option (Nat × Nat) :=
  let order := o.args.zipIdx.sortBy fun a b => decide (a.1.role * 64 + a.1.num ≤ b.1.role * 64 + b.1.num)
  order.findSome? fun a => ((List.range a.1.len).find? fun i => (s.operByte o a.2 i).isNone).map fun i => (i, a.1.addr + i)

/-- The uncorrectable error, if any, that keeps the Proctor from reading an argument is recorded (R399). -/
def State.readError (s : State) (o : Oper) : State :=
  match s.unreadable o with
  | some (_, va) =>
    if s.deskBad o.desk va 1 then s.memErrorOf (deskView o.desk) (s.deskN o.desk) va { tree := o.tree, wave := o.wave, ord := o.grid } else s
  | none => s

/-- Bytes of an argument as a number. -/
def State.operRead (s : State) (o : Oper) (role num off n : Nat) : Nat :=
  match o.argAt role num with
  | some k => leNat ((List.range n).map fun i => (s.operByte o k (off + i)).getD 0)
  | none => 0

/-- The stream T of an operator (R353). -/
def Oper.streamT (o : Oper) (i : Nat) : Byte := Config.shake256 (o.seed ++ o.opid) i
/-- Whether SPOT selects an operator (R353): the first k bits of U are 0. -/
def Oper.selected (o : Oper) (k : Nat) : Bool :=
  (List.range k).all fun i => !(Config.shake256 (o.seed ++ o.opid ++ [0x53]) (i / 8)).getLsbD (i % 8)

/-- Whether the in-field test of a built core is due and has not run (R357, R396). -/
def State.testOpen (s : State) (unit : Nat) : Bool := s.tests.any fun t => t.1 * 96 + t.2.1 = unit

/-- Grade, failing test and first index of an operator, and whether it is malformed or unreadable (Table 22-4). -/
def State.judge (s : State) (o : Oper) : Nat × Nat × Nat × Bool × Bool :=
  if operMalformed o.cls o.witness o.args then (2, 0, 0, true, false)
  else
    let full := s.testOpen o.unit || o.replayOf.isSome || o.grade == some 3 ||
      match (s.trees ++ s.proctor.kept).find? (·.id == o.tree) with | some t => t.replayOf.isSome | none => false
    let skip := match o.spot with | some k => !full && !o.selected k | none => false
    if skip then (1, 0, 0, false, false)
    else match s.unreadable o with
      | some (i, _) => (2, 0, i, false, true)
      | none => match operTest o.cls o.witness o.args (s.operRead o) o.streamT with
        | some (t, i) => (2, t, i, false, false)
        | none => (0, 0, 0, false, false)

/-- The digests of R368: the witness record, and each OUT and AUX argument at its recorded version. -/
def State.operDigests (s : State) (o : Oper) : List (List Byte) :=
  sha o.witness :: (o.args.zipIdx.filter fun a => a.1.role ≠ 1).map fun a => sha ((List.range a.1.len).map fun i => (s.operByte o a.2 i).getD 0)

/-! ## Classification and charges (R363, R364) -/

/-- Charges a physical core: a counter, a time stamp, and retirement at the next reset after three charges within 24 hours (R364). -/
def State.charge (s : State) (unit : Nat) : State :=
  let p := s.proctor
  let near := (p.charges.filter fun c => c.1 == unit && decide (s.seconds - c.2 < 86400)).length
  let s := s.count (counterKey 6 unit) 16
  { s with proctor := { s.proctor with charges := s.proctor.charges ++ [(unit, s.seconds)]
                                       retireNext := if 2 ≤ near then s.proctor.retireNext ++ [unit] else s.proctor.retireNext } }

/-- Kind-6 entries of a classification: one per core charged, or one with UNIT 0xFF (R363); a replay's name its tree (R362). -/
def State.classify (s : State) (o : Oper) (tree code : Nat) (charged : List Nat) : State :=
  let e := fun u p => { kind := 6, desk := o.desk, unit := u, ploc := p, tree := tree, wave := o.wave, ord := o.grid, detail := code : Entry }
  if charged.isEmpty then s.log (e 0xFF 0)
  else charged.foldl (fun (s : State) u => (s.log (e (placeUnit u) (placePloc u))).charge u) s

/-- The replay's grade of an operator classifies the original REJECT (R363): the classification and the cores charged. -/
def classOf (orig o : Oper) : Nat × List Nat :=
  match o.grade with
  | some 0 => (1, [orig.unit])
  | some 1 => (1, [orig.unit])
  | some 2 => if o.test = orig.test && o.index = orig.index && o.digests == orig.digests then (2, []) else (3, [orig.unit, o.unit].eraseDups)
  | _ => (3, [])

/-- Classifies the original of a replay's operator once that has its final grade. -/
def State.classifyBy (s : State) (id : Nat) : State :=
  match s.oper? id with
  | none => s
  | some o =>
    match o.replayOf.bind s.oper? with
    | none => s
    | some orig =>
      if orig.grade ≠ some 2 || orig.malformed || orig.unread || orig.cls2 ≠ 0 || !o.final then s
      else
        let (c, us) := classOf orig o
        let s := (s.updOper orig.id fun x => { x with cls2 := c }).updOper id fun x => { x with cls2 := c }
        s.classify orig o.tree c us

/-- The REVOKED operators of replays that the cascade has just reached classify their originals. -/
def State.classifyRevoked (s : State) : State :=
  (s.proctor.ops.filter fun o => o.grade == some 4 && o.replayOf.isSome).foldl (fun (s : State) o => s.classifyBy o.id) s

/-- The operator whose REJECT began the cascade that revoked a version (R361); none for one from another device. -/
def State.rootOf (s : State) (v : Version) : Option Nat :=
  match s.proctor.ops.find? fun o => o.results.contains v && o.grade == some 2 with
  | some o => some o.id
  | none => (s.proctor.ops.find? fun o => o.results.contains v && o.grade == some 4).bind (·.root)

/-- The Proctor accepts an operator (R350). One that records as IN a version already revoked becomes REVOKED at once, and its own versions
with it (R358, R361). -/
def State.acceptOper (s : State) (tree grid wave core : Nat) (op : OpenOp) (seq : Nat) (witness : List Byte) (handle : Option Nat) : State :=
  let id := s.proctor.nextOp
  let s := s.recordOper tree grid wave core op seq witness handle
  match s.oper? id with
  | none => s
  | some o =>
    match o.inputs.find? s.proctor.revoked.contains with
    | none => s
    | some v =>
      let root := s.rootOf v
      (((s.updOper id fun o => { o with grade := some 4, root := root, notice := true }).revokeAll root o.results).postGrades o.desk).classifyRevoked

/-- When a replay retires, the rejects it produced no operator for are unresolved (R363). -/
def State.classifyMissing (s : State) (t : Tree) : State :=
  match t.replayOf with
  | none => s
  | some orig =>
    let xs := s.proctor.ops.filter fun o => o.tree == orig && o.grade == some 2 && !o.malformed && !o.unread && o.cls2 = 0 &&
      !(s.proctor.ops.any fun r => r.replayOf == some o.id)
    xs.foldl (fun (s : State) o => (s.updOper o.id fun x => { x with cls2 := 3 }).classify o t.id 3 [o.unit]) s

/-! ## Grades -/

/-- Gives an operator a grade with everything that follows: versions revoked (R361) or released (R360), the replay asked for (R362), the
classification (R363), the posting (R358). -/
def State.giveGrade (s : State) (o : Oper) (g : Nat × Nat × Nat × Bool × Bool) : State :=
  let (code, test, index, bad, unread) := g
  let digests := if code = 2 then s.operDigests o else []
  let s := if unread then s.readError o else s
  let s := s.updOper o.id fun x => { x with grade := some code, test := test, index := index, malformed := bad, unread := unread, digests := digests
                                            posted := false, cls2 := if bad then 4 else x.cls2 }
  let s := if code = 2 then s.revokeAll (some o.id) o.results else s.release
  let s := if bad then s.classify o o.tree 4 [] else s
  let s := (s.classifyBy o.id).classifyRevoked
  let s := (s.proctor.ops.filter fun r => r.replayOf == some o.id).foldl (fun (s : State) r => s.classifyBy r.id) s
  let replay := (s.trees ++ s.proctor.kept).any fun t => t.id == o.tree && t.replayOf.isSome
  let s := if code = 2 && !bad && !replay && !(s.proctor.replays.any fun r => r.1 == o.tree) && o.replayOf.isNone then
      { s with proctor := { s.proctor with replays := s.proctor.replays ++ [(o.tree, o.id)] } }
    else s
  s.postGrades o.desk

/-- Whether an operator that recorded an IN version must wait for the version's producers (R367). -/
def State.waitsForInputs (s : State) (o : Oper) : Bool :=
  o.inputs.any fun v => s.staging v && s.proctor.ops.any fun p => decide (p.id < o.id) && p.results.contains v && !p.final

/-- GRADE (R358): the Proctor grades an operator without a grade, or one with ABSTAIN that a REGRADE slot names. -/
def execGrade (op : Nat) (s : State) : Host.Outcome State Fault Refusal :=
  match s.oper? op with
  | none => .fault .noOccasion
  | some o =>
    let asked := s.slots.any fun x => x.type = 5 && x.started && (x.bytes.drop 24).take 26 == o.opid
    if s.waitsForInputs o || !(o.grade.isNone || (o.grade == some 3 && asked)) then .fault .noOccasion
    else .next (s.giveGrade o (s.judge o))

/-- GRADE_DEADLINE (R357): an operator without a grade is posted ABSTAIN. -/
def execGradeDeadline (op : Nat) (s : State) : Host.Outcome State Fault Refusal :=
  match s.oper? op with
  | none => .fault .noOccasion
  | some o =>
    if o.grade.isSome then .fault .noOccasion
    else .next ((s.updOper op fun x => { x with grade := some 3 }).postGrades o.desk)

/-- OPERATOR_ACCEPT (R350): the OPEND of the wave `op` whose effect is due in chorus mode takes effect. -/
def execOperatorAccept (op : Nat) (s : State) : Host.Outcome State Fault Refusal :=
  let due := s.agenda.find? fun d => decide (d.at_ ≤ s.chc) && match d.ev with
    | .opAccept _ w (.opend _ _ _ _) => w == op
    | _ => false
  match due with
  | some d =>
    match d.ev, s.wave? op with
    | .opAccept core _ (.opend o seq rec h), some w =>
      .next (({ s with agenda := s.agenda.filter fun x => x ≠ d } : State).acceptOper w.tree w.grid w.num core o seq rec h)
    | _, _ => .fault .noOccasion
  | none => .fault .noOccasion

/-! ## Notices from other devices (R366) -/

/-- RELEASE_NOTICE (R366). -/
def execReleaseNotice (src exp : Nat) (s : State) : Host.Outcome State Fault Refusal :=
  .next ({ s with proctor := { s.proctor with freed := if s.proctor.freed.contains (src, exp) then s.proctor.freed else s.proctor.freed ++ [(src, exp)] } } : State).release

/-- REVOKE_NOTICE (R366): the dependent versions are revoked, and later ones as they come. -/
def execRevokeNotice (src exp : Nat) (s : State) : Host.Outcome State Fault Refusal :=
  let s := { s with proctor := { s.proctor with struck := if s.proctor.struck.contains (src, exp) then s.proctor.struck else s.proctor.struck ++ [(src, exp)] } }
  .next ((s.revokeAll none ((s.proctor.deps.filter fun d => d.2.1 == src && d.2.2 == exp).map (·.1))).classifyRevoked)

/-- The versions whose export was revoked before their bytes came (R366). -/
def State.struckVersions (s : State) : List Version :=
  (s.proctor.deps.filter fun d => s.proctor.struck.contains d.2 && !s.proctor.revoked.contains d.1 && !s.proctor.released.contains d.1).map (·.1)

/-- Revokes them, if there are any. -/
def State.strike (s : State) : Option State :=
  match s.struckVersions with
  | [] => none
  | vs => some (s.revokeAll none vs).classifyRevoked

end Sys2Proof.Machine
end

