-- ==== Sys2Proof/Machine/Runs.lean ====
section
/-! DEFINITION. Untimed runs from other devices: windows of flows, acknowledgements and answers, and the effects of a run here (20_chorus.md R340
to R342; 22_proctor.md R366; 07_memory.md R127). -/

namespace Sys2Proof.Machine

/-- The desk that a run from another device is for: that of the chorus task whose members include the device, else the lowest desk. -/
def State.runDesk (s : State) (src : Nat) : Nat :=
  match s.tasks.find? fun k => k.members.any (·.1 == src) with
  | some k => k.desk
  | none => ((s.desks.filter fun d => d.2.isSome).map (·.1)).headD 0

/-- Sends an acknowledgement of every run below `low` of a flow. -/
def State.sendAck (s : State) (src chan low : Nat) : State :=
  s.sendRaw src (engineCore chan) (ctlFlit 3 0 s.devNo src 0 0 0 (chan % 64 * 2 ^ 32 + (low + 2 ^ 32 - 1) % 2 ^ 32) 0 0 0) [] none

/-- Returns the old value of an ADD.I64 run on the reverse flow (R342). -/
def State.sendReply (s : State) (src chan seq : Nat) (old : List Byte) : State :=
  let r : RunOut := { dev := src, chan := chan, seq := seq, op := 0x11, dest := 0, group := 0, att := 0, exp := 0, payload := old }
  s.sendRaw src (engineCore chan) (r.header s.devNo) (dataFlits 1 old) none

/-- Lowest number not received after `n` steps over those already marked. -/
def lowest : Nat → Nat → List Nat → Nat × List Nat
  | 0, low, got => (low, got)
  | n + 1, low, got => if got.contains low then lowest n ((low + 1) % 2 ^ 32) (got.filter (· ≠ low)) else (low, got)

/-- Keeps the old values of an atomic run, of the last 64 of its flow (R341). -/
def State.cacheOld (s : State) (src chan seq : Nat) (old : List Byte) : State :=
  let k := flowKey chan src
  let f : FlowIn := s.flowsIn.get {} k
  { s with flowsIn := s.flowsIn.put {} k { f with cache := ((seq, old) :: f.cache).take 64 } }

/-- The effect of a run on memory (R342): operation 0 writes, 1 to 3 combine, and ADD.I64 adds to the aligned dword at `dest`. The old values of an
atomic one are kept, and that of an ADD.I64 is answered (R341). -/
def State.doRun (s : State) (src chan seq op dest att exp : Nat) (coll : Option (Nat × Nat)) (m : Dword) (payload : List Byte) : State :=
  let desk := s.runDesk src
  let r : EngReq := { packet := [], desk := desk }
  if op = 0x10 then
    if payload.length < 8 then s
    else
      let a := dest / 8 * 8
      let old := leBytes 8 (s.atomicRead r.view (s.deskN desk) 8 a)
      let s := s.putRun r 0 a (leBytes 8 (leNat old + leNat (payload.take 8)))
      (s.cacheOld src chan seq old).sendReply src chan seq old
  else
    let old := (List.range (payload.length / 4)).flatMap fun i => leBytes 4 (s.engWord r (dest + 4 * i))
    let s := if atomicRun op then s.cacheOld src chan seq old else s
    (s.noteExport desk src exp dest payload.length).landRun desk 0 op dest att coll m payload

/-- A run acts, or is held at the mesh port of a slice that serves a chorus task (R127). -/
def State.applyRun (src chan seq op dest att exp : Nat) (coll : Option (Nat × Nat)) (m : Dword) (payload : List Byte) (s : State) : State :=
  let desk := s.runDesk src
  if (List.range payload.length).any fun i => s.heldAt (deskView desk) (s.deskN desk) 0 (dest + i) then
    { s with held := s.held ++ [.run src chan seq op dest att exp coll m payload] }
  else s.doRun src chan seq op dest att exp coll m payload

/-- Takes in the run `seq` of a flow, of operation `op` and `len` payload bytes to `dest` (R341): `act` applies it. A run below the window or already
marked is acknowledged again, and an ADD.I64 answered from the cache; one above the window is dropped. A run that gave way on its path (`cut`, R337)
goes on under its own number or the next one at the address it had reached (assumption log 14). -/
def State.takeRun (s : State) (src chan seq op dest len : Nat) (cut : Bool) (act : State → State) : State :=
  let k := flowKey chan src
  let f : FlowIn := s.flowsIn.get {} k
  let d := (seq + 2 ^ 32 - f.low) % 2 ^ 32
  let on := decide (f.cut = some (seq, dest))
  if !on && (2 ^ 31 ≤ d || f.got.contains seq) then
    let s := match f.cache.find? (·.1 == seq) with
      | some c => if op = 0x10 then s.sendReply src chan seq c.2 else s
      | none => s
    s.sendAck src chan f.low
  else if !on && 1024 ≤ d then s
  else
    let s := act s
    let f : FlowIn := s.flowsIn.get {} k
    let (low, got) := if on then (f.low, f.got) else lowest 1024 f.low (seq :: f.got)
    let s := { s with flowsIn := s.flowsIn.put {} k { f with low := low, got := got, cut := if cut then some (seq, dest + len) else if on then none else f.cut } }
    s.sendAck src chan low

end Sys2Proof.Machine
end

