-- ==== Sys2Proof/Machine/Grid.lean ====
section
/-! DEFINITION. Launch trees at work: accesses that land, the commit of quanta, teams, grids that retire, time limits, and the stop of a tree
on a fault (03_execution.md R33, R37, R40, R45 to R50, R69; 07_memory.md R111 to R119; 14_traps.md R242). -/

namespace Sys2Proof.Machine

/-! ## Which teams can start (R36 to R40, R49) -/

/-- Whether a C-mode tree that waits or runs keeps a core for itself (R40). -/
def State.reserved (s : State) (t : Tree) (core : Nat) : Bool :=
  s.trees.any fun u => u.cmode && u.id ≠ t.id && u.desk == core / 512 && match u.grid? 0 with
    | some g => decide (core % 512 < g.teams)
    | none => false

/-- Whether a tree may start teams at all, a debug stop apart. -/
def State.teamsMay (s : State) (t : Tree) : Bool := s.shutdown.isNone && !t.cmode && !t.noStart && !t.save && s.coresFree t

/-- Whether a tree may start teams now. -/
def State.mayStart (s : State) (t : Tree) : Bool := s.teamsMay t && !t.debug

/-- The team of a grid that is next on a core, where its place is free, with its first quantum (R37, R38, R49). A stopped tree starts only
teams of quanta up to its last one (R242). -/
def State.teamPlace (s : State) (t : Tree) (g : Grid) (core : Nat) : Option (Team × Nat) :=
  let place := if g.retired || s.reserved t core then none
    else if g.ord = 0 then s.topPlace t g core
    else if t.grids.any fun h => h.ord ≠ 0 && decide (h.ord < g.ord) && !h.retired && (h.nextTeam t.n core).isSome then none
    else s.childPlace t g core
  match place, t.stop with
  | some (m, q), some (last, _) => if q ≤ last then some (m, q) else none
  | p, _ => p

/-- The team of a grid that can start on a core now, with its first quantum. -/
def State.readyTeam (s : State) (t : Tree) (g : Grid) (core : Nat) : Option (Team × Nat) :=
  if !s.mayStart t || (s.core core).testDue then none else s.teamPlace t g core

/-- Whether a team of the tree is still to start in quantum `q` or before (R49): that quantum cannot commit before it has run. -/
def State.teamDue (s : State) (t : Tree) (q : Nat) : Bool :=
  s.teamsMay t && t.grids.any fun g => (List.range t.n).any fun l => match s.teamPlace t g (t.desk * 512 + l) with
    | some (_, first) => decide (first ≤ q)
    | none => false

/-! ## The commit of a quantum (R45 to R49) -/

/-- Whether a wave has closed quantum `q` of its tree (R45, R47, R394). -/
def State.closed (s : State) (w : Wave) (q : Nat) : Bool :=
  decide (q < w.qnt) || w.parked || w.status == .ended ||
    (w.status == .stopped && (s.core w.core).testDue)

/-- Waves of a tree. -/
def State.wavesOf (s : State) (tree : Nat) : List Wave := s.allWaves.filter fun w => w.tree == tree && w.status != .idle

/-! ## Which waves of L-mode may issue (R41, R48) -/

/-- Whether a wave's tree lets it issue in L-mode: one that resumes has committed its pending records (R255); a stopped tree runs only to its last quantum (R242); in a debug stop a wave issues on, in its
alternation (R58), only while it stands between a branch and its delay slot (R248; assumption log 44); and a wave whose fault is held issues
nothing until the fault is delivered (R237, R249). -/
def State.lmodeMay (s : State) (w : Wave) : Bool :=
  w.status == .live && w.wait == .none && match s.tree? w.tree with
    | none => false
    | some t => !t.cmode && !t.resuming && (match t.stop with | some (q, _) => decide (w.qnt ≤ q) | none => true) && (!t.debug || w.midBranch) &&
      !(t.held.any fun h => h.wid == w.wid)

/-- Whether a core must still wait before it chooses a wave of a tree (R48): the quantum before its last switch point has not committed. It
does not wait while a ready wave of its own has that quantum still to run, since no commit can come before that wave has run
(assumption log 31), nor while a forced save of the tree is pending. -/
def State.choiceWaits (s : State) (core tree : Nat) : Bool :=
  match s.tree? tree with
  | none => false
  | some t =>
    let q := (s.core core).awaits.get 0 tree
    decide (t.committed < q) && !t.save && !(s.allWaves.any fun w => w.core == core && w.tree == tree && s.lmodeMay w && decide (w.qnt < q))

/-- Whether a core stands at a switch point that was reached in quantum `q`, the next to commit, and has a ready wave of the tree to choose on the
state committed through quantum q − 1 (R48). -/
def State.choosing (s : State) (t : Tree) : Bool :=
  s.cores.any fun (k, c) => k / 512 == t.desk && c.running.isNone && c.awaits.get 0 t.id == t.committed &&
    s.allWaves.any fun w => w.core == k && w.tree == t.id && s.lmodeMay w

/-- Whether something of quantum `q` is left to commit. -/
def State.commitWanted (s : State) (t : Tree) (q : Nat) : Bool :=
  t.pend.any (fun r => decide (r.q ≤ q)) ||
    (s.wavesOf t.id).any (fun w => decide (q < w.qnt) || (w.status == .ended && decide (q ≤ w.qnt))) ||
    t.grids.any fun g => !g.retired && g.gone.any fun x => decide (q < x.2)

/-! ## Which grids may retire (R33) -/

/-- Engine operations of a grid's waves that are not complete. -/
def State.gridEngines (s : State) (tree ord : Nat) : Bool :=
  s.chans.any fun (_, c) => c.reqs.any fun r => r.core.isSome && r.tree == tree && r.grid == ord

/-- Whether every wave of a C-mode tree has ended. -/
def State.allEnded (s : State) (t : Tree) : Bool := (s.wavesOf t.id).all fun w => w.status == .ended

/-- Whether a dated event belongs to a C-mode tree: its accesses, matrix transfers, flits, sends and channels. -/
def State.eventOf (s : State) (t : Tree) (ev : Event) : Bool :=
  let wids := (s.wavesOf t.id).map Wave.wid
  let chan := fun c => match (s.chan c).op with
    | some o => o.req.tree == t.id
    | none => (s.chan c).queue.any fun r => r.tree == t.id
  match ev with
  | .far a => (s.wavesOf t.id).any fun w => w.far.any (·.id == a)
  | .effect a => (s.accesses.find? (·.id == a)).any fun x => wids.contains x.wid
  | .tick w => wids.contains w
  | .trecv w => wids.contains w
  | .pub _ _ _ w _ => wids.contains w
  | .start c => chan c
  | .sector c => chan c
  | .issue c => chan c
  | .line c _ _ => chan c
  | .write c => chan c
  | .entry c _ => chan c
  | .matrix c o => (s.core c).ops.any fun x => x.id == o && x.tree == t.id
  | .unit c o => (s.core c).ops.any fun x => x.id == o && x.tree == t.id
  | .send i _ => s.sends.any fun x => x.id == i && x.tree == t.id
  | .flit i => s.flits.any fun x => x.id == i && x.task == t.id
  | .landed c _ => chan c
  | .slip => true
  | .opAccept _ w _ => wids.contains w
  | _ => false

/-- Whether an exchange by PUB or the effect of an operator instruction that a C-mode tree has issued is still to come (R112, R296). -/
def State.lateEffects (s : State) (t : Tree) : Bool :=
  s.agenda.any fun d => match d.ev with
    | .opAccept .. => s.eventOf t d.ev
    | .pub .. => s.eventOf t d.ev
    | _ => false

/-- Whether a grid may retire (R33, R349). In a stopped L-mode tree child grids still do, for the waves that run on (R242). -/
def State.mayRetire (s : State) (t : Tree) (g : Grid) : Bool :=
  t.started && (t.stop.isNone || (!t.cmode && g.ord ≠ 0)) && !g.retired && !s.gridEngines t.id g.ord &&
    if t.cmode then s.teams.any (·.tree == t.id) && s.allEnded t && !(s.accesses.any fun a => (s.wavesOf t.id).any fun w => w.wid == a.wid) && !s.lateEffects t
    else decide (g.ended = g.teams) && !(s.teams.any fun m => m.tree == t.id && m.grid == g.ord) && !(t.pend.any fun r => r.grid == g.ord) &&
      !(s.held.any fun x => match x with | .record u _ r => u == t.id && r.grid == g.ord | _ => false) &&
      t.grids.all (fun h => h.parent ≠ some g.ord || h.retired) && g.gone.all fun x => decide (x.2 ≤ t.committed)

/-- Whether the next quantum of an L-mode tree may commit (R45, R49, R242); the pending records of a resumed tree do at once (R255). A core that has
to choose on the state before the commit does so first (R48), and a child grid that the last commit has let retire retires first, since its parent
resumes in this quantum (R45, R49). -/
def State.mayCommit (s : State) (t : Tree) : Bool :=
  !t.cmode && t.started && if t.resuming then true else (match t.stop with | some (q, _) => decide (t.committed < q) | none => true) &&
    s.commitWanted t t.committed && ((s.wavesOf t.id).all fun w => s.closed w t.committed) && !s.teamDue t t.committed &&
    (t.committing || (!s.choosing t && !(t.grids.any fun g => g.ord ≠ 0 && s.mayRetire t g)))

/-- Commit order (R45): grid ordinal, then %wave, then program order. -/
def Commit.before (a b : Commit) : Bool := decide (a.grid < b.grid) || (a.grid = b.grid && decide (a.wave ≤ b.wave))

/-- The records of quantum `q` in commit order. -/
def Tree.recordsOf (t : Tree) (q : Nat) : List Commit := (t.pend.filter fun r => decide (r.q ≤ q)).sortBy Commit.before

/-- The bytes a record writes: ranges of flat addresses. -/
def Commit.writes (r : Commit) : List (Nat × Nat) :=
  match r.eff with
  | .store bs => bs.map fun x => (flatOf r.core x.1, 1)
  | .atomic aop ls _ _ => ls.map fun x => (flatOf r.core x.2.1, atomicSize aop)
  | .arrive key _ => [(0x7E0000000000 + key % (512 * 0x400000), 16)]
  | .binit key _ _ => [(0x7E0000000000 + key % (512 * 0x400000), 16)]
  | _ => []

/-- Whether a record waits: for an engine operation in flight (R118), and an exchange for the grade of an operator that holds a version in its range
(R359). -/
def State.recordWaits (s : State) (t : Tree) (r : Commit) : Bool :=
  let ops := s.inFlight t.id
  (match r.eff with | .pub lo len => s.rangeHeld (deskView t.desk) t.n t.desk lo len | _ => false) || !ops.isEmpty && r.writes.any fun x => ops.any fun o => s.touchesSrc x.1 x.2 o || touches x.1 x.2 o.dst

/-- Ranges of a request: lowest byte and end. -/
def reqRanges (core : Option Nat) (p : List Byte) : (Nat × Nat) × (Nat × Nat) :=
  let r := packetRanges core p
  (match r.1 with | some x => (x.1.toNat, (x.2 + 1).toNat) | none => (0, 0), (r.2.1.toNat, (r.2.2 + 1).toNat))

/-- A child grid (R299): it starts in the quantum after the commit. -/
def childGrid (t : Tree) (r : List Byte) (parent q : Nat) (h : Option (Nat × Nat)) : Option Grid :=
  match t.code.kernels[field r 0 4]? with
  | none => none
  | some k =>
    let (x, y, z, tl) := recordShape k r
    let fl := pf r 24 1 0 2
    let depth := match t.grid? parent with | some g => g.depth | none => 0
    some { ord := t.nextOrd, parent := some parent, x := x, y := y, z := z, tl := tl, w := wavesOf tl, p := 0, s := k.s, a := k.a, depth := depth + 1
           kidx := field r 0 4, entry := k.entry, fmt := (if bit fl 0 then BitVec.ofNat 32 (field r 20 4) else k.fmt) &&& fmtMask
           args := if bit fl 1 then some ((List.range 4).map fun i => BitVec.ofNat 64 (field r (32 + 8 * i) 8)) else none
           slice := k.slice, firstQ := q + 1, handle := h }

/-- Copies bytes of slices into their committed view. -/
def State.commitBytes (s : State) (keys : List Nat) : State :=
  { s with slicesC := keys.foldl (fun m k => m.put emptyByte k (s.slices.get emptyByte k)) s.slicesC }

/-- Slice keys among the bytes an atomic's lanes name. -/
def State.laneKeys (s : State) (core n size : Nat) (vas : List Nat) : List Nat :=
  vas.flatMap fun va => (List.range size).filterMap fun i => match s.locate core n (va + i) with
    | .ok (.slice c o) => some (sliceKey c o)
    | _ => none

/-- Holds a record at the mesh port of a slice that serves a chorus task (R127). -/
def State.holdRecord (s : State) (t : Tree) (q : Nat) (r : Commit) (e : Effect) : State :=
  { s with held := s.held ++ [.record t.id q { r with eff := e }] }

/-- Applies a pending commit record at the commit of quantum `q` (R45, R46). Addresses are the flat ones of the record's core; what goes to a
slice that serves a chorus task is held there (R127). -/
def State.applyRecord (s : State) (t : Tree) (q : Nat) (r : Commit) : State :=
  let v := deskView t.desk
  let port := fun va => s.heldAt v t.n t.id va
  match r.eff with
  | .store bs =>
    let bs := bs.map fun x => (flatOf r.core x.1, x.2)
    let (later, now) := bs.partition fun x => port x.1
    let s := ({ s with nextAcc := s.nextAcc + 1 } : State).storeFar r.wid v t.n s.nextAcc now r.pc
    let s := s.commitBytes (s.laneKeys v t.n 1 (now.map (·.1)))
    if later.isEmpty then s else s.holdRecord t q r (.store later)
  | .atomic aop ls form acc =>
    let ls := ls.map fun (l, va, x, c) => (l, flatOf r.core va, x, c)
    let (later, now) := ls.partition fun x => port x.2.1
    let s := s.atomicFar r.wid v t.n aop now form acc r.pc
    let s := s.commitBytes (s.laneKeys v t.n (atomicSize aop) (now.map (·.2.1)))
    if later.isEmpty then (s.updFar acc fun x => { x with due := some s.chc }).landFar acc
    else (s.updFar acc fun x => { x with quantum := none }).holdRecord t q r (.atomic aop later form acc)
  | .arrive key bytes =>
    if s.heldSlice (key / 0x400000) t.id then s.holdRecord t q r r.eff
    else if s.badKey key then s.barrierFails r.wid t.n key s.nextAcc bytes.isNone r.pc fun s f => s.updWave r.wid fun w =>
      let w := { w with errs := w.errs ++ [f] }
      if w.wait == .arrival then w.resume (q + 1) s.chc else w
    else match s.arriveNow r.wid key bytes (q + 1) with
    | .ok s => s
    | .error p => s.updWave r.wid fun w =>
      let w := { w with errs := w.errs ++ [{ code := HANDLE, fdat := BitVec.ofNat 64 p }] }
      if w.wait == .arrival then w.resume (q + 1) s.chc else w
  | .binit key w0 w1 =>
    if s.heldSlice (key / 0x400000) t.id then s.holdRecord t q r r.eff
    else if s.badKey key then s.barrierFails r.wid t.n key s.nextAcc false r.pc fun s _ => s
    else s.slicePutAll key (leBytes 8 w0.toNat ++ leBytes 8 w1.toNat)
  | .barg => s.bargArrive t.id r.grid r.wave
  | .pub lo len => s.publish t.id t.desk lo len
  | .engine p chan h _ =>
    let (src, dst) := reqRanges (some r.core) p
    let x : EngReq := { packet := p, desk := t.desk, tree := t.id, core := some r.core, wid := r.wid, wave := r.wave, handle := h, issued := s.chc
                        grid := r.grid, seq := s.nextAcc, src := src, dst := dst, gath := gatherOf (some r.core) p }
    let s := ({ s with nextAcc := s.nextAcc + 1 } : State).updChan chan fun c => { c with delayed := c.delayed ++ [x] }
    State.runChan chan (packetSteps p) s
  | .lnch b h =>
    match s.tree? t.id with
    | none => s
    | some u =>
      match childGrid u b r.grid q (h.map fun i => (r.core, i)) with
      | none => s
      | some g =>
        let s := s.updTree t.id fun t => { t with grids := t.grids ++ [g], nextOrd := t.nextOrd + 1 }
        match h with
        | some i => s.updHandle r.core i fun x => { x with partA := g.ord }
        | none => s
  | .opend op seq rec h => s.acceptOper t.id r.grid r.wave r.core op seq rec h
  | .opbeg _ => s
  | .oparg _ => s

/-- Applies the records of quantum `q` in order, at most `n`, up to one that waits (R118). -/
def State.applyRecords (tree q : Nat) : Nat → State → State
  | 0, s => s
  | n + 1, s =>
    match s.tree? tree with
    | none => s
    | some t =>
      match t.recordsOf q with
      | [] => s
      | r :: rest =>
        if s.recordWaits t r then s
        else
          let s := s.updTree tree fun t => { t with pend := rest ++ t.pend.filter fun r => decide (q < r.q) }
          State.applyRecords tree q n (s.applyRecord t q r)

/-- Serves an access that was held for a chorus task (R127), now that its slices serve everyone: a load takes its values and lands, a record
applies. -/
def State.serve (s : State) (x : Waiting) : State :=
  let s := { s with held := s.held.erase x }
  match x with
  | .load far wid core tree ls form known =>
    let n := s.deskN (core / 512)
    let v := deskView (core / 512)
    let rd := fun va => match known.find? (·.1 == va) with | some y => y.2 | none => s.nowByte v n (flatOf core va)
    let vals := ls.map fun (l, va) => (l, readNat rd va form.size)
    let flat := ls.map fun (l, va) => (l, flatOf core va)
    let s := match s.laneBad v n flat with
      | some va => match (s.wave? wid).bind fun (w : Wave) => w.far.find? fun (y : Far) => y.id == far with
        | some f => if (s.tree? tree).isSome then s.farFails wid n far va false f.pc else s
        | none => s
      | none => s
    (s.updFar far fun y => { y with due := some s.chc, res := (form.form vals).toList }).landFar far
  | .record tree q r => match s.tree? tree with
    | some t => (s.applyRecord t q r).wakeAll
    | none => s
  | .run src chan seq op dest att exp coll m payload => s.doRun src chan seq op dest att exp coll m payload

/-- Whether an access is still held (R127). -/
def State.stillHeld (s : State) (x : Waiting) : Bool :=
  match x with
  | .load _ _ core tree ls _ _ => ls.any fun y => s.heldAt (deskView (core / 512)) (s.deskN (core / 512)) tree (flatOf core y.2)
  | .record tree _ r =>
    let at_ := fun va => s.heldAt (deskView (r.core / 512)) (s.deskN (r.core / 512)) tree (flatOf r.core va)
    match r.eff with
    | .store bs => bs.any fun y => at_ y.1
    | .atomic _ ls _ _ => ls.any fun y => at_ y.2.1
    | .arrive key _ => s.heldSlice (key / 0x400000) tree
    | .binit key _ _ => s.heldSlice (key / 0x400000) tree
    | _ => false
  | .run src _ _ _ dest _ _ _ _ payload =>
    let desk := s.runDesk src
    (List.range payload.length).any fun i => s.heldAt (deskView desk) (s.deskN desk) 0 (dest + i)

/-- Whether the slice writes of a matrix instruction are attributed to a quantum through `q` (R265). -/
def MatOp.visible (o : MatOp) (q : Nat) : Bool :=
  o.attributed && match o.quantum with | some p => decide (p ≤ q) | none => true

/-- The bytes that the matrix instructions of a core have written in its slice and nothing has written since, as a commit of quantum `q` makes them
visible (R46, R265): of each the value of the latest instruction that is attributed to a quantum through `q`, else what stood there before the first
one. -/
def State.unattributed (s : State) (tree core q : Nat) : Store Byte :=
  ((s.core core).ops.filter fun o => o.tree == tree && !o.under.isEmpty).foldl (fun (m : Store Byte) o =>
    if o.visible q then o.out.foldl (fun (m : Store Byte) x => (m.filter fun y => y.1 ≠ x.1) ++ [x]) m
    else o.under.foldl (fun (m : Store Byte) x => if m.any (fun y => y.1 == x.1) then m else m ++ [x]) m) []

/-- Whether a commit of quantum `q` would change bytes that an engine operation in flight reads or writes, by attributing a matrix instruction's slice
writes (R118, R265). -/
def State.attributeWaits (s : State) (t : Tree) (q : Nat) : Bool :=
  let ops := s.inFlight t.id
  !ops.isEmpty && s.cores.any fun (_, c) => c.ops.any fun o => o.tree == t.id && o.attributed && o.quantum == some q &&
    o.out.any fun x => let a := keyAddr x.1; ops.any fun r => s.touchesSrc a 1 r || touches a 1 r.dst

/-- The slice areas of a tree on a core whose near effects a commit makes visible: of its resident teams, and of those that have retired since
the last commit (R117). -/
def State.areasOf (s : State) (t : Tree) : List (Nat × Nat × Nat) :=
  ((s.teams.filter (·.tree == t.id)).map fun m => (m.core, m.sbase, m.s)) ++ t.leaving.map fun x => (x.core, x.lo, x.len)

/-- The committed view of the slices a tree's teams use, or have used in the quantum that commits, takes the near effects through it (R117). On
a core that teams of another tree share, it takes the teams' areas. -/
def State.syncSlices (s : State) (t : Tree) (q : Nat) : State :=
  let areas := s.areasOf t
  ((areas.map (·.1)).eraseDups).foldl (fun (s : State) core =>
    let shared := s.teams.any fun m => m.core == core && m.tree ≠ t.id
    let inside := fun k => decide (k / 0x400000 = core) &&
      (!shared || areas.any fun a => a.1 == core && decide (sliceKey core a.2.1 ≤ k) && decide (k < sliceKey core a.2.1 + a.2.2))
    let old := s.unattributed t.id core q
    let mine := s.slices.filter fun x => inside x.1
    let c := s.slicesC.filter fun x => !inside x.1
    let c := mine.foldl (fun (m : Store Byte) x => m.put emptyByte x.1 x.2) c
    { s with slicesC := old.foldl (fun (m : Store Byte) x => m.put emptyByte x.1 x.2) c }) s

/-- Judges the grid barriers of a tree. -/
def State.judgeBarriers (s : State) (tree q : Nat) : State :=
  match s.tree? tree with
  | none => s
  | some t => t.grids.foldl (fun (s : State) g => match s.tree? tree with | some t => s.bargJudge t g.ord q | none => s) s

/-- The quantum whose records commit next: of a resumed tree the least one that has any (R255). -/
def Tree.commitQ (t : Tree) : Nat :=
  if !t.resuming then t.committed
  else match t.pend.map (·.q) with
    | [] => t.committed
    | q :: r => r.foldl min q

/-- QUANTUM_COMMIT (R45): the near effects through quantum q become visible, then its cross-core effects apply in order; waits that hold
resume in quantum q + 1 (R49). A record that must wait for an engine operation (R118) keeps itself and the later ones for a later event. A resumed
tree applies its pending records only, quantum by quantum (R255). -/
def execQuantumCommit (tree : Nat) (s : State) : Host.Outcome State Fault Refusal :=
  match s.tree? tree with
  | none => .fault .noOccasion
  | some t =>
    if !s.mayCommit t || s.attributeWaits t t.commitQ then .fault .noOccasion
    else
      let q := t.commitQ
      let s := (if t.resuming then s else s.syncSlices t q).updTree tree fun t => { t with committing := true }
      let s := State.applyRecords tree q t.pend.length s
      match s.tree? tree with
      | none => .next s
      | some t =>
        if t.recordsOf q ≠ [] then .next s
        else
          let s := s.updTree tree fun t =>
            if t.resuming then { t with committing := false, resuming := !t.pend.isEmpty }
            else { t with committing := false, committed := q + 1, leaving := t.leaving.filter fun x => decide (q < x.q) }
          .next ((s.judgeBarriers tree q).wake (fun w => w.tree == tree) (q + 1))

/-- Whether the records of a quantum that may commit can make headway: the first of them does not wait. -/
def State.commitReady (s : State) (t : Tree) : Bool :=
  s.mayCommit t && !s.attributeWaits t t.commitQ && match t.recordsOf t.commitQ with
    | r :: _ => !s.recordWaits t r
    | [] => true

/-! ## Teams (R37, R38, R40) -/

/-- Whether every wave of a team has ended. -/
def State.teamEnded (s : State) (m : Team) : Bool :=
  s.allWaves.all fun w => !(w.status != .idle && w.tree == m.tree && w.grid == m.grid && w.team == m.t && w.core == m.core) || w.status == .ended

/-- L-mode teams whose last wave has ended retire from their cores (R37); what they wrote near by stays to be committed (R117). -/
def State.reapTeam (s : State) (m : Team) : State :=
  let mine := fun w : Wave => w.status != .idle && w.tree == m.tree && w.grid == m.grid && w.team == m.t && w.core == m.core
  let q := maxOf ((s.allWaves.filter mine).map (·.qnt))
  let i := m.t / max 1 (match s.tree? m.tree with | some t => t.n | none => 1)
  let s := s.updTree m.tree fun t =>
    { t.updGrid m.grid fun g => { g with gone := g.gone.put 0 (goneKey m.core i) (q + 1), ended := g.ended + 1 } with
      leaving := t.leaving ++ [{ core := m.core, lo := m.sbase, len := m.s, q := q, w0 := m.w0, w := m.w, abase := m.abase, a := m.a }] }
  { s with teams := s.teams.filter (· ≠ m), waves := s.waves.filter fun w => !mine w, wave := if mine s.wave then {} else s.wave }

/-- A team that can retire now. -/
def State.deadTeam (s : State) : Option Team :=
  s.teams.find? fun m => (match s.tree? m.tree with | some t => !t.cmode | none => true) && s.teamEnded m

/-- TEAM_START (R37). -/
def execTeamStart (tree grid core : Nat) (s : State) : Host.Outcome State Fault Refusal :=
  match s.tree? tree with
  | none => .fault .noOccasion
  | some t =>
    match t.grid? grid with
    | none => .fault .noOccasion
    | some g =>
      if core / 512 ≠ t.desk then .fault .noOccasion
      else match s.readyTeam t g core with
        | none => .fault .noOccasion
        | some (m, q) =>
          let s := s.beginTree tree
          match s.tree? tree with
          | none => .fault .noOccasion
          | some t => .next (s.startTeam t g m q)

/-! ## Retirement (R33, R34, R373) -/

/-- Keeps an ended tree for as long as one of its operators may be rejected (R362). -/
def State.keep (s : State) (t : Tree) : State :=
  if s.proctor.ops.any (fun o => o.tree == t.id && !o.final) || s.proctor.replays.any (·.1 == t.id) then
    { s with proctor := { s.proctor with kept := s.proctor.kept ++ [t] } }
  else s

/-- The 32 MiB page of a desk's partition that holds a physical 16 KiB granule. -/
def Desk.pageOf (d : Desk) (g : Nat) : Option Nat :=
  let pa := g * 0x4000
  (List.range 8).findSome? fun j =>
    let a := j * 2 ^ 36 + pa % 2 ^ 36
    if d.stackMap.getD j 0 = pa / 2 ^ 36 && decide (d.memLo ≤ a) && decide (a < d.memLo + d.memLen) then some ((a - d.memLo) / 0x2000000) else none

/-- The pages of a desk's partition that hold a retired granule (R399). -/
def State.retiredPages (s : State) (d : Desk) : List Nat := s.proctor.granules.filterMap d.pageOf

/-- Where firmware keeps the page-table entry of a page of a partition that begins at `lo` (assumption log 25). -/
def leafAt (lo page : Nat) : Nat := lo + 0x4000 * ((page + 1) / 2048 + 1) + 8 * ((page + 1) % 2048)

/-- Once no launch tree of a desk is left, firmware takes back the mapping of its retired granules (R399). -/
def State.withdraw (s : State) (desk : Nat) : State :=
  match s.desk? desk with
  | none => s
  | some d =>
    if s.trees.any (·.desk == desk) || s.saved.any (fun x => x.held && x.tree.desk == desk) then s
    else (s.retiredPages d).foldl (fun (s : State) i => s.devPut (onStack d.stackMap (leafAt d.memLo i)) (leBytes 8 0)) s

/-- A launch tree ends with a status and a fault code (R373). -/
def State.endTree (s : State) (t : Tree) (status code : Nat) : State :=
  let cores := ((s.teams.filter (·.tree == t.id)).map (·.core)).eraseDups
  let s := if t.cmode then cores.foldl (fun (s : State) core =>
      { s with slicesC := (s.slicesC.filter fun x => decide (x.1 / 0x400000 ≠ core)) |> fun c =>
          (s.slices.filter fun x => decide (x.1 / 0x400000 = core)).foldl (fun (m : Store Byte) x => m.put emptyByte x.1 x.2) c }) s
    else s
  let s := (((s.keep t).classifyMissing t).dropTree t.id).withdraw t.desk
  (if t.cmode then s.wakeAll else s).endLaunch t status code

/-- The timed runs of this device leave its links when its grid stops (R344). -/
def State.dropTimed (s : State) : State := s.dropRuns fun r => r.timed && r.dev == s.devNo

/-- GRID_RETIRE (R33): a child grid completes its handle, which wakes a parent that waits in the quantum after the last commit (R49); the grid of
ordinal 0 ends the launch tree. -/
def execGridRetire (tree grid : Nat) (s : State) : Host.Outcome State Fault Refusal :=
  match s.tree? tree with
  | none => .fault .noOccasion
  | some t =>
    match t.grid? grid with
    | none => .fault .noOccasion
    | some g =>
      if !s.mayRetire t g then .fault .noOccasion
      else if g.ord = 0 then .next (s.endTree t 0 0)
      else
        let s := s.updTree tree fun t => t.updGrid grid fun g => { g with retired := true }
        let s := match g.handle with
          | some (c, h) => s.updHandle c h fun x => { x with state := if x.state = 2 then 2 else 1, comp := s.chc }
          | none => s
        .next (s.wake (fun w => w.tree == tree && match w.wait with | .child _ => true | _ => false) t.wakeQ)

/-! ## Time limits (R50, R69) -/

/-- Whether a wave can issue in the present state of things: it neither waits nor stalls. -/
def Wave.idleNow (w : Wave) : Bool := w.status != .live || w.wait != .none || w.stalled

/-- Waves of a tree that have still to run: in a stopped L-mode tree only those that have not closed its last quantum (R242). -/
def State.running (s : State) (t : Tree) : List Wave :=
  (s.wavesOf t.id).filter fun w => w.status == .live && match t.stop with
    | some (q, _) => !t.cmode && !w.parked && decide (w.qnt ≤ q)
    | none => true

/-- Whether a wave retires nothing in the present state of things: it cannot issue, or its core, which runs no wave, must not choose it yet (R48). -/
def State.idleWave (s : State) (w : Wave) : Bool :=
  w.idleNow || ((s.core w.core).running.isNone && s.choiceWaits w.core w.tree)

/-- Whether a tree has run into a limit of R50: a wave in an implicit quantum wait, or no wave that issues and nothing of an engine or matrix unit
under way. The time of a save, of a debug stop and of an in-field test of one of its cores does not count. -/
def State.quantumStuck (s : State) (t : Tree) : Bool :=
  let ws := s.running t
  let implicit := ws.any fun w => match w.wait with | .commit _ => !w.parked | _ => false
  ws ≠ [] && !t.save && !t.debug && !((s.wavesOf t.id).any fun w => (s.core w.core).testDue) &&
    (implicit || (ws.all s.idleWave && !s.busyFor t.id))

/-- QUANTUM_TIME_LIMIT (R50): every waiting or stalled wave of the tree takes QTIME, and the tree stops as a fault. A wave that counts as having
closed quanta that have committed takes it in the first one that has not. When the limit passes is open (assumption log 11). -/
def execQuantumTimeLimit (tree : Nat) (s : State) : Host.Outcome State Fault Refusal :=
  match s.tree? tree with
  | none => .fault .noOccasion
  | some t =>
    if !s.quantumStuck t then .fault .noOccasion
    else
      let hit := (s.wavesOf tree).filter fun w => w.status == .live && (w.wait != .none || w.stalled)
      let s := hit.foldl (fun (s : State) w =>
        match w.frag with
        | some f => s.halt t w.wid (w.raised f t { code := QTIME } (if t.cmode then s.chc else max w.qnt t.committed))
        | none => s) s
      .next (if s.holdsFaults t then s
        else s.mapWaves fun w => if w.tree == tree && hit.any (fun v => v.wid == w.wid) then { w with status := .faulted } else w)

/-- A wave that waits at a switch point stops for a forced save (R70, R72), but not between a branch and its delay slot (R73). -/
def Wave.stopAtSwitch (w : Wave) : Wave :=
  if w.wait != .none && w.maySettle then { w with status := .stopped } else w

/-- The least epoch over every wave of a C-mode grid (R345); a wave that has ended counts with the last one it marked (R349). -/
def State.leastEpoch (s : State) (tree : Nat) : Nat :=
  match s.wavesOf tree with
  | w :: r => r.foldl (fun m v => min m v.epoch) w.epoch
  | [] => 0

/-- The last restart epoch that every core of a C-mode grid has passed (R71): its core record waits for no wave that has ended (R307); once all have
ended, the latest that one marked. -/
def State.commonEpoch (s : State) (tree : Nat) : Nat :=
  match (s.wavesOf tree).filter fun w => w.status != .ended with
  | w :: r => r.foldl (fun m v => min m v.epoch) w.epoch
  | [] => maxOf ((s.wavesOf tree).map (·.epoch))

/-- Whether a window exempts the tree's save for now (R72, R297). -/
def State.saveExempt (s : State) (t : Tree) : Bool := (s.wavesOf t.id).any fun w => w.status == .live && w.exempt

/-- Whether a forced save of a tree can still be asked for: none is, and no fault ends it; a C-mode grid that waits for a rewind is saved in its
place (R348). -/
def Tree.savable (t : Tree) : Bool :=
  !t.save && match t.stop with
    | none => true
    | some (_, rs) => t.cmode && rs.isEmpty

/-- Asks for a forced save of a tree (R70, R71), `why` 1 for pre-emption, 2 for a debug stop, 3 for a throttle point, 4 for a test, 5 for shutdown: L-mode waves at a switch point stop there at once. -/
def State.askSave (s : State) (tree why : Nat) : State :=
  let least := s.commonEpoch tree
  let s := s.updTree tree fun t => { t with save := true, saveWhy := why, noStart := true, saveEpoch := least }
  match s.tree? tree with
  | some t => if t.cmode then s else s.mapWaves fun w => if w.tree == tree then w.stopAtSwitch else w
  | none => s

/-- PREEMPTION_TIME_LIMIT (R69, R40): teams are still resident of a tree that drains for another desk, or that holds cores of a C-mode launch that
waits; a forced save follows, unless one did not fit (R378). The time of an in-field test of its cores does not count (R394). When the limit passes is open (assumption log 11). -/
def execPreemptionTimeLimit (tree : Nat) (s : State) : Host.Outcome State Fault Refusal :=
  match s.tree? tree with
  | none => .fault .noOccasion
  | some t =>
    let held := s.teams.any fun m => m.tree == tree && s.reserved t m.core
    if !t.save && !t.unsaved && t.stop.isNone && (s.teams.any (·.tree == tree)) && !(s.teams.any fun m => m.tree == tree && (s.core m.core).testDue) && (t.noStart || held) then .next (s.askSave tree 1)
    else .fault .noOccasion

/-! ## The stop on a fault (R242) -/

/-- Drops what a stopped C-mode tree still has under way (R344, R348). -/
def State.clearTree (s : State) (t : Tree) : State :=
  let wids := (s.wavesOf t.id).map Wave.wid
  let mine := fun r : EngReq => r.tree == t.id
  let s := s.dropTimed
  { s with
    agenda := s.agenda.filter fun d => !s.eventOf t d.ev
    accesses := s.accesses.filter fun a => !wids.contains a.wid
    clashes := []
    chans := s.chans.map fun (k, c) => (k, { c with queue := c.queue.filter fun r => !mine r
                                                    delayed := c.delayed.filter fun r => !mine r
                                                    op := match c.op with | some o => if mine o.req then none else some o | none => none })
    sends := s.sends.filter (·.tree ≠ t.id)
    flits := s.flits.filter (·.task ≠ t.id)
    slip := none
    calendar := []
    cores := s.cores.map fun (k, c) => (k, if k / 512 = t.desk then
      { c with ops := c.ops.filter fun o => o.tree ≠ t.id, claims := [], sendBusy := 0, handles := c.handles.filter fun h => h.2.tree ≠ t.id } else c) }

/-- Whether every wave of a tree that stops on a fault has stopped. -/
def State.faultSettled (s : State) (t : Tree) : Bool :=
  match t.stop with
  | none => false
  | some (q, rs) =>
    rs ≠ [] &&
    if t.cmode then decide (q < s.chc) && !(s.accesses.any fun a => (s.wavesOf t.id).any fun w => w.wid == a.wid) && !s.lateEffects t
    else !s.mayCommit t && (s.running t).isEmpty && !s.teamDue t q

/-- Order of the faults of a stop (R242): %wave in L-mode, and of equal %wave in several grids of the tree the lower grid ordinal first, which is
this model's choice (assumption log 45); logical core and then %wave in C-mode. -/
def Raised.before (cmode : Bool) (a b : Raised) : Bool :=
  if cmode then decide (a.core < b.core) || (a.core = b.core && decide (a.wave ≤ b.wave))
  else decide (a.wave < b.wave) || (a.wave = b.wave && decide (a.grid ≤ b.grid))

/-- The entry of a fault (Tables 26-1 and 26-2), but for the place of its core. -/
def Raised.entry (r : Raised) (t : Tree) : Entry :=
  { kind := r.kind, code := r.code, flags := r.flags, desk := t.desk, tree := t.id, wave := r.first.getD r.wave, ord := r.grid, pcoff := r.pc
    addr := r.addr, lanes := r.lanes.toNat, detail := r.detail }

/-- Writes the entries of a stopped tree and answers the code it completes with: that of the first fault of quantum q*, or of the fault's
cycle. -/
def State.faultEntries (s : State) (t : Tree) : Nat × State :=
  match t.stop with
  | none => (0, s)
  | some (q, rs) =>
    let hit := (rs.filter fun r => r.q == q).sortBy (Raised.before t.cmode)
    let code := match hit with | r :: _ => r.code | [] => 0
    (code, hit.foldl (fun (s : State) r => s.logAt r.chc (s.atCore (t.desk * 512 + r.core) (r.entry t))) s)

/-- TREE_FAULT_STOP (R242): every wave has stopped; the entries are written and the launch completes with the code. -/
def execTreeFaultStop (tree : Nat) (s : State) : Host.Outcome State Fault Refusal :=
  match s.tree? tree with
  | none => .fault .noOccasion
  | some t =>
    if !s.faultSettled t then .fault .noOccasion
    else
      let (code, s) := s.faultEntries t
      .next ((if t.cmode then s.clearTree t else s).endTree t 2 code)

end Sys2Proof.Machine
end

