-- ==== Sys2Proof/Machine/Image.lean ====
section
/-! DEFINITION. Context images as bytes: their layout, their seal, and the tree an image gives back (14_traps.md R251 to R254, Tables 14-5 to 14-13;
16_isa_matrix.md R279; 28_security.md R404). Where a table orders fields and gives no offsets, the offsets are this model's (assumption log 19). -/

namespace Sys2Proof.Machine

/-! ## Building blocks -/

/-- A length rounded up to a multiple. -/
def roundUp (n k : Nat) : Nat := (n + k - 1) / k * k

/-- A record cut, or filled with zeros, to its size. -/
def sized (n : Nat) (bs : List Byte) : List Byte := (bs ++ List.replicate n 0).take n

/-- A code address as its offset from the start of the code object. -/
def Tree.offBytes (t : Tree) (p : Dword) : List Byte := leBytes 4 (p - BitVec.ofNat 64 t.code.addr).toNat
/-- The code address of an offset. -/
def Tree.codeAt (t : Tree) (off : Nat) : Dword := BitVec.ofNat 64 (t.code.addr + off)

/-- No PC, in a field that may hold none. -/
def noPc : Nat := 0xFFFFFFFF

/-! ## The wave record (Table 14-5) -/

/-- A fragment slot in 32 bytes: PC offset, mask, join, FMT, SIG, state (1 occupied), and the delay-slot marker: its kind (1 goto, 2 a split, which
then stands in the pending-split area), its target and its branch's PC. -/
def Tree.fragBytes (t : Tree) : Option Frag → List Byte
  | none => List.replicate 32 0
  | some f => t.offBytes f.pc ++ leBytes 4 f.mask.toNat ++ (match f.join with | some j => t.offBytes j | none => leBytes 4 noPc) ++
      leBytes 4 f.fmt.toNat ++ leBytes 4 f.sig.toNat ++ leBytes 1 1 ++
      match f.after with
      | none => leBytes 11 0
      | some (.goto p) => leBytes 3 1 ++ t.offBytes p ++ t.offBytes f.branchPc
      | some (.split _ _) => leBytes 3 2 ++ leBytes 4 0 ++ t.offBytes f.branchPc

/-- A pending split in 160 bytes (R241): the branch's PC, its join, the undivided mask, each lane's target, and each lane's place in the order of
the groups, five bits a lane; a plain target has no join. -/
def Tree.splitBytes (t : Tree) : Option (Dword × After) → List Byte
  | none => List.replicate 160 0
  | some (pc, a) =>
    let (gs, j) := match a with
      | .goto p => ([(p, (0xFFFFFFFF : Mask))], leBytes 4 noPc)
      | .split gs j => (gs, t.offBytes j)
    let of := fun (l : Nat) => gs.zipIdx.find? fun g => g.1.2.getLsbD l
    let order := (List.range 32).foldl (fun n l => n + (match of l with | some g => g.2 | none => 0) * 32 ^ l) 0
    t.offBytes pc ++ j ++ leBytes 4 (gs.foldl (fun (m : Mask) g => m ||| g.2) 0).toNat ++
      ((List.range 32).flatMap fun l => match of l with | some g => t.offBytes g.1.1 | none => leBytes 4 0) ++ leBytes 20 order

/-- Kind of a wait and its operands. -/
def Wait.codes : Wait → Nat × Nat × Nat × Nat
  | .none => (0, 0, 0, 0)
  | .commit n => (1, n, 0, 0)
  | .phase key p => (2, key, p, 0)
  | .arrival => (3, 0, 0, 0)
  | .word key c wide b => (4, key, c + 256 * flagOf wide, b.toNat)
  | .grid g => (5, g, 0, 0)
  | .child h => (6, h, 0, 0)

/-- The wait of a kind and operands. -/
def Wait.ofCodes : Nat → Nat → Nat → Nat → Wait
  | 1, n, _, _ => .commit n
  | 2, key, p, _ => .phase key p
  | 3, _, _, _ => .arrival
  | 4, key, c, b => .word key (c % 256) (c / 256 = 1) (BitVec.ofNat 64 b)
  | 5, g, _, _ => .grid g
  | 6, h, _, _ => .child h
  | _, _, _, _ => .none

/-- What an instruction that waits has done, in a byte and a half-word. -/
def Ticket.codes : Option Ticket → Nat × Nat
  | none => (0, 0)
  | some .done => (1, 0)
  | some (.arrived p) => (2, p)
  | some .sent => (3, 0)
  | some .ended => (4, 0)
  | some .drain => (5, 0)
  | some (.tick n) => (6, n)
  | some .waiting => (7, 0)

/-- The ticket of a code. -/
def Ticket.ofCodes : Nat → Nat → Option Ticket
  | 1, _ => some .done
  | 2, p => some (.arrived p)
  | 3, _ => some .sent
  | 4, _ => some .ended
  | 5, _ => some .drain
  | 6, n => some (.tick n)
  | 7, _ => some .waiting
  | _, _ => none

/-- The 96 bytes after the fragment slots: %fflags, the ticket and its operand, %fc, %qnt, instructions retired, the wait and its operands, the
DISPRE count, Start, End, %lcnt, the operator sequence number, status, parking and whether FWAITC ended the quantum, in chorus mode the offset from %base at which the
wave issues next, the depth of the split stack, and the lanes that have not exited. -/
def Tree.quantumBytes (t : Tree) (w : Wave) (at_ : Nat) : List Byte :=
  let (k, a, b, c) := w.wait.codes
  let (tk, tn) := Ticket.codes w.ticket
  leBytes 4 w.fflags.toNat ++ leBytes 1 tk ++ leBytes 3 tn ++ leBytes 8 w.fc.toNat ++ leBytes 8 w.qnt ++ leBytes 4 w.retired ++ leBytes 4 k ++ leBytes 8 a ++ leBytes 4 b ++
    leBytes 8 c ++ leBytes 4 (match w.dispre with | some n => n + 1 | none => 0) ++ t.offBytes w.loopStart ++ t.offBytes w.loopEnd ++ leBytes 8 w.lcnt.toNat ++
    leBytes 4 w.opSeq ++ leBytes 4 (flagOf w.parked + 2 * flagOf (w.status == .faulted) + 4 * flagOf w.fwaited) ++ leBytes 8 at_ ++
    leBytes 4 w.depth ++ leBytes 4 w.live.toNat

/-- A pattern slot in 48 bytes: the record of Table 13-3, i, cur, valid. -/
def Pat.bytes (p : Pat) : List Byte :=
  leBytes 8 p.base.toNat ++ leBytes 4 p.lstr.toNat ++ leBytes 4 p.astr.toNat ++ leBytes 4 p.count.toNat ++ leBytes 12 0 ++ leBytes 4 p.i.toNat ++
    leBytes 8 p.cur.toNat ++ leBytes 4 (flagOf p.valid)

/-- An in-flight result in 144 bytes: what it writes (1 a vector register, 2 s, 3 a, 4 k, 5 m, 6 bits of m, 7 h; 8 to 10 the value of a
pending commit record, as lanes, as register pairs, as a scalar), its register, slot, lanes, slots remaining, the record it is tied to
(its place in the pending list + 1), the PC of its instruction, and the value. -/
def flightBytes (kind reg : Nat) (slot : Bool) (lanes left tie : Nat) (pc : List Byte) (value : List Byte) : List Byte :=
  leBytes 1 kind ++ leBytes 1 reg ++ leBytes 1 (flagOf slot) ++ leBytes 1 0 ++ leBytes 4 lanes ++ leBytes 2 left ++ leBytes 2 tie ++ pc ++ sized 128 value

/-- The in-flight records of a result. -/
def Res.records (slot : Bool) (left : Nat) : Res → List (List Byte)
  | .vec r xs => [flightBytes 1 r slot (maskOf (xs.map (·.1))).toNat left 0 (leBytes 4 0)
      ((List.range 32).flatMap fun l => leBytes 4 (match xs.find? (·.1 == l) with | some x => x.2.toNat | none => 0))]
  | .sca r x => [flightBytes 2 r slot 0 left 0 (leBytes 4 0) (leBytes 8 x.toNat)]
  | .adr r x => [flightBytes 3 r slot 0 left 0 (leBytes 4 0) (leBytes 8 x.toNat)]
  | .kmod r x => [flightBytes 4 r slot 0 left 0 (leBytes 4 0) (leBytes 8 x.toNat)]
  | .msk r x => [flightBytes 5 r slot 0xFFFFFFFF left 0 (leBytes 4 0) (leBytes 4 x.toNat)]
  | .bits r x m => [flightBytes 6 r slot m.toNat left 0 (leBytes 4 0) (leBytes 4 x.toNat)]
  | .hnd r x => [flightBytes 7 r slot 0 left 0 (leBytes 4 0) (leBytes 8 (match x with | some h => h | none => allOnes))]
  | .two a b => a.records slot left ++ b.records slot left

/-- The in-flight records of a far access tied to a pending commit record (R253), of its core's pending effects in order. -/
def Tree.tiedRecords (t : Tree) (effs : List Effect) (x : Far) : List (List Byte) :=
  effs.zipIdx.flatMap fun r => match r.1 with
    | .atomic _ ls form acc =>
      if acc ≠ x.id then []
      else
        let tied := fun kind reg v => [flightBytes kind reg false (maskOf (ls.map (·.1))).toNat 0 (r.2 + 1) (t.offBytes x.pc) v]
        match form with
        | .lanes v => tied 8 v []
        | .pairs v => tied 9 v []
        | .scalar d size sx => tied 10 d (leBytes 1 size ++ leBytes 1 (flagOf sx))
        | _ => []
    | _ => []

/-- A wave record, m0 as it reads (R30); `effs` are its core's pending effects, `stack` is its split-stack area and `at_` the offset from %base at which a C-mode wave
issues next. -/
def Tree.waveBytes (t : Tree) (effs : List Effect) (w : Wave) (stack : List Byte) (at_ : Nat) : List Byte :=
  let marked := (w.slotA.toList ++ w.slotB.toList).find? fun (f : Frag) => match f.after with | some a => a.isSplit | none => false
  let split := marked.bind fun (f : Frag) => f.after.map fun a => (f.branchPc, a)
  let psplit := match w.psplit with
    | some (pc, .split g j) => some (pc, .split g j)
    | x => split.or x
  sized 8192 ((List.range 2048).flatMap fun i => leBytes 4 (w.v.get 0 i).toNat) ++
    sized 256 ((List.range 32).flatMap fun i => leBytes 8 (w.s.get 0 i).toNat) ++
    sized 128 ((List.range 16).flatMap fun i => leBytes 8 (w.a.get 0 i).toNat) ++
    sized 64 ((List.range 8).flatMap fun i => leBytes 8 (w.k.get 0 i).toNat) ++
    sized 32 ((List.range 8).flatMap fun i => leBytes 4 (w.rm i).toNat) ++
    sized 128 ((List.range 16).flatMap fun i => leBytes 8 (match w.h.get none i with | some h => h | none => allOnes)) ++
    sized 64 (t.fragBytes w.slotA ++ t.fragBytes w.slotB) ++ sized 96 (t.quantumBytes w at_) ++
    sized 64 (leBytes 8 w.fault.toNat ++ leBytes 8 w.faddr.toNat ++ leBytes 8 w.epc.toNat ++ leBytes 8 w.etgt.toNat ++ leBytes 8 w.hpc.toNat ++
      leBytes 8 w.fdat.toNat ++ leBytes 1 (flagOf w.cur)) ++
    sized 384 ((List.range 8).flatMap fun i => (w.pats.get {} i).bytes) ++ sized 1024 stack ++
    sized 6912 ((w.flight.flatMap fun f => f.res.records f.slot f.left).flatten ++ (w.far.flatMap (t.tiedRecords effs)).flatten) ++
    sized 160 (t.splitBytes psplit) ++ sized 32 []

/-- Bytes of a wave record. -/
def waveSize : Nat := 17536

/-! ## Teams and cores (Tables 14-8 to 14-13) -/

/-- Bytes of a team record. -/
def teamSize (w a s : Nat) : Nat := 64 + 256 + roundUp s 16 + 2048 * a + waveSize * w

/-- The wave record of slot `tw` of a team. -/
def Saved.waveOf (v : Saved) (m : Team) (tw : Nat) : Option Wave :=
  v.waves.find? fun w => w.core == m.core && w.grid == m.grid && w.team == m.t && w.tw == tw && w.status != .idle

/-- The chorus offset at which a saved wave issues next, plus one; 0 at the grid's start. -/
def Saved.offsetOf (v : Saved) (w : Wave) : Nat :=
  if !v.tree.cmode then 0 else match w.records.find? (·.epoch == v.epoch) with | some r => r.off + 1 | none => 0

/-- A team record (Table 14-13's header, owners, slice area, banks, waves). -/
def Saved.teamBytes (v : Saved) (effs : List Effect) (m : Team) : List Byte :=
  let t := v.tree
  let g := (t.grid? m.grid).getD {}
  let ws := (List.range m.w).map fun tw => v.waveOf m tw
  let alive := maskOf ((List.range m.w).filter fun tw => match v.waveOf m tw with | some w => w.status != .ended | none => false)
  let arrived := maskOf ((List.range m.w).filter fun tw => g.bargIn.contains (m.t * g.w + tw))
  sized 64 (leBytes 8 m.t ++ leBytes 1 m.j ++ leBytes 1 m.w ++ leBytes 2 m.a ++ leBytes 4 m.s ++ leBytes 4 arrived.toNat ++ leBytes 4 g.bargGen ++
      leBytes 4 alive.toNat) ++
    sized 256 ((List.range 256).flatMap fun b => leBytes 1 (m.owners.get 0 b + 255)) ++
    sized (roundUp m.s 16) (v.slices.gets emptyByte (sliceKey m.core m.sbase) m.s) ++
    sized (2048 * m.a) ((List.range (512 * m.a)).flatMap fun i => leBytes 4 (v.accs.get 0 (tileKey m.core m.abase 0 0 + i)).toNat) ++
    ws.flatMap fun w => match w with
      | some w => t.waveBytes effs w (v.slices.gets emptyByte (sliceKey w.core (stackOff w 0)) 1024) (v.offsetOf w)
      | none => List.replicate waveSize 0

/-- A plane descriptor (Table 14-9). -/
def Plane.desc (p : Plane) (active : Bool) : List Byte :=
  sized 24 (leBytes 8 p.src.toNat ++ leBytes 8 p.k.toNat ++ leBytes 1 p.bfmt ++ leBytes 1 p.scale ++
    leBytes 1 (flagOf active + 2 * flagOf p.t + 4 * flagOf p.loaded))

/-- A buffer-table entry (Table 14-10); an entry that another tree has set is FREE. -/
def Buf.bytes (b : Buf) (tree : Nat) : List Byte :=
  if b.tree ≠ tree then List.replicate 16 0
  else sized 16 (leBytes 1 b.state ++ leBytes 3 b.count ++ leBytes 3 b.expect ++ leBytes 1 0 ++ leBytes 8 b.target)

/-- What the table has of a handle entry: of a bound one a part whose entry another operation has taken since is complete (R274), so the other part
stands for both, or the entry itself is complete with what is left of them. -/
def Core.tabled (c : Core) (h : Handle) : Handle :=
  let gone := fun p : Nat => decide (256 ≤ p)
  let of := fun p => c.handles.get {} p
  if h.kind ≠ 7 || !(gone h.partA || gone h.partB) then h
  else
    let left := if gone h.partA then h.partB else h.partA
    let lost := (if gone h.partA then (c.leaves bindDepth h.partA) else []) ++ (if gone h.partB then (c.leaves bindDepth h.partB) else [])
    let flags := lost.foldl (fun (m : Word) p => m ||| (of p).flags) h.flags
    let cancelled := lost.any fun p => (of p).state = 2
    let h := { h with flags := flags, state := if cancelled then 2 else h.state }
    if gone h.partA && gone h.partB then { h with kind := 1, state := if cancelled then 2 else 1, partA := 0, partB := 0 }
    else { h with partA := left, partB := left }

/-- A handle-table entry (Table 14-11). -/
def Handle.bytes (h : Handle) (i : Nat) : List Byte :=
  sized 16 (leBytes 2 i ++ leBytes 1 h.kind ++ leBytes 1 h.state ++ leBytes 1 h.code ++ leBytes 1 h.flags.toNat ++ leBytes 2 0 ++ leBytes 4 h.partA ++
    leBytes 4 h.partB)

/-- Flat address of a slice key. -/
def flatKey (key : Nat) : Nat := 0x7E0000000000 + key % (512 * 0x400000)

/-- Runs of adjacent bytes. -/
def runsOf : List (Nat × Byte) → List (Nat × List Byte)
  | [] => []
  | (a, b) :: r => match runsOf r with
    | (c, bs) :: q => if a + 1 = c then (a, b :: bs) :: q else (a, [b]) :: (c, bs) :: q
    | [] => [(a, [b])]

/-- An operator argument in 16 bytes: role, number, element format, length, address. -/
def OpArg.bytes (x : OpArg) : List Byte := leBytes 1 x.role ++ leBytes 1 x.num ++ leBytes 2 x.efmt ++ leBytes 4 x.len ++ leBytes 8 x.addr

/-- The effects of a commit that have a pending record each: a store has one for every run of adjacent bytes. -/
def Effect.pieces : Effect → List Effect
  | .store bs => (runsOf bs).map fun x => .store (x.2.zipIdx.map fun y => (x.1 + y.2, y.1))
  | e => [e]

/-- KIND, AUX, ADDR and DATA of the pending record of an effect (Table 14-12), of a store of adjacent bytes. The handle of an engine request stands
in the upper half of its selector. -/
def Effect.parts : Effect → Nat × Nat × Nat × List Byte
  | .store bs => (1, 0, match bs with | x :: _ => x.1 | [] => 0, bs.map (·.2))
  | .atomic aop ls form _ =>
    let lo := match ls with | [] => 0 | x :: r => r.foldl (fun m y => min m y.2.1) x.2.1
    (2, aop + (if form = .nothing then 0 else 128), lo,
      leBytes 4 (maskOf (ls.map (·.1))).toNat ++ ls.flatMap fun x => leBytes 8 (x.2.1 - lo) ++ leBytes 8 x.2.2.1.toNat ++ leBytes 8 x.2.2.2.toNat)
  | .arrive key b => (3, if b.isSome then 2 else 0, flatKey key, match b with | some x => leBytes 8 x.toNat | none => [])
  | .binit key w0 w1 => (1, 0, flatKey key, leBytes 8 w0.toNat ++ leBytes 8 w1.toNat)
  | .barg => (3, 0, 0, [])
  | .pub lo len => (4, 0, lo, leBytes 8 len)
  | .engine p chan h start => (5, 0, 0, sized 64 p ++ leBytes 2 chan ++ leBytes 2 (match h with | some i => i + 1 | none => 0) ++ leBytes 4 start)
  | .lnch b _ => (6, 0, 0, sized 64 b)
  | .opbeg cls => (7, 0, 0, leBytes 8 cls)
  | .oparg x => (7, 1, 0, x.bytes)
  | .opend op seq r h => (7, 2, 0, leBytes 4 op.cls ++ leBytes 4 seq ++ leBytes 4 op.args.length ++ leBytes 4 (match h with | some i => i + 1 | none => 0) ++
      op.args.flatMap OpArg.bytes ++ r)

/-- Bytes of a pending record with `n` DATA bytes. -/
def pendSize (n : Nat) : Nat := 32 + roundUp n 16

/-- Bytes of the pending record of a commit. -/
def Commit.size (r : Commit) : Nat := pendSize r.eff.parts.2.2.2.length

/-- The pending record of a commit. -/
def Commit.bytes (r : Commit) : List Byte :=
  let (k, aux, addr, data) := r.eff.parts
  sized r.size (leBytes 8 r.q ++ leBytes 8 r.wave ++ leBytes 1 k ++ leBytes 1 (aux + r.aux) ++ leBytes 2 0 ++ leBytes 4 data.length ++ leBytes 8 addr ++ data)

/-- What a grid's core record holds: handles, pending records, teams in residency-slot order. -/
def Saved.coreParts (v : Saved) (g : Grid) (core : Nat) : List (Nat × Handle) × List Commit × List Team :=
  (((v.cores.get {} core).handles.filter fun h => decide (h.2.kind ≠ 0) && decide (h.1 < 256)).map fun h => (h.1, (v.cores.get {} core).tabled h.2),
   ((v.tree.pend.filter fun r => r.core == core && r.grid == g.ord).sortBy fun a b => decide (a.q < b.q) || (a.q = b.q && a.before b)).flatMap fun r =>
     r.eff.pieces.map fun e => { r with eff := e },
   (v.teams.filter fun m => m.grid == g.ord && m.core == core).sortBy fun a b => decide (a.j ≤ b.j))

/-- Bytes of a core record. -/
def Saved.coreSize (v : Saved) (g : Grid) (core : Nat) : Nat :=
  let (hs, ps, ts) := v.coreParts g core
  128 + 1024 + 16 * hs.length + (ps.map Commit.size).foldl (· + ·) 0 + (ts.map fun m => teamSize m.w m.a m.s).foldl (· + ·) 0

/-- A core record (Table 14-8). -/
def Saved.coreBytes (v : Saved) (g : Grid) (core : Nat) : List Byte :=
  let c := v.cores.get {} core
  let (hs, ps, ts) := v.coreParts g core
  let p := v.places.getD (core % 512) (core % 512 / 88 * 96 + core % 512 % 88)
  sized 128 (leBytes 4 (core % 512) ++ leBytes 4 (g.next.get 0 core) ++ leBytes 2 hs.length ++ leBytes 2 ts.length ++
      leBytes 4 ps.length ++ leBytes 4 c.vgen.toNat ++ leBytes 4 c.dgen.toNat ++ c.plane0.desc (!c.active) ++
      c.plane1.desc c.active ++ leBytes 8 (v.coreSize g core) ++ leBytes 1 (placeUnit p) ++ leBytes 1 (p % 96 / 12 * 16 + p % 12) ++ leBytes 6 0 ++
      (List.range 16).flatMap fun i => leBytes 2 (c.tags.get 0 i)) ++
    sized 1024 ((List.range 64).flatMap fun i => (c.bufs.get {} i).bytes v.tree.id) ++ hs.flatMap (fun h => h.2.bytes h.1) ++ ps.flatMap Commit.bytes ++
    ts.flatMap (v.teamBytes (ps.map (·.eff)))

/-! ## Grids and the whole image (Tables 14-6 and 14-7) -/

/-- The live grids of a tree in ordinal order. -/
def Tree.liveGrids (t : Tree) : List Grid := (t.grids.filter fun g => !g.retired).sortBy fun a b => decide (a.ord ≤ b.ord)

/-- Keys of the logical cores of a tree. -/
def Tree.coreKeys (t : Tree) : List Nat := (List.range t.n).map (t.desk * 512 + ·)

/-- Bytes of a grid section. -/
def Saved.gridSize (v : Saved) (g : Grid) : Nat := 64 + (v.tree.coreKeys.map (v.coreSize g)).foldl (· + ·) 0

/-- A grid section. -/
def Saved.gridBytes (v : Saved) (g : Grid) : List Byte :=
  sized 64 (leBytes 4 g.ord ++ leBytes 4 (match g.parent with | some p => p | none => noPc) ++ leBytes 4 g.x ++ leBytes 4 g.y ++ leBytes 4 g.z ++ leBytes 2 g.tl ++
      leBytes 1 g.w ++ leBytes 1 g.p ++ leBytes 4 g.s ++ leBytes 2 g.a ++ leBytes 1 g.depth ++ leBytes 1 0 ++ leBytes 4 g.kidx ++ leBytes 4 0 ++
      leBytes 8 (if v.tree.cmode then v.tree.base else 0) ++ leBytes 8 (v.gridSize g)) ++
    v.tree.coreKeys.flatMap (v.coreBytes g)

/-- Length of the image of a saved tree, header and tag included (R251). -/
def Saved.size (v : Saved) : Nat := 512 + (v.tree.liveGrids.map v.gridSize).foldl (· + ·) 0 + 16

/-- What is sealed of an image: everything after the header and before the tag. -/
def Saved.plain (v : Saved) : List Byte := v.tree.liveGrids.flatMap v.gridBytes

/-- The image header (Table 14-6) of a tree saved at count `chc` under a nonce. -/
def Saved.headerBytes (v : Saved) (chc nonce : Nat) : List Byte :=
  let t := v.tree
  sized 512 (leBytes 4 0x58434C43 ++ leBytes 2 1 ++ leBytes 1 (modeByte t.cmode t.coRes t.resv) ++ leBytes 1 (Nat.log2 t.q) ++ leBytes 4 Config.stepping.toNat ++
    leBytes 4 t.n ++ leBytes 4 t.liveGrids.length ++ leBytes 2 t.desk ++ leBytes 2 0 ++ leBytes 8 v.size ++ sized 48 t.mdig ++ leBytes 8 t.id ++
    leBytes 8 chc ++ leBytes 12 nonce)

/-- Encrypts or decrypts with the key stream of AES-256-GCM under a key and a nonce. -/
def gcmStream (key nonce bs : List Byte) : List Byte := bs.zipIdx.map fun x => x.1 ^^^ Config.gcmByte key nonce x.2

/-- The image as it stands in memory (R251, R404): header, sealed bytes, tag. -/
def Saved.sealed (v : Saved) (key : List Byte) : List Byte :=
  let nonce := (v.header.drop 96).take 12
  v.header ++ gcmStream key nonce v.plain ++ (Config.gcmTag key nonce v.header v.plain).toList

/-! ## Reading an image back (R254) -/

/-- A scalar array of a record: `n` numbers of `k` bytes from an offset, as a sparse store of those that are not zero. -/
def numsAt {α : Type} [DecidableEq α] (zero : α) (of : Nat → α) (bs : List Byte) (at_ n k : Nat) : Store α :=
  (List.range n).foldl (fun m i => m.put zero i (of (field bs (at_ + k * i) k))) []

/-- A PC field: none if it holds no PC. -/
def Tree.pcField (t : Tree) (bs : List Byte) (at_ : Nat) : Option Dword := if field bs at_ 4 = noPc then none else some (t.codeAt (field bs at_ 4))

/-- The pending split of a record of 160 bytes (R241). -/
def Tree.splitAt (t : Tree) (bs : List Byte) : Option (Dword × After) :=
  let mask := field bs 8 4
  if mask = 0 then none
  else
    let lanes := (List.range 32).filter (bit mask)
    let rank := fun l => field bs 140 20 / 32 ^ l % 32
    let target := fun l => t.codeAt (field bs (12 + 4 * l) 4)
    let groups := (List.range 32).filterMap fun g => match lanes.filter fun l => rank l = g with
      | [] => none
      | l :: r => some (target l, maskOf (l :: r))
    some (t.codeAt (field bs 0 4), match t.pcField bs 4, groups with
      | some j, gs => .split gs j
      | none, (p, _) :: _ => .goto p
      | none, [] => .goto 0)

/-- A fragment slot of 32 bytes; `split` is the pending split of the wave record. Reserved bits of FMT are ignored (R5). -/
def Tree.fragAt (t : Tree) (bs : List Byte) (split : Option (Dword × After)) : Option Frag :=
  if field bs 20 1 = 0 then none
  else some { pc := t.codeAt (field bs 0 4), mask := BitVec.ofNat 32 (field bs 4 4), join := t.pcField bs 8, fmt := BitVec.ofNat 32 (field bs 12 4) &&& fmtMask
              sig := BitVec.ofNat 32 (field bs 16 4)
              after := match field bs 21 1 with
                | 1 => some (.goto (t.codeAt (field bs 24 4)))
                | 2 => split.map (·.2)
                | _ => none
              branch := if field bs 21 1 = 0 || field bs 28 4 + 4 = field bs 0 4 then none else some (t.codeAt (field bs 28 4)) }

/-- A pattern slot of 48 bytes. -/
def patAt (bs : List Byte) : Pat :=
  { base := BitVec.ofNat 64 (field bs 0 8), lstr := BitVec.ofNat 32 (field bs 8 4), astr := BitVec.ofNat 32 (field bs 12 4)
    count := BitVec.ofNat 32 (field bs 16 4), i := BitVec.ofNat 32 (field bs 32 4), cur := BitVec.ofNat 64 (field bs 36 8), valid := field bs 44 4 % 2 = 1 }

/-- The result that a plain in-flight record of 144 bytes holds. -/
def resAt (bs : List Byte) : Option Res :=
  let r := field bs 1 1
  let x := field bs 16 8
  match field bs 0 1 with
  | 1 => some (.vec r (((List.range 32).filter (bit (field bs 4 4))).map fun l => (l, BitVec.ofNat 32 (field bs (16 + 4 * l) 4))))
  | 2 => some (.sca r (BitVec.ofNat 64 x))
  | 3 => some (.adr r (BitVec.ofNat 64 x))
  | 4 => some (.kmod r (BitVec.ofNat 64 x))
  | 5 => some (.msk r (BitVec.ofNat 32 x))
  | 6 => some (.bits r (BitVec.ofNat 32 x) (BitVec.ofNat 32 (field bs 4 4)))
  | 7 => some (.hnd r (if x = allOnes then none else some x))
  | _ => none

/-- How the record tied to a pending commit record forms its result, with the registers it leaves pending. -/
def tiedAt (bs : List Byte) : Option (LoadAs × List Reg) :=
  let r := field bs 1 1
  match field bs 0 1 with
  | 8 => some (.lanes r, [.v r])
  | 9 => some (.pairs r, [.v r, .v (r + 1)])
  | 10 => some (.scalar r (field bs 16 1) (field bs 17 1 = 1), [.s r])
  | _ => none

/-- The accounting of the REJOIN entries of a split stack of `depth` entries (R389), topmost first, as the stack shows it: lanes that have exited, and as
arrived the live ones that no fragment and no entry above still holds on its way to the join. What a broken program has done besides stands in no field
of the image (assumption log 19). -/
def rebuildJoins (codeBase : Dword) (stack : List Byte) (slots : List Frag) (live : Mask) (depth : Nat) : List JoinAcct :=
  let es := (List.range depth).map fun i => (i, entryOf codeBase ((stack.drop (16 * i)).take 16))
  (es.filter (·.2.rejoin)).reverse.map fun x =>
    let above := ((es.filter fun y => decide (x.1 < y.1) && y.2.join == some x.2.pc).map (·.2.mask)) ++ (slots.filter (·.join == some x.2.pc)).map (·.mask)
    let out := above.foldl (fun (m : Mask) y => m ||| y) 0
    { level := x.1, join := x.2.pc, mask := x.2.mask, arrived := x.2.mask &&& live &&& ~~~ out, exited := x.2.mask &&& ~~~ live }

/-- Bits of %fault that Table 14-3 names; the others are reserved (R5). -/
def faultMask : Dword := 0xFFFFFFFF0000FCFF

/-- A wave read from its record, its team and place given; `acc` is the number before those of its core's far accesses. Reserved bits, and what the
record has for s0, k0, m0 and h0, are ignored (R5, R30). -/
def Tree.waveAt (t : Tree) (g : Grid) (m : Team) (tw acc : Nat) (alive : Bool) (bs : List Byte) : Wave :=
  let at_ := fun o n => (bs.drop o).take n
  let q := at_ 0x22A0 96
  let f := at_ 0x2300 64
  let split := t.splitAt (at_ 0x43C0 160)
  let a := t.fragAt (at_ 0x2260 32) split
  let b := t.fragAt (at_ 0x2280 32) split
  let marked := (a.toList ++ b.toList).any fun (x : Frag) => match x.after with | some y => y.isSplit | none => false
  let recs := (List.range 48).map fun i => at_ (0x28C0 + 144 * i) 144
  let handler := (field f 0 8).testBit 15
  let live : Mask := BitVec.ofNat 32 (field q 92 4)
  let off := field q 80 8
  let depth := min 64 (field q 88 4)
  let w : Wave := { freshWave t g m tw (field q 16 8) with
    v := numsAt 0 (BitVec.ofNat 32) bs 0 2048 4, s := (numsAt 0 (BitVec.ofNat 64) bs 0x2000 32 8).put 0 0 0, a := numsAt 0 (BitVec.ofNat 64) bs 0x2100 16 8
    k := (numsAt 0 (BitVec.ofNat 64) bs 0x2180 8 8).put 0 0 0, m := (numsAt 0 (BitVec.ofNat 32) bs 0x21C0 8 4).put 0 0 0
    h := (numsAt none (fun x => if x = allOnes then none else some x) bs 0x21E0 16 8).put none 0 none
    slotA := a, slotB := b, live := live, depth := depth
    joins := rebuildJoins (BitVec.ofNat 64 t.code.addr) (at_ 0x24C0 1024) (a.toList ++ b.toList) live depth
    fflags := BitVec.ofNat 32 (field q 0 4) &&& 0x3F, ticket := Ticket.ofCodes (field q 4 1) (field q 5 3)
    fc := BitVec.ofNat 64 (field q 8 8), retired := field q 24 4, wait := Wait.ofCodes (field q 28 4) (field q 32 8) (field q 40 4) (field q 44 8)
    dispre := if field q 52 4 = 0 then none else some (field q 52 4 - 1), loopStart := t.codeAt (field q 56 4), loopEnd := t.codeAt (field q 60 4)
    lcnt := BitVec.ofNat 64 (field q 64 8), opSeq := field q 72 4, parked := field q 76 1 % 2 = 1, fwaited := bit (field q 76 1) 2
    fault := BitVec.ofNat 64 (field f 0 8) &&& faultMask, faddr := BitVec.ofNat 64 (field f 8 8), epc := BitVec.ofNat 64 (field f 16 8)
    etgt := BitVec.ofNat 64 (field f 24 8), hpc := BitVec.ofNat 64 (field f 32 8), fdat := BitVec.ofNat 64 (field f 40 8), cur := field f 48 1 % 2 = 1
    pats := (List.range 8).foldl (fun (p : Store Pat) i => p.put {} i (patAt (at_ (0x2340 + 48 * i) 48))) []
    flight := recs.filterMap fun r => (resAt r).map fun x => { slot := field r 2 1 % 2 = 1, left := field r 8 2, res := x : Flight }
    far := recs.filterMap fun r => (tiedAt r).map fun x => { id := acc + field r 10 2, pend := x.2, quantum := some (field q 16 8), pc := t.codeAt (field r 12 4) : Far }
    psplit := if marked || !handler then none else split }
  let w := { w with status := if alive then .live else .ended }
  if t.cmode && off ≠ 0 then
    { w with epoch := 1
             records := [{ epoch := 1, off := off - 1, pc := match a with | some x => x.pc | none => 0
                           live := w.live, s := w.s, a := w.a, k := w.k, m := w.m, fmt := match a with | some x => x.fmt | none => 0
                           sig := match a with | some x => x.sig | none => 0
                           lcnt := w.lcnt, loopStart := w.loopStart, loopEnd := w.loopEnd, pats := w.pats, opSeq := w.opSeq }] }
  else w

/-- Offsets of `n` adjacent records, the size of each given by its own bytes, with the offset after the last. -/
def offsets (size : Nat → Nat) : Nat → Nat → List Nat × Nat
  | 0, o => ([], o)
  | n + 1, o => let (xs, e) := offsets size n (o + size o); (o :: xs, e)

/-- The effect of a pending record (Table 14-12) whose far access has number `acc` and form `form`. -/
def effectAt (t : Tree) (lnch : Option Nat) (acc : Nat) (form : LoadAs) (bs : List Byte) : Option Effect :=
  let aux := field bs 17 1
  let addr := field bs 24 8
  let data := (bs.drop 32).take (field bs 20 4)
  let entry := fun n => if n = 0 then none else some (n - 1)
  match field bs 16 1 with
  | 1 => some (.store (data.zipIdx.map fun x => (addr + x.2, x.1)))
  | 2 =>
    let lanes := if field data 0 4 = 0 then [noLane] else (List.range 32).filter (bit (field data 0 4))
    some (.atomic (aux % 16) (lanes.zipIdx.map fun x => (x.1, addr + field data (4 + 24 * x.2) 8, BitVec.ofNat 64 (field data (12 + 24 * x.2) 8),
      BitVec.ofNat 64 (field data (20 + 24 * x.2) 8))) form acc)
  | 3 => if addr = 0 then some .barg
    else some (.arrive (t.desk * 512 * 0x400000 + addr % (512 * 0x400000)) (if bit aux 1 then some (BitVec.ofNat 64 (field data 0 8)) else none))
  | 4 => some (.pub addr (field data 0 8))
  | 5 => some (.engine (data.take 64) (field data 64 2) (entry (field data 66 2)) (field data 68 4))
  | 6 => some (.lnch (data.take 64) lnch)
  | 7 =>
    let arg := fun o => ({ role := field data o 1, num := field data (o + 1) 1, efmt := field data (o + 2) 2, len := field data (o + 4) 4
                           addr := field data (o + 8) 8 } : OpArg)
    match aux with
    | 0 => some (.opbeg (field data 0 8))
    | 1 => some (.oparg (arg 0))
    | _ =>
      let n := field data 8 4
      some (.opend { cls := field data 0 4, args := (List.range n).map fun i => arg (16 + 16 * i) } (field data 4 4) (data.drop (16 + 16 * n)) (entry (field data 12 4)))
  | _ => none

/-- A plane from its descriptor, its contents still to be loaded from its source (R279). -/
def planeAt (bs : List Byte) : Plane :=
  { src := BitVec.ofNat 64 (field bs 0 8), k := BitVec.ofNat 64 (field bs 8 8), bfmt := field bs 16 1, scale := field bs 17 1, t := bit (field bs 18 1) 1
    loaded := bit (field bs 18 1) 2 }

/-- A handle-table entry from its 16 bytes. -/
def handleAt (tree : Nat) (bs : List Byte) : Handle :=
  { kind := field bs 2 1, state := field bs 3 1, code := field bs 4 1, flags := BitVec.ofNat 32 (field bs 5 1), partA := field bs 8 4, partB := field bs 12 4, tree := tree }

/-- The grid of a grid section, its kernel and its code object given (Table 14-7): launch arguments and a launch's FMTV stand in no field, so teams
still to start take the descriptor's (assumption log 19). -/
def gridAt (k : Kernel) (bs : List Byte) : Grid :=
  { ord := field bs 0 4, parent := if field bs 4 4 = noPc then none else some (field bs 4 4), x := field bs 8 4, y := field bs 12 4, z := field bs 16 4
    tl := field bs 20 2, w := field bs 22 1, p := field bs 23 1, s := field bs 24 4, a := field bs 28 2, depth := field bs 30 1, kidx := field bs 32 4
    entry := k.entry, fmt := k.fmt &&& fmtMask, slice := k.slice }

/-- A saved tree under way of being read: the core record at an offset adds its core, pending records, teams and waves; `acc` is a
number before those of the tree's far accesses. -/
def Saved.addCore (v : Saved) (acc : Nat) (g : Grid) (bs : List Byte) (o : Nat) : Saved :=
  let t := v.tree
  let c := bs.drop o
  let core := t.desk * 512 + field c 0 4
  let acc := acc + (g.ord * 512 + field c 0 4) * 65536
  let nh := field c 8 2
  let np := field c 12 4
  let hs := (List.range nh).map fun i => (c.drop (1152 + 16 * i)).take 16
  let (pos, past) := offsets (fun o => pendSize (field (c.drop o) 20 4)) np (1152 + 16 * nh)
  let (tos, _) := offsets (fun o => teamSize (field (c.drop o) 9 1) (field (c.drop o) 10 2) (field (c.drop o) 12 4)) (field c 10 2) past
  let owed := fun (w i : Nat) => tos.findSome? fun o =>
    let m := c.drop o
    (List.range (field m 9 1)).findSome? fun tw =>
      if field m 0 8 * g.w + tw ≠ w then none
      else
        let r := m.drop (320 + roundUp (field m 12 4) 16 + 2048 * field m 10 2 + waveSize * tw)
        (List.range 48).findSome? fun j => let x := (r.drop (0x28C0 + 144 * j)).take 144; if field x 10 2 = i + 1 then (tiedAt x).map (·.1) else none
  let lnchs := (hs.filter fun h => field h 2 1 = 6 && field h 3 1 = 0 && field h 8 4 = 0).map fun h => field h 0 2
  let pend := pos.zipIdx.filterMap fun x =>
    let r := (c.drop x.1).take (pendSize (field (c.drop x.1) 20 4))
    let before := ((pos.take x.2).filter fun o => field (c.drop o) 16 1 = 6).length
    (effectAt t lnchs[before]? (acc + x.2 + 1) ((owed (field r 8 8) x.2).getD .nothing) r).map fun e =>
      let team := field r 8 8 / max 1 g.w
      let w0 := (tos.findSome? fun o => if field (c.drop o) 0 8 = team then some (field (c.drop o) 8 1 * g.w + field r 8 8 % max 1 g.w) else none).getD 0
      let aux := match field r 16 1 with | 2 => field r 17 1 / 16 % 8 * 16 | 3 => field r 17 1 % 2 | _ => 0
      ({ q := field r 0 8, grid := g.ord, wave := field r 8 8, wid := core * 16 + w0, core := core, eff := e, aux := aux } : Commit)
  let child := fun (prior : List Team) (f : Team → Nat) => ((prior.filter fun m => m.grid ≠ 0 && m.core == core).map f).foldl (· + ·) 0
  let read := tos.foldl (fun (x : Saved) o =>
    let b := c.drop o
    let j := field b 8 1
    let (w, a, sl) := (field b 9 1, field b 10 2, field b 12 4)
    let m : Team := { tree := t.id, grid := g.ord, core := core, t := field b 0 8, j := j, w := w, s := sl, a := a
                      w0 := if g.ord = 0 then j * w else 16 - t.resv.1 + child x.teams (·.w)
                      sbase := if g.ord = 0 then j * sl else t.resvSlice + child x.teams (·.s)
                      abase := if g.ord = 0 then j * a else t.resvBank + child x.teams (·.a)
                      owners := (List.range 256).foldl (fun (p : Store Nat) i => p.put 0 i ((field b (64 + i) 1 + 1) % 256)) [] }
    let so := 320
    let bo := so + roundUp sl 16
    let wo := bo + 2048 * a
    let ws := (List.range w).map fun tw => t.waveAt g m tw acc (bit (field b 24 4) tw) ((b.drop (wo + waveSize * tw)).take waveSize)
    let area := (b.drop so).take sl
    let put := fun (p : Store Byte) => ws.zipIdx.foldl (fun (p : Store Byte) y =>
      p.puts emptyByte (sliceKey core (stackOff y.1 0)) ((b.drop (wo + waveSize * y.2 + 0x24C0)).take 1024)) (p.puts emptyByte (sliceKey core m.sbase) area)
    let arrived := ((List.range w).filter (bit (field b 16 4))).map fun tw => m.t * g.w + tw
    { x with teams := x.teams ++ [m], waves := x.waves ++ ws, slices := put x.slices, slicesC := put x.slicesC
             accs := (List.range (512 * a)).foldl (fun (p : Store Word) i => p.put 0 (tileKey core m.abase 0 0 + i) (BitVec.ofNat 32 (field b (bo + 4 * i) 4))) x.accs
             tree := x.tree.updGrid g.ord fun g => { g with bargGen := max g.bargGen (field b 20 4), bargIn := g.bargIn ++ arrived } }) v
  let next := field c 4 4
  let gone := (List.range next).filter fun i => !(read.teams.any fun m => m.grid == g.ord && m.core == core && m.t == core % 512 + i * t.n)
  let tree := { read.tree with pend := read.tree.pend ++ pend }
  let due := fun (x : Far) => pend.findSome? fun r => match r.eff with | .atomic _ _ _ a => if a = x.id then some r.q else none | _ => none
  let cr : Core := { v.cores.get {} core with
    tree := if t.cmode then t.id else 0, vgen := BitVec.ofNat 32 (field c 16 4), dgen := BitVec.ofNat 32 (field c 20 4), plane0 := planeAt (c.drop 24), plane1 := planeAt (c.drop 48)
    active := bit (field c 66 1) 0, tags := (List.range 16).foldl (fun (p : Store Nat) i => p.put 0 i (field c (88 + 2 * i) 2)) []
    bufs := (List.range 64).foldl (fun (p : Store Buf) i =>
      let b := (c.drop (128 + 16 * i)).take 16
      if field b 0 1 = 0 then p
      else p.put {} i { state := field b 0 1, count := field b 1 3, expect := field b 4 3, target := field b 8 8, tree := t.id }) []
    handles := hs.foldl (fun (p : Store Handle) h => p.put {} (field h 0 2) (handleAt t.id h)) [] }
  { read with waves := read.waves.map fun w => if w.core = core && w.grid = g.ord then { w with far := w.far.map fun x => { x with quantum := due x } } else w
              cores := read.cores.put {} core cr
              tree := tree.updGrid g.ord fun g => { g with next := g.next.put 0 core next, gone := gone.foldl (fun (p : Store Nat) i => p.put 0 (goneKey core i) 1) g.gone
                                                           ended := g.ended + gone.length } }

/-- The tree that the sealed part of an image holds; `v` has the tree's header fields and its code object. -/
def Saved.readPlain (v : Saved) (acc ngrid : Nat) (bs : List Byte) : Saved :=
  let (gos, _) := offsets (fun o => max 64 (field (bs.drop o) 48 8)) ngrid 0
  let v := gos.foldl (fun (v : Saved) o =>
    match v.tree.code.kernels[field (bs.drop o) 32 4]? with
    | none => v
    | some k =>
      let g := gridAt k (bs.drop o)
      let v := { v with tree := { v.tree with grids := v.tree.grids ++ [g], nextOrd := max v.tree.nextOrd (g.ord + 1)
                                              base := if v.tree.cmode then field (bs.drop o) 40 8 else 0 } }
      let (cos, _) := offsets (fun o => max 1152 (field (bs.drop o) 72 8)) v.tree.n (o + 64)
      cos.foldl (fun (v : Saved) c => v.addCore acc g bs c) v) v
  let qs := (v.waves.filter fun w => w.status != .ended).map (·.qnt) ++ v.tree.pend.map (·.q)
  let done := match qs with | [] => 0 | q :: r => r.foldl min q
  let handleOf := fun ord => v.cores.findSome? fun c => (c.2.handles.find? fun h => h.2.kind = 6 && h.2.state ≠ 1 && h.2.partA = ord).map fun h => (c.1, h.1)
  { v with
    tree := { v.tree with committed := done, grids := v.tree.grids.map fun g =>
      { g with firstQ := done, gone := g.gone.map fun x => (x.1, done), handle := if g.ord = 0 then none else handleOf g.ord } }
    epoch := if v.waves.any fun w => !w.records.isEmpty then 1 else 0
    cores := if v.tree.cmode then v.cores.map fun c => (c.1, { c.2 with
        recs := [{ epoch := 1, vgen := c.2.vgen, dgen := c.2.dgen, tags := c.2.tags, bufs := c.2.bufs, plane0 := c.2.plane0, plane1 := c.2.plane1, active := c.2.active
                   owners := (v.teams.filter fun m => m.core == c.1).map fun m => (m.t, m.owners) }] }) else v.cores }

/-- The code object and kernel of a desk whose Manifest has a digest (R254, R407). -/
def State.kernelOf (s : State) (desk kidx : Nat) (mdig : List Byte) : Option (CodeObj × Kernel × List Byte) :=
  match s.desk? desk with
  | none => none
  | some d => s.codes.findSome? fun c =>
    if c.desk ≠ desk then none
    else (c.kernels[kidx]?).bind fun k =>
      let m := s.manifestOf desk d c k
      if sha m = mdig then some (c, k, m) else none

/-- The saved tree that an image gives (R254, R404): one of this part of the stepping, N and Manifest digest at hand, whose tag holds under the
desk's tenant key. One that this device sealed and still knows comes back whole; one that the device holds for its own resume is
refused (R378). With `fresh`, an image of another part whose tree number is taken here gets the next one. -/
def State.imageAt (s : State) (fresh : Bool) (desk addr len : Nat) : Option Saved :=
  let bs := s.deskRead desk addr len
  let h := bs.take 512
  let nonce := (h.drop 96).take 12
  match (s.desk? desk).bind (·.key) with
  | none => none
  | some key =>
    let plain := gcmStream key nonce ((bs.drop 512).take (len - 528))
    if len < 528 || field h 24 8 ≠ len || field h 0 4 ≠ 0x58434C43 || field h 4 2 ≠ 1 || field h 8 4 ≠ Config.stepping.toNat || field h 12 4 ≠ s.deskN desk ||
        field h 20 2 ≠ desk || (Config.gcmTag key nonce h plain).toList ≠ bs.drop (len - 16) then none
    else match s.saved.find? fun x => x.header == h && x.plain == plain with
      | some x => if x.held || (s.kernelOf desk (field plain 32 4) ((h.drop 32).take 48)).isNone then none else some x
      | none => (s.kernelOf desk (field plain 32 4) ((h.drop 32).take 48)).map fun (c, k, m) =>
        let d := (s.desk? desk).getD {}
        let id := if fresh && (s.trees.any (fun t => t.id == field h 80 8) || s.saved.any (fun x => x.tree.id == field h 80 8)) then s.nextTree else field h 80 8
        let t : Tree := { id := id, desk := desk, cmode := bit (field h 6 1) 0, coRes := bit (field h 6 1) 1, n := field h 12 4, q := 2 ^ field h 7 1, code := c
                          launch := { cobj := c.addr, kidx := field plain 32 4 }, started := true, resv := k.resv, manifest := m, mdig := sha m, dies := d.dies
                          vseed := d.vseed, dseed := d.dseed, eseed := d.eseed }
        let v : Saved := { tree := t, teams := [], waves := [], cores := [], slices := [], slicesC := [], accs := [], image := (addr, len), nonce := leNat nonce
                           header := h, held := false }
        v.readPlain s.nextAcc (field h 16 4) plain

end Sys2Proof.Machine
end

