-- ==== Sys2Proof/Machine/Context.lean ====
section
/-! DEFINITION. Forced saves, resumes, and the restoring of a restart epoch (14_traps.md R251 to R255; 03_execution.md R69 to R74;
17_isa_engines.md R307; 16_isa_matrix.md R279; 20_chorus.md R346, R348; 24_front_end.md R378; 28_security.md R404). -/

namespace Sys2Proof.Machine

/-- Takes the next seal nonce (R404): a further advance is stored before the stored count is used up. -/
def State.takeNonce (s : State) : Nat × State :=
  let p := s.proctor
  let n := p.nonce
  (n, { s with proctor := { p with nonce := n + 1, nonceS := if p.nonceS ≤ n + 1 then p.nonceS + 2 ^ 32 else p.nonceS } })

/-! ## What is saved -/

/-- What an image keeps of a core for a tree. -/
def Core.forTree (c : Core) (id : Nat) : Core :=
  { c with bufs := c.bufs.filter fun b => b.2.tree == id, handles := c.handles.filter fun h => h.2.tree == id, ops := c.ops.filter fun o => o.tree == id
           running := none, yielded := none, claims := [], loopBuf := none, sendBusy := 0, testDue := false, overdue := false }

/-- Slice keys an image keeps: the areas of the tree's teams and the split stacks of their waves (R73). -/
def Team.keeps (m : Team) (k : Nat) : Bool :=
  decide (k / 0x400000 = m.core) &&
    ((decide (m.sbase ≤ k % 0x400000) && decide (k % 0x400000 < m.sbase + m.s)) ||
     (decide (0x27C000 + m.w0 * 0x400 ≤ k % 0x400000) && decide (k % 0x400000 < 0x27C000 + (m.w0 + m.w) * 0x400)))

/-- Accumulator keys of a team's pool. -/
def Team.banks (m : Team) (k : Nat) : Bool :=
  decide (k / 131072 = m.core) && decide (m.abase ≤ k % 131072 / 512) && decide (k % 131072 / 512 < m.abase + m.a)

/-- The saved form of a tree: every logical core of it (R92, R251), its teams with what they own; `e` is the restart epoch of a C-mode save. -/
def State.savedForm (s : State) (t : Tree) (e : Nat) : Saved :=
  let teams := s.teams.filter (·.tree == t.id)
  let keep := fun k => teams.any fun m => m.keeps k
  { tree := { t with save := false, noStart := false, saveNow := false, stop := none }, teams := teams, waves := s.wavesOf t.id
    cores := t.coreKeys.foldl (fun (m : Store Core) k => m.put {} k ((s.core k).forTree t.id)) []
    slices := s.slices.filter fun x => keep x.1, slicesC := s.slicesC.filter fun x => keep x.1
    accs := s.accs.filter fun x => teams.any fun m => m.banks x.1
    image := (0, 0), nonce := 0, task := s.tasks.find? fun k => k.tree == t.id, epoch := e
    places := match s.desk? t.desk with | some d => d.places | none => [] }

/-- A saved tree with its image's place and header. -/
def State.stamp (s : State) (v : Saved) (addr nonce : Nat) : Saved :=
  { v with image := (addr, v.size), nonce := nonce, header := v.headerBytes s.chc nonce }

/-- First free byte of a desk's save area: images are packed in save order at 4 KiB boundaries (R378). -/
def Desk.saveNext (d : Desk) : Nat := match d.saveUse.getLast? with | some x => roundUp (x.1 + x.2) 0x1000 | none => roundUp d.saveAddr 0x1000

/-! ## Restoring a restart epoch (R307, R346) -/

/-- The contents of a plane as its descriptor's source bytes stand in the slice (R279). -/
def State.reloadPlane (s : State) (core : Nat) (p : Plane) : Plane :=
  if p.loaded then { p with bytes := (operandOffs p.src p.k (operandLen p.bfmt p.scale 64)).map fun o => s.slices.get emptyByte (sliceKey core o) }
  else {}

/-- A wave restored from its restart record, or to its start state for epoch 0. Its vector registers are zero and its handle registers name no
operation. One that ended before it marked the epoch stays ended. An operator that was open at the
epoch is discarded: R297 speaks only of an epoch before the OPBEG, and R307's record holds none (assumption log 71). -/
def Wave.restored (w : Wave) (t : Tree) (g : Grid) (m : Team) (e base : Nat) : Wave :=
  match w.records.find? (·.epoch == e) with
  | some r =>
    { w with status := .live, v := [], s := r.s, a := r.a, k := r.k, m := r.m, h := [], slotB := none, cur := false
             slotA := some { pc := r.pc, mask := r.live, fmt := r.fmt, sig := r.sig }, live := r.live, depth := 0, joins := [], flight := [], far := []
             fc := 0, lcnt := r.lcnt, loopStart := r.loopStart, loopEnd := r.loopEnd, pats := r.pats, wait := .none, ticket := none, stalled := false
             parked := false, dispre := none, op := none, opSeq := r.opSeq, epoch := e, records := w.records.filter (fun x => decide (x.epoch ≤ e))
             errs := [], engErrs := [], sigmis := none, faulted := none, psplit := none, issueAt := base + r.off + 1, latch := [] }
  | none => if e = 0 then { freshWave t g m w.tw 0 with issueAt := base } else w

/-- The least offset from the old base at which a wave of this device marked epoch `e` (R346); 0 for epoch 0. -/
def State.epochOffset (s : State) (tree e : Nat) : Nat :=
  match ((s.wavesOf tree).flatMap fun w => (w.records.filter (·.epoch == e)).map (·.off)) with
  | [] => 0
  | o :: r => r.foldl min o

/-- The offset O of a rewind (R346): the least over the waves of the whole task. What other devices contribute, no message tells, so with other
members O is a free value up to this device's least (assumption log 50). -/
def State.taskOffset (s : State) (tree e : Nat) : Nat × State :=
  let o := s.epochOffset tree e
  if e ≠ 0 && s.tasks.any fun k => k.tree == tree && decide (1 < k.members.length) then
    let (x, s) := s.draw
    (x.toNat % (o + 1), s)
  else (o, s)

/-- Whether a wave takes no part in epoch `e`: it ended before it marked it (R307). -/
def Wave.noPart (w : Wave) (e : Nat) : Bool := w.status == .ended && decide (w.epoch < e)

/-- Whether every record of epoch `e` is held (R307): of every wave but those that ended before marking it, and of their cores. -/
def State.hasEpoch (s : State) (tree e : Nat) : Bool :=
  (s.wavesOf tree).all fun w => w.noPart e ||
    (decide (w.epoch ≤ e + 1) && (e = 0 || (w.records.any (·.epoch == e) && (s.core w.core).recs.any (·.epoch == e))))

/-- Restores a core of a C-mode grid to epoch `e` (R307, R346): generators, tag counts, buffer table, planes, bank owners. -/
def State.restoreCore (s : State) (t : Tree) (e : Nat) (m : Team) : State :=
  let c := s.core m.core
  let foreign := c.bufs.filter fun b => b.2.tree ≠ t.id
  match c.recs.find? (·.epoch == e) with
  | some r =>
    let mine := r.bufs.filter fun b => b.2.tree == t.id
    let c := { c with vgen := r.vgen, dgen := r.dgen, tags := r.tags, bufs := mine.foldl (fun (x : Store Buf) b => x.put {} b.1 b.2) foreign
                      plane0 := s.reloadPlane m.core r.plane0, plane1 := s.reloadPlane m.core r.plane1, active := r.active
                      recs := c.recs.filter (fun x => decide (x.epoch ≤ e)), loopBuf := none }
    let owners := match r.owners.find? (·.1 == m.t) with | some o => o.2 | none => []
    { s.setCore m.core c with teams := s.teams.map fun x => if x = m then { x with owners := owners } else x }
  | none =>
    let l := m.core % 512
    let c := { c with vgen := coreSeed t.vseed l, dgen := coreSeed t.dseed l, tags := [], bufs := foreign, plane0 := {}, plane1 := {}, active := false, recs := [], loopBuf := none }
    { s.setCore m.core c with teams := s.teams.map fun x => if x = m then { x with owners := [] } else x }

/-- Restores the cores and waves of a C-mode tree to epoch `e` for a base (R307). -/
def State.restoreEpoch (s : State) (t : Tree) (e base : Nat) : State :=
  let s := s.clearTree t
  let s := (s.teams.filter (·.tree == t.id)).foldl (fun (s : State) m => s.restoreCore t e m) s
  let s := s.updTree t.id fun t => { t with base := base, stop := none, save := false, noStart := false, saveNow := false
                                            grids := t.grids.map fun g => { g with bargIn := [] } }
  match s.tree? t.id with
  | none => s
  | some t => match t.grid? 0 with
    | none => s
    | some g => s.mapWaves fun w =>
      if w.tree ≠ t.id then w
      else match s.teams.find? fun m => m.tree == t.id && m.core == w.core with
        | some m => w.restored t g m e base
        | none => w

/-- Restores the grid of a C-mode tree to epoch `e` at base `B` − O (R346), with the attempt after, its task's too. -/
def State.rewindTree (s : State) (t : Tree) (e b : Nat) : State :=
  let (o, s) := s.taskOffset t.id e
  let s := (s.restoreEpoch t e (b - o)).updTree t.id fun t => { t with attempt := t.attempt + 1 }
  { s with tasks := s.tasks.map fun (k : CTask) =>
      if k.tree == t.id then { k with att := k.att + 1, abort := none, reports := [], deadline := 0, base := b - o } else k }

/-- A rewind to an epoch whose records are no longer held: the grid stops with TLATE as a fault (R307, R347). -/
def State.epochLost (s : State) (t : Tree) : State :=
  s.stopTree { t with stop := none } { q := s.chc, core := 0, wave := 0, code := TLATE, pc := 0xFFFFFFFF }

/-! ## Saves (R70, R71, R253) -/

/-- A wave that a save had stopped goes on. -/
def Wave.goOn (w : Wave) : Wave := if w.status == .stopped then { w with status := .live } else w

/-- A save that does not fit (R378): the tree keeps running; a kind-3 entry and a count say so. -/
def State.saveFails (s : State) (t : Tree) : State :=
  let s := (s.updTree t.id fun t => { t with save := false, noStart := false, saveNow := false, hot := false, unsaved := true }).mapWaves fun w =>
    if w.tree == t.id then w.goOn else w
  (s.log { kind := 3, unit := 5, desk := t.desk, tree := t.id }).count (counterKey 13 0) 32

/-- Writes the image of a tree, of a C-mode tree as it stood at epoch `e`, and takes the tree off the device (R71, R378, R404). -/
def State.saveTree (s : State) (t : Tree) (e : Nat) : State :=
  let s' := if t.cmode then s.restoreEpoch t e t.base else s
  match s.desk? t.desk, (s'.tree? t.id).map fun t => s'.savedForm t e with
  | some d, some v =>
    let addr := d.saveNext
    match d.key with
    | none => s.saveFails t
    | some key =>
      if d.saveLen = 0 || decide (d.saveAddr + d.saveLen < addr + v.size) then s.saveFails t
      else
        let (nonce, s) := s'.takeNonce
        let v := s.stamp v addr nonce
        let s := (s.deskWrite t.desk addr (v.sealed key)).updDesk t.desk fun d => { d with saveUse := d.saveUse ++ [(addr, v.size)] }
        ({ s with saved := s.saved ++ [v] } : State).dropTree t.id
  | _, _ => s

/-- Whether nothing of a tree is under way that an image cannot hold (R253): engine operations, matrix instructions, sends, far loads on their way,
accesses held for another task, and in C-mode everything its waves have issued that has still to take effect. -/
def State.quiet (s : State) (t : Tree) : Bool :=
  let due := fun (d : Due) => match d.ev with
    | .flit _ => false
    | .tick _ => false
    | .trecv _ => false
    | .slip => s.slip.isSome && s.eventOf t .slip
    | ev => s.eventOf t ev
  !(s.chans.any fun (_, c) => c.reqs.any fun r => r.tree == t.id) &&
    !(s.cores.any fun (_, c) => c.ops.any fun o => o.tree == t.id && decide (s.chc ≤ o.comp)) &&
    !((s.wavesOf t.id).any fun w => w.far.any fun x => x.due.isSome) &&
    !(s.held.any fun x => match x with | .record u _ _ => u == t.id | .load _ _ _ u _ _ _ => u == t.id | .run .. => false) &&
    (!t.cmode || (!(s.agenda.any due) && !(s.sends.any fun x => x.tree == t.id) && !(s.accesses.any fun a => (s.wavesOf t.id).any fun w => w.wid == a.wid)))

/-- Whether the forced save of a tree can be made now: no exempt window is open (R72, R297), and in L-mode every wave has stopped and what could
commit has; in C-mode every wave has marked a restart epoch since the request, or a second period has passed (R71); and nothing is under way
(R253). -/
def State.maySave (s : State) (t : Tree) : Bool :=
  t.save && t.stop.isNone && !t.debug && !t.resuming && !s.saveExempt t && s.quiet t &&
    if t.cmode then t.saveNow || decide (t.saveEpoch < s.commonEpoch t.id)
    else !s.mayCommit t && (s.wavesOf t.id).all fun w => w.status == .stopped || w.status == .ended

/-- CONTEXT_SAVE (R378): of a C-mode tree at its last common restart epoch (R71), whose records must be held (R307). -/
def execContextSave (tree : Nat) (s : State) : Host.Outcome State Fault Refusal :=
  match s.tree? tree with
  | none => .fault .noOccasion
  | some t =>
    if !s.maySave t then .fault .noOccasion
    else if t.cmode && !s.hasEpoch tree (s.commonEpoch tree) then .next (s.epochLost t)
    else .next (s.saveTree t (if t.cmode then s.commonEpoch tree else 0))

/-- FORCED_SAVE_SECOND_PERIOD (R71): no common restart epoch came within a second period, and no exempt window is open (R72, R297): every wave
stops, what is under way completes, and the grid is rewound to its last common epoch and saved. When the period passes is open (assumption
log 11). -/
def execForcedSaveSecondPeriod (tree : Nat) (s : State) : Host.Outcome State Fault Refusal :=
  match s.tree? tree with
  | none => .fault .noOccasion
  | some t =>
    if !(t.cmode && t.save && t.stop.isNone && !t.saveNow && !s.saveExempt t) then .fault .noOccasion
    else .next (s.updTree tree fun t => { t with saveNow := true })

/-! ## Resumes (R254, R255, R378) -/

/-- The compute die that a unit's throttle point concerns (R10, R26): itself, or the die to whose port the stack attaches. -/
def hotDie (u : Nat) : Option Nat := if u ≤ 3 then some u else if 8 ≤ u && u ≤ 15 then some ((u - 8) / 2) else none

/-- Whether a compute die that a saved tree has its logical cores on is still at its throttle point (R26). -/
def State.stillHot (s : State) (v : Saved) : Bool :=
  (s.throttled.filterMap hotDie).any fun die => v.teams.any fun m => v.tree.dies.getD (m.core % 512 / 88) 0 = die

/-- Whether the places a saved tree needs are free: its desk's cores, table slots (R321) and every team's residency slot; a C-mode grid that met a
throttle point waits until the die has cooled (R26), a desk of a higher priority that waits goes first (R369), and a device that shuts down resumes
nothing (R28). -/
def State.roomFor (s : State) (sv : Saved) : Bool :=
  s.shutdown.isNone && s.coresFree sv.tree && !s.outranked sv.tree.desk sv.tree.onDies && !(sv.tree.hot && s.stillHot sv) && slotsFit (s.tslotsFor sv.tree.dies sv.tree.n sv.tree.code.stencils.length) sv.tree.code.stencils.length &&
    sv.teams.all (fun m => s.roomAt m.core m.w0 m.w m.sbase m.s m.abase m.a && !s.reserved sv.tree m.core && !(s.core m.core).testDue) &&
    (!sv.tree.cmode || (!(s.trees.any (·.cmode)) && sv.teams.all fun m => !(s.teams.any fun x => x.core == m.core)))

/-- The restart count of a rewind after count `a` (R345). -/
def restartCount (a : Nat) : Nat := (a + 65536 + 4095) / 4096 * 4096

/-- The chorus task that a resumed C-mode tree runs under: the one it was saved with, or, for an image of another part, one of its own (R376). -/
def State.resumedTask (s : State) (v : Saved) : List CTask :=
  if !v.tree.cmode then []
  else match v.task with
    | some k => [k]
    | none => [{ id := s.nextTask, tag := 0, desk := v.tree.desk, tree := v.tree.id, lead := s.devNo, members := [(s.devNo, match v.tree.grid? 0 with | some g => g.teams | none => 0)]
                 dispatched := true, since := s.chc }]

/-- Puts a saved core back: its generators and planes (R92, R279), the buffer-table entries where this tree's stand and none of another tree
(Table 14-10), its handles. -/
def State.restoreSaved (s : State) (tree key : Nat) (x : Core) : State :=
  let mine := s.teams.any fun m => m.tree == tree && m.core == key
  s.updCore key fun (c : Core) =>
    { c with vgen := x.vgen, dgen := x.dgen, active := x.active, plane0 := s.reloadPlane key x.plane0, plane1 := s.reloadPlane key x.plane1
             tags := if mine then x.tags else c.tags, tree := if mine then x.tree else c.tree, recs := if mine then x.recs else c.recs
             bufs := x.bufs.foldl (fun (m : Store Buf) b => if (m.get {} b.1).state = 0 then m.put {} b.1 b.2 else m) c.bufs
             handles := x.handles.foldl (fun (m : Store Handle) h => m.put {} h.1 h.2) c.handles }

/-- Puts a saved tree back (R254, R255): every team on its logical core and in its residency slot; an L-mode tree first commits its pending records;
a C-mode tree goes on at its epoch and a new base (R348). -/
def State.restoreTree (s : State) (v : Saved) : State :=
  let task := s.resumedTask v
  let s := s.lend v.tree.desk v.tree.dies
  let t := { v.tree with tslots := s.tslotsFor v.tree.dies v.tree.n v.tree.code.stencils.length, resuming := !v.tree.pend.isEmpty, hot := false
                         ctask := match task with | k :: _ => k.id | [] => 0 }
  let outside := fun (xs : Store Byte) => xs.filter fun (x : Nat × Byte) => !v.teams.any fun m => m.keeps x.1
  let s := { s with
    trees := s.trees ++ [t]
    nextTree := max s.nextTree (t.id + 1)
    nextTask := (task.map fun (k : CTask) => k.id + 1).foldl max s.nextTask
    nextAcc := (v.waves.flatMap fun (w : Wave) => w.far.map fun (x : Far) => x.id + 1).foldl max s.nextAcc
    teams := s.teams ++ v.teams
    waves := s.waves ++ v.waves.map Wave.goOn
    tasks := s.tasks ++ task
    slices := v.slices.foldl (fun (m : Store Byte) (x : Nat × Byte) => m.put emptyByte x.1 x.2) (outside s.slices)
    slicesC := v.slicesC.foldl (fun (m : Store Byte) (x : Nat × Byte) => m.put emptyByte x.1 x.2) (outside s.slicesC)
    accs := v.accs.foldl (fun (m : Store Word) (x : Nat × Word) => m.put 0 x.1 x.2) (s.accs.filter fun (x : Nat × Word) => !v.teams.any fun m => m.banks x.1) }
  let s := (s.loadStencils t).loadPins t
  let s := t.coreKeys.foldl (fun (s : State) k => s.restoreSaved t.id k (v.cores.get {} k)) s
  if t.cmode then s.rewindTree t v.epoch (restartCount s.chc) else s

/-- A saved tree whose debug session has it in a debug stop: a C-mode tree saved for the stop (R248). -/
def State.debugSaved (s : State) (id : Nat) : Option Saved := s.saved.find? fun x => x.held && x.tree.id == id && x.tree.saveWhy = 2

/-- Ends the device's hold on a saved image (R378): its space is freed, and a save that did not fit may fit now. -/
def State.releaseImage (s : State) (sv : Saved) : State :=
  let s := { s with saved := s.saved.map fun x => if x = sv then { x with held := false } else x
                    trees := s.trees.map fun (t : Tree) => if t.desk = sv.tree.desk then { t with unsaved := false } else t }
  s.updDesk sv.tree.desk fun d => { d with saveUse := d.saveUse.filter (· ≠ sv.image) }

/-- Whether a saved tree's image stands in memory as it was sealed and the desk still has its key (R404). -/
def State.intact (s : State) (sv : Saved) : Bool :=
  match (s.desk? sv.tree.desk).bind (·.key) with
  | some key => s.deskRead sv.tree.desk sv.image.1 sv.image.2 == sv.sealed key
  | none => false

/-- AUTO_RESUME (R378): a tree saved for a debug stop (R248) waits for CONTINUE. A tree whose image's tag fails is not resumed (R404): its launch ends
with status 8, as a RESUME slot would, which is this model's choice (assumption log 72). -/
def execAutoResume (tree : Nat) (s : State) : Host.Outcome State Fault Refusal :=
  match s.saved.find? fun x => x.held && x.tree.id == tree && x.tree.saveWhy ≠ 2 with
  | none => .fault .noOccasion
  | some sv =>
    if !s.roomFor sv then .fault .noOccasion
    else if s.intact sv then .next ((s.releaseImage sv).restoreTree sv)
    else .next (((s.releaseImage sv).keep sv.tree).endLaunch sv.tree 8 0)

end Sys2Proof.Machine
end

