-- ==== Sys2Proof/Machine/Domain.lean ====
section
/-! DEFINITION. The chorus domain: lock, arriving flits, untimed flows, dispatch of chorus tasks, and the abort and rewind of a task
(20_chorus.md R328 to R348, R416, R417; 24_front_end.md R376). -/

namespace Sys2Proof.Machine

/-! ## Tasks by name -/

/-- Updates a chorus task. -/
def State.updTask (s : State) (id : Nat) (f : CTask → CTask) : State :=
  { s with tasks := s.tasks.map fun k => if k.id == id then f k else k }
/-- A chorus task. -/
def State.task? (s : State) (id : Nat) : Option CTask := s.tasks.find? fun k => k.id == id
/-- The chorus task that runs on this device: at most one (R329). -/
def State.running? (s : State) : Option CTask := s.tasks.find? (·.dispatched)

/-! ## The stop of a task (R344, R347, R417) -/

/-- The task stops as a fault with TLATE, class G, and is not rewound (R347); a grid that raised a fault of its own keeps its code (R417). -/
def State.failTask (s : State) (k : CTask) : State :=
  match s.tree? k.tree with
  | none => s
  | some t =>
    let s := s.updTask k.id fun k => { k with failed := true, deadline := 0 }
    match t.stop with
    | some (_, _ :: _) => s
    | some (c, []) => s.updTree t.id fun t => { t with stop := some (c, [{ q := c, core := 0, wave := 0, code := TLATE, pc := 0xFFFFFFFF, chc := s.chc }]) }
    | none =>
      let r : Raised := { q := s.chc, core := 0, wave := 0, code := TLATE, pc := 0xFFFFFFFF, chc := s.chc }
      (s.updTree t.id fun t => { t with stop := some (s.chc, [r]) }).dropSlip

/-- A token of a task, flooded (R344): kind 4 abort, 5 report, 6 restart. `src` is the device it comes from. -/
def State.token (s : State) (k : CTask) (src kind att count epoch : Nat) : State :=
  s.flood (ctlFlit kind 0 src 0x1FF (att % 256) 0 0 0 count epoch k.id)

/-- Stops the grid of a task at this count (R344): every wave forfeits every later cycle, and a pending slip is dropped. -/
def State.stopGrid (s : State) (tree : Nat) : State :=
  match s.tree? tree with
  | some t => if t.stop.isSome then s else (s.updTree tree fun t => { t with stop := some (s.chc, []) }).dropSlip
  | none => s

/-- Advances the attempt of each collective group the task's code object names (R346, R327). -/
def State.advanceGroups (s : State) (tree : Nat) : State :=
  match s.tree? tree with
  | some t => s.updDesk t.desk fun d => { d with groups := t.code.groups.eraseDups.foldl (fun g i => g.put 0 i ((g.get 0 i + 1) % 256)) d.groups }
  | none => s

/-- The lead sets its deadline by the least abort count it has seen (R345). -/
def State.setDeadline (s : State) (id : Nat) : State :=
  match s.task? id with
  | none => s
  | some k =>
    match k.abort with
    | none => s
    | some a =>
      if k.lead ≠ s.devNo || k.failed || a = allOnes then s
      else
        let a := k.reports.foldl (fun m r => min m r.2.2) a
        (s.updTask id fun k => { k with deadline := a + 40960 }).schedule (a + 40960) 0 0 .restartDeadline

/-- Notes an epoch report (R345): the first of a device counts; another device forwards it (R344). None counts once the task has failed (R417). -/
def State.noteReport (s : State) (k : CTask) (dev epoch count : Nat) : State :=
  if k.failed || k.abort == some allOnes || k.reports.any (·.1 == dev) then s
  else
    let s := if dev = s.devNo || k.lead ≠ s.devNo then s.token k dev 5 k.att count epoch else s
    (s.updTask k.id fun k => { k with reports := k.reports ++ [(dev, epoch, count)] }).setDeadline k.id

/-- An abort token of a task's current attempt, of this device or received from device `src` (R344, R417). -/
def State.abortTask (s : State) (k : CTask) (src count : Nat) : State :=
  let fail := fun (s : State) =>
    let s := if k.lead = s.devNo then s.token k s.devNo 6 k.att 0 0 else s
    s.failTask k
  match k.abort with
  | none =>
    let s := s.token k src 4 k.att count 0
    let s := ((s.stopGrid k.tree).dropTimed).advanceGroups k.tree
    let s := s.updTask k.id fun k => { k with abort := some count }
    if count = allOnes then fail s
    else match s.task? k.id with
      | some k => s.noteReport k s.devNo (s.leastEpoch k.tree) count
      | none => s
  | some a =>
    if a = allOnes then s
    else if count = allOnes then fail ((s.token k src 4 k.att count 0).updTask k.id fun k => { k with abort := some count })
    else (s.updTask k.id fun k => { k with abort := some (min a count) }).setDeadline k.id

/-- The abort count of this device falls due: the token of its own grid. -/
def State.abortDue (s : State) (task count : Nat) : State :=
  match s.task? task with
  | some k => if k.dispatched then s.abortTask k s.devNo count else s
  | none => s

/-- ABORT_TOKEN (R344): a token of the current attempt of the task that runs here; the device it comes from is free. -/
def execAbortToken (att count : Nat) (s : State) : Host.Outcome State Fault Refusal :=
  match s.running? with
  | some k =>
    if att % 256 = k.att % 256 then let (x, s) := s.draw; .next (s.abortTask k (x.toNat % 512) count) else .fault .noOccasion
  | none => .fault .noOccasion

/-- EPOCH_REPORT (R345): of a member of the task. -/
def execEpochReport (dev epoch count : Nat) (s : State) : Host.Outcome State Fault Refusal :=
  match s.running? with
  | some k => if k.members.any (·.1 == dev) then .next (s.noteReport k dev epoch count) else .fault .noOccasion
  | none => .fault .noOccasion

/-! ## Rewinding (R345 to R348) -/

/-- Restores the grid of a task to epoch `e` with restart count `b` (R346); a save that is pending takes place instead (R348). A device without
the records of the epoch stops the task (R347). -/
def State.restartTask (s : State) (k : CTask) (e b : Nat) : State :=
  match s.tree? k.tree with
  | none => s
  | some t =>
    if !s.hasEpoch t.id e then
      let s := s.updTask k.id fun k => { k with att := k.att + 1, abort := none, reports := [], deadline := 0 }
      match s.task? k.id with | some k => s.abortTask k s.devNo allOnes | none => s
    else if t.save then
      let s := s.saveTree t e
      match s.tree? t.id with
      | some t => s.rewindTree t e b
      | none => s
    else s.rewindTree t e b

/-- The rewind of the lead at its deadline (R345, R347): a missing report, missing records, or the 17th successive rewind to one epoch that no wave
has passed since the first of them stops the task. That a wave has passed is seen of the waves here and of a member whose report is past the epoch;
of the others it is free. -/
def State.rewindOn (s : State) (k : CTask) (a : Nat) : State :=
  let stop := fun (s : State) => (s.token k s.devNo 6 (k.att + 1) 0 0).failTask k
  match k.reports with
  | [] => stop s
  | r :: rs =>
    if !(k.members.all fun m => k.reports.any (·.1 == m.1)) then stop s
    else
      let a := (r :: rs).foldl (fun m x => min m x.2.2) a
      let e := rs.foldl (fun m x => min m x.2.1) r.2.1
      let (x, s) := if 1 < k.members.length then s.draw else (0, s)
      let passed := (s.wavesOf k.tree).any (fun w => decide (e < w.epoch)) || (r :: rs).any (fun x => decide (e < x.2.1)) || bit x.toNat 0
      let n := if e = k.lastE && !passed then k.rewinds + 1 else 1
      if 16 < n || !s.hasEpoch k.tree e then stop s
      else
        let b := restartCount a
        let s := (s.token k s.devNo 6 (k.att + 1) b e).updTask k.id fun k => { k with rewinds := n, lastE := e }
        s.restartTask k e b

/-- RESTART_DEADLINE (R345). -/
def execRestartDeadline (s : State) : Host.Outcome State Fault Refusal :=
  match s.running? with
  | none => .fault .noOccasion
  | some k =>
    match k.abort with
    | none => .fault .noOccasion
    | some a =>
      if k.lead = s.devNo && !k.failed && a ≠ allOnes && k.deadline ≠ 0 && k.deadline ≤ s.chc then .next (s.rewindOn k a) else .fault .noOccasion

/-- A restart token of a task's next attempt; COUNT 0 tells that the task stops (R345 to R347). -/
def State.restartToken (s : State) (k : CTask) (src att epoch count : Nat) : State :=
  if k.failed || k.abort.isNone then s
  else if count = 0 then (s.token k src 6 att 0 0).failTask k
  else if att % 256 = (k.att + 1) % 256 then (s.token k src 6 att count epoch).restartTask k epoch count
  else s

/-- RESTART_TOKEN (R346): of the lead. -/
def execRestartToken (att epoch count : Nat) (s : State) : Host.Outcome State Fault Refusal :=
  match s.running? with
  | some k => if k.abort.isSome && !k.failed then .next (s.restartToken k k.lead att epoch count) else .fault .noOccasion
  | none => .fault .noOccasion

/-! ## Lock (R330 to R334) -/

/-- The device falls out of lock (R334): the task it runs stops (R347), and the device leaves the domain; %drift reads as out of lock until it joins
again (Table 20-1). -/
def State.loseLock (s : State) : State :=
  let port := match s.domain with | some d => d.inUse | none => 0
  let s := s.log { kind := 5, unit := 4, ploc := port }
  let s := match s.running? with | some k => s.abortTask k s.devNo allOnes | none => s
  { s with domain := none, drift := 0x8000000000000000 }

/-- Takes the result of a phase measurement (R331 to R334): beyond 128 the device is out of lock; else it is held, a breach of the budget is entered,
and the next measurement falls due after 2^22 cycles. -/
def State.takeDrift (s : State) (d : Domain) (value : Dword) : State :=
  let n := value.toInt.natAbs
  if 128 < n then s.loseLock
  else
    let s := ({ s with drift := value, domain := some { d with measured := s.chc } } : State).schedule (s.chc + 2 ^ 22) 0 0 .drift
    if 64 < n then s.count (counterKey 10 0) 32 else s

/-- The offset that a two-way stamp exchange gives (R331): the own stamp minus half the round trip, plus the parent's offset. -/
def driftOf (own trip parent : Dword) : Dword := own - trip / 2 + parent

/-- The measurement that falls due every 2^22 cycles (R331). Since the last one a locked device has wandered by at most 32 (R332); how far, the round
trip and the parent's offset are free. The root is the reference. -/
def State.driftDue (s : State) : State :=
  match s.domain with
  | none => s
  | some d =>
    if s.chc < d.measured + 2 ^ 22 then s
    else if d.dev = d.root then s.takeDrift d 0
    else
      let (x, s) := s.draw
      let (trip, s) := s.draw
      let (parent, s) := s.draw
      let own := s.drift + BitVec.ofInt 64 (Int.ofNat (x.toNat % 65) - 32) + trip / 2 - parent
      s.takeDrift d (driftOf own trip parent)

/-- DRIFT_MEASUREMENT (R331, R333, R334): the measurement that is due, with a result from outside (assumption log 14). -/
def execDriftMeasurement (value : BitVec 64) (s : State) : Host.Outcome State Fault Refusal :=
  match s.domain with
  | none => .fault .noOccasion
  | some d => if s.chc < d.measured + 2 ^ 22 then .fault .noOccasion else .next (s.takeDrift d value)

/-- PARENT_PORT_FAILURE (R330, R334): the device goes over to its secondary port; without one left it falls out of lock. -/
def execParentPortFailure (s : State) : Host.Outcome State Fault Refusal :=
  match s.domain with
  | none => .fault .noOccasion
  | some d =>
    if d.inUse = d.primary && d.primary ≠ d.secondary then
      .next (({ s with domain := some { d with inUse := d.secondary } } : State).count (counterKey 11 0) 32)
    else .next s.loseLock

/-! ## Untimed flows (R340 to R342) -/

/-- A run of operation `op` that this device is handed as a whole: the group of a COLL is named, its other marks are drawn (assumption log 14). -/
def State.wholeRun (s : State) (src chan seq op dest group att exp : Nat) (payload : List Byte) : State :=
  let (m, s) := s.draw
  let coll := if group < 256 then some (group, markStep m) else none
  s.takeRun src chan seq op dest payload.length false (State.applyRun src chan seq op dest att exp coll m payload)

/-- WRITE (R342). -/
def execRunWrite (src chan seq dest group att exp : Nat) (payload : List Byte) (s : State) : Host.Outcome State Fault Refusal :=
  .next (s.wholeRun src chan seq 0 dest group att exp payload)
/-- SUM.F32 (R342). -/
def execRunSumF32 (src chan seq dest group att exp : Nat) (payload : List Byte) (s : State) : Host.Outcome State Fault Refusal :=
  .next (s.wholeRun src chan seq 1 dest group att exp payload)
/-- SUM.I32 (R342). -/
def execRunSumI32 (src chan seq dest group att exp : Nat) (payload : List Byte) (s : State) : Host.Outcome State Fault Refusal :=
  .next (s.wholeRun src chan seq 2 dest group att exp payload)
/-- MAX.S32 (R342). -/
def execRunMaxS32 (src chan seq dest group att exp : Nat) (payload : List Byte) (s : State) : Host.Outcome State Fault Refusal :=
  .next (s.wholeRun src chan seq 3 dest group att exp payload)
/-- ADD.I64 (R342). -/
def execRunAddI64 (src chan seq dest : Nat) (operand : BitVec 64) (s : State) : Host.Outcome State Fault Refusal :=
  .next (s.wholeRun src chan seq 0x10 dest 256 0 0 (leBytes 8 operand.toNat))

/-- The old value of an ADD.I64 run has come back (R342). -/
def State.takeReply (s : State) (src chan seq : Nat) (old : Dword) : State :=
  let k := flowKey chan src
  let f : FlowOut := s.flowsOut.get {} k
  { s with flowsOut := s.flowsOut.put {} k { f with replies := ((seq, old) :: f.replies.filter (·.1 ≠ seq)).take 64 } }

/-- ATOMREPLY (R342). -/
def execAtomreply (src chan seq : Nat) (old : BitVec 64) (s : State) : Host.Outcome State Fault Refusal := .next (s.takeReply src chan seq old)

/-- Whether sequence number `a` is at or before `b`. -/
def seqLe (a b : Nat) : Bool := decide ((b + 2 ^ 32 - a) % 2 ^ 32 < 2 ^ 31)

/-- An acknowledgement releases the runs of a flow that it covers (R340): their bytes are delivered (R128). -/
def State.takeAck (s : State) (dev chan seq : Nat) : State :=
  let k := flowKey chan dev
  let f : FlowOut := s.flowsOut.get {} k
  let (gone, kept) := f.kept.partition fun r => seqLe r.seq seq
  if gone.isEmpty then s
  else
    let due := s.chc + 16384
    let s := { s with flowsOut := s.flowsOut.put {} k { f with kept := kept, resends := 0, deadline := due } }
    let s := gone.foldl (fun (s : State) (r : RunOut) => if r.op ≤ 3 then s.addWptr r.chan r.payload.length else s) s
    if kept.isEmpty then s else s.schedule due 0 0 (.resend chan dev)

/-- ACK (R340). -/
def execAck (dev chan seq : Nat) (s : State) : Host.Outcome State Fault Refusal := .next (s.takeAck dev chan seq)

/-- A flow fails (R340): its runs are given up, the record names the link, and the operations they belong to report MEMERR. -/
def State.failFlow (s : State) (chan dev : Nat) (r : RunOut) : State :=
  let k := flowKey chan dev
  let all := s.unacked chan dev
  let f : FlowOut := s.flowsOut.get {} k
  let s := { s with flowsOut := s.flowsOut.put {} k { f with kept := [], resends := 0, deadline := 0 } }
  let s := s.dropRuns fun x => match x.own with | some o => flowKey o.chan o.dev = k | none => false
  let s := s.log { kind := 5, unit := 4, ploc := (s.route dev).getD 0, desk := chanDesk r.chan, detail := r.seq }
  ((all.map (·.chan)).eraseDups).foldl (fun (s : State) c => match (s.chan c).op with
    | some o => if s.farPacket o.req.packet && pPdev o.req.packet = dev then
        (s.updChan c fun c => { c with op := none, doneAt := s.chc }).endReq o.req (some (MEMERR, r.dest)) else s
    | none => s) s

/-- FLOW_RESEND_TIMEOUT (R340): every run kept is sent again; after 8 resends without progress the flow fails. -/
def execFlowResendTimeout (chan dev : Nat) (s : State) : Host.Outcome State Fault Refusal :=
  let k := flowKey chan dev
  let f : FlowOut := s.flowsOut.get {} k
  match f.kept with
  | [] => .fault .noOccasion
  | r :: _ =>
    if s.chc < f.deadline then .fault .noOccasion
    else if f.resends < 8 then
      let s := { s with flowsOut := s.flowsOut.put {} k { f with resends := f.resends + 1, deadline := s.chc + 16384 } }
      .next ((f.kept.foldl (fun (s : State) r => s.emitRun r) s).schedule (s.chc + 16384) 0 0 (.resend chan dev))
    else .next (s.failFlow chan dev r)

/-! ## Arriving flits (R336 to R339) -/

/-- A field of a control flit (Table 20-2). -/
def cf (b : List Byte) (at_ n lo w : Nat) : Nat := field b at_ n / 2 ^ lo % 2 ^ w

/-- Counts a dropped flit (R338); the lane it failed on is free (assumption log 10). -/
def State.dropFlit (s : State) (port : Nat) : State :=
  let (x, s) := s.draw
  s.count (counterKey 8 (port * 8 + x.toNat % 8)) 32

/-- Sets the run in progress on a port. -/
def State.setRun (s : State) (port : Nat) (r : Option RunIn) : State := { s with runsIn := s.runsIn.put none port r }

/-- Payload of an untimed run as far as it has arrived: COUNT bytes of its data flits, all of them when COUNT is 0 (assumption log 14). -/
def RunIn.payload (r : RunIn) : List Byte := if r.count = 0 then r.got.flatten else r.got.flatten.take r.count

/-- An untimed run for this device has ended (R342), or has given way on its path (`cut`). A run with a flit missing is not taken in, and is sent
again (R338, R340). -/
def State.runDone (s : State) (r : RunIn) (cut : Bool) : State :=
  let op := r.dest / 2 ^ 48 % 256
  let dest := r.dest % 2 ^ 47
  let chan := r.flow / 2 ^ 32 % 64
  let seq := r.flow % 2 ^ 32
  let exp := r.flow / 2 ^ 48
  let bytes := r.payload
  let take := fun act => s.takeRun r.sdev chan seq op dest bytes.length cut act
  if r.got.any List.isEmpty then s
  else if op = 0x11 then (if cut then s else s.takeReply r.sdev chan seq (BitVec.ofNat 64 (leNat (bytes.take 8))))
  else if op = 0xF1 then take fun s => match execReleaseNotice r.sdev exp s with | .next s => s | _ => s
  else if op = 0xF2 then take fun s => match execRevokeNotice r.sdev exp s with | .next s => s | _ => s
  else take (State.applyRun r.sdev chan seq op dest r.att exp (markColl op r.mark) r.mark bytes)

/-- Whether a run belongs to the chorus task of this device (R339): a timed run, or the KIND 2 header of a sector pair. -/
def RunIn.timed (r : RunIn) : Bool := r.kind = 1 || r.task ≠ 0

/-- The next data flit of a timed run for this device (R339): one of an earlier attempt, or after the stop, is discarded on arrival (R344). Of one
that was dropped (no bytes) a sector pair leaves a missing sector (R343). R110 names no calendar slot for a requester on another device: a pair bound
for a stack takes slots that no requester owns, kept per port (DESIGN CHOICE, assumption log 14). -/
def State.timedFlit (s : State) (port : Nat) (r : RunIn) (bytes : Option (List Byte)) : State :=
  match s.running? with
  | none => s
  | some k =>
    match s.tree? k.tree with
    | none => s
    | some t =>
      let i := r.got.length
      let op := r.dest / 2 ^ 48 % 256
      let coll := r.kind = 2 && (markColl op r.mark).isSome
      if k.id ≠ r.task || t.stop.isSome || (!coll && t.attempt % 256 ≠ r.att) then s
      else
        let id := s.nextAcc
        let s := { s with nextAcc := id + 1 }
        let base : Flit := { id := id, at_ := s.chc + 64, task := t.id, attempt := t.attempt, core := 0, off := 0, tag := 0, bytes := bytes.getD [] }
        let user : User := { cls := 1, place := 1024 + port }
        if r.kind = 1 then
          match bytes with
          | none => s
          | some _ =>
            let core := t.desk * 512 + r.dest % 2 ^ 10
            let off := r.dest / 2 ^ 10 % 2 ^ 24 + 64 * i
            let s := s.claimFlit core off (s.chc + 64) id user false
            ({ s with flits := s.flits ++ [{ base with core := core, off := off, tag := r.tag }] } : State).schedule (s.chc + 64) 1 0 (.flit id)
        else
          let va := r.dest % 2 ^ 47 + 64 * i
          let (at_, core, s) := match s.locate (deskView t.desk) t.n va with
            | .ok (.page x) =>
              let (c, s) := s.takeSlot (1024 + port) (· == SlotOwner.free) (x.writeLog + x.off) (s.chc + 112)
              (c, t.desk * 512, s)
            | .ok (.slice c o) => (s.chc + 64, c, if bytes.isSome then s.claimFlit c o (s.chc + 64) id user false else s)
            | .error _ => (s.chc + 64, t.desk * 512, s)
          let data := if r.count = 0 then base.bytes else base.bytes.take (r.count - 64 * i)
          ({ s with flits := s.flits ++ [{ base with at_ := at_, core := core, va := some va, op := op, att := r.att, mark := r.mark, bytes := data, src := r.sdev, exp := r.flow / 2 ^ 48 % 2 ^ 16 }] } : State).schedule at_ 1 0 (.flit id)

/-- Forwards the header of a run on the link to its destination (R339, R416), ready 48 counts after its arrival; answers the run's number there. An
untimed run is ordered by its engine; a timed one's header names no source core (assumption log 14). -/
def State.forwardHead (s : State) (r : RunIn) (b : List Byte) : Nat × State :=
  match s.route r.ddev with
  | none => (0, s)
  | some p =>
    let id := s.nextAcc
    let core := if r.kind = 2 then engineCore (r.flow / 2 ^ 32 % 64) else 0
    (id, ({ s with nextAcc := id + 1 } : State).addRun p
      { id := id, timed := r.timed, ready := s.chc + 48, dev := r.sdev, core := core, pdev := r.ddev, head := b, left := r.left })

/-- Forwards a control flit that belongs to no run: an acknowledgement. -/
def State.forwardAck (s : State) (sdev ddev : Nat) (b : List Byte) : State :=
  (s.forwardHead { kind := 2, left := 0, ddev := ddev, sdev := sdev, att := 0, tag := 0, dest := 0, flow := field b 16 8, task := 0 } b).2

/-- What a forwarded run has not received will not come: it ends with what it has (R337). -/
def State.endForward (s : State) (r : RunIn) : State :=
  match s.route r.ddev with
  | none => s
  | some p =>
    let f := fun x : LinkRun => if x.id = r.out then { x with left := x.flits.length } else x
    (s.updLink p fun l => { l with runs := l.runs.map f, cur := (l.cur.map f).filter fun x => x.left ≠ 0 }).armLink p

/-- The run in progress on a port ends before its last flit when a header or token takes its slot (R337): an untimed one gives way, a timed one is
one whose device has stopped (R344). -/
def State.breakRun (s : State) (port : Nat) : State :=
  match s.runsIn.get none port with
  | some r =>
    let s := s.setRun port none
    if r.ddev ≠ s.devNo then s.endForward r
    else if r.timed then s
    else s.runDone r true
  | none => s

/-- A data flit whose header was dropped is discarded (R338); where it carried a sector pair of the task that runs here, which is free, the sectors
are missing at their count (R343; assumption log 14). -/
def State.orphanFlit (s : State) : State :=
  match s.running?.bind fun k => s.tree? k.tree with
  | none => s
  | some t =>
    if t.stop.isSome then s
    else
      let (x, s) := s.draw
      if !bit x.toNat 0 then s
      else
        let id := s.nextAcc
        let f : Flit := { id := id, at_ := s.chc + 64, task := t.id, attempt := t.attempt, core := t.desk * 512, off := 0, tag := 0, bytes := [], va := some 0 }
        ({ s with nextAcc := id + 1, flits := s.flits ++ [f] } : State).schedule (s.chc + 64) 1 0 (.flit id)

/-- A data flit arrives (R336): `bytes` is none for one that was dropped, whose slot is forwarded as IDLE (R338). -/
def State.dataFlit (s : State) (port : Nat) (bytes : Option (List Byte)) : State :=
  match s.runsIn.get none port with
  | none => s.orphanFlit
  | some r =>
    let mine := decide (r.ddev = s.devNo)
    let s :=
      if !mine then match s.route r.ddev with | some p => s.addFlit p r.out (s.chc + 48) bytes | none => s
      else if r.timed then s.timedFlit port r bytes else s
    let r := { r with left := r.left - 1, got := r.got ++ [bytes.getD []] }
    if 0 < r.left then s.setRun port (some r)
    else
      let s := s.setRun port none
      if mine && !r.timed then s.runDone r false else s

/-- A token of a task that does not run here floods on, its first copy only (R344, R416; assumption log 14). -/
def State.relay (s : State) (b : List Byte) : State :=
  if s.relayed.contains b then s else ({ s with relayed := (b :: s.relayed).take 64 } : State).flood b

/-- A control flit arrives (R336, Table 20-2). A header of KIND 2 with a reserved operation is dropped (R342); IDLE in an untimed run stands for a
data flit that an earlier device dropped (R338); in a timed one whether it does, or is a slot held for a flit that was not ready (R337), is free
(assumption log 14). -/
def State.controlFlit (s : State) (port : Nat) (b : List Byte) : State :=
  let kind := cf b 0 1 0 4
  let rlen := cf b 1 1 0 8
  let sdev := cf b 2 2 0 9
  let ddev := cf b 4 2 0 9
  let att := byteAt b 6
  let flow := field b 16 8
  let count := field b 24 8
  let epoch := field b 32 4
  let task := field b 36 4
  let mine := decide (ddev = s.devNo)
  match kind with
  | 0 => match s.runsIn.get none port with
    | some r =>
      let (x, s) := if r.timed then s.draw else (1, s)
      if bit x.toNat 0 then s.dataFlit port none else s
    | none => s
  | 1 | 2 =>
    let s := s.breakRun port
    if kind = 2 && !runCode (field b 8 8 / 2 ^ 48 % 256) then s.dropFlit port
    else
      let (m, s) := if kind = 2 && mine then s.draw else (0, s)
      let r : RunIn := { kind := kind, left := rlen, ddev := ddev, sdev := sdev, att := att, tag := cf b 7 1 0 4, dest := field b 8 8, flow := flow, task := task
                         count := count, mark := m }
      let (out, s) := if mine then (0, s) else s.forwardHead r b
      if rlen = 0 then (if mine && !r.timed then s.runDone r false else s) else s.setRun port (some { r with out := out })
  | 3 => if mine then s.takeAck sdev (flow / 2 ^ 32 % 64) (flow % 2 ^ 32) else s.forwardAck sdev ddev b
  | 4 | 5 | 6 =>
    let s := s.breakRun port
    match s.running? with
    | some k =>
      if k.id ≠ task then s.relay b
      else if kind = 6 then s.restartToken k sdev att epoch count
      else if k.att % 256 ≠ att then s
      else if kind = 4 then s.abortTask k sdev count
      else if k.members.any (·.1 == sdev) then s.noteReport k sdev epoch count
      else s
    | none => s.relay b
  | _ => s.dropFlit port

/-- FLIT_ARRIVAL (R335, R338): the check word tells a data flit from a control flit; a flit that fails under both class constants is dropped. -/
def execFlitArrival (port : Nat) (flit : BitVec 512) (check : BitVec 32) (s : State) : Host.Outcome State Fault Refusal :=
  let b := leBytes 64 flit.toNat
  let crc := crcExtend 0 b
  if check = crc then .next (s.dataFlit port (some b))
  else if check = crc ^^^ 0xFFFFFFFF then .next (s.controlFlit port b)
  else .next ((s.dropFlit port).dataFlit port none)

/-! ## Dispatch of a chorus task (R376, R40) -/

/-- Whether the cores of a C-mode tree that waits are free of other launch trees (R40). -/
def State.chorusRoom (s : State) (t : Tree) : Bool :=
  match t.grid? 0 with
  | none => false
  | some g => s.coresFree t && (List.range g.teams).all fun l =>
    !(s.teams.any fun m => m.core == t.desk * 512 + l) && !(s.core (t.desk * 512 + l)).testDue

/-- Starts the grid of a chorus task at its base: every team on the logical core of its number (R40). -/
def State.startChorus (s : State) (k : CTask) (t : Tree) (base : Nat) (members : List (Nat × Nat)) : State :=
  let lead := (members.map (·.1)).foldl min s.devNo
  let s := { s with calendar := [] }
  let s := s.updTask k.id fun k => { k with dispatched := true, base := base, members := members, lead := lead }
  let s := (s.updTree t.id fun t => { t with base := base, dispatch := s.chc }).beginTree t.id
  match s.tree? t.id with
  | none => s
  | some t => match t.grid? 0 with
    | none => s
    | some g => (List.range g.teams).foldl (fun (s : State) l =>
      s.startTeam t g { tree := t.id, grid := 0, core := t.desk * 512 + l, t := l, j := 0, w0 := 0, w := g.w, sbase := 0, s := g.s, abase := 0, a := g.a } 0) s

/-- Draws the other members of a task, other devices of the domain, with the team counts of their grids (assumption log 39). -/
def State.drawMembers (s : State) (n : Nat) : List (Nat × Nat) × State :=
  let (ds, s) := State.choose n ((List.range 512).erase s.devNo) s
  ds.foldl (fun (r : List (Nat × Nat) × State) d => let (x, s) := r.2.draw; (r.1 ++ [(d, x.toNat % 353)], s)) ([], s)

/-- Whether two members of a task lie more than 16 hops apart (R329). -/
def State.tooFar (s : State) (ms : List (Nat × Nat)) : Bool :=
  ms.any fun a => ms.any fun b => a.1 ≠ b.1 && decide (16 < s.hopsBetween a.1 b.1)

/-- The task base (R376): the least multiple of 4,096 at or after L + 2^20, with L the count at which the last member's slot started: that of a task of
this device alone, a free count since then of another. A task that has waited for its cores until then (R40) takes it from now on (DESIGN CHOICE,
assumption log 74). -/
def State.taskBase (s : State) (k : CTask) : Nat × State :=
  let up := fun n => (n + 2 ^ 20 + 4095) / 4096 * 4096
  let (x, s) := if 1 < k.nmem then s.draw else (0, s)
  let base := up (k.since + x.toNat % (s.chc - k.since + 1))
  (if s.chc < base then base else up s.chc, s)

/-- Whether a chorus task of this device alone can be dispatched now. -/
def State.mayDispatch (s : State) (k : CTask) : Bool :=
  s.shutdown.isNone && !k.dispatched && match s.tree? k.tree with
    | some t => !t.noStart && !t.debug && !t.save && s.chorusRoom t
    | none => false

/-- CHORUS_TASK_DISPATCH (R376): every member's slot has started. A task of which two members lie more than 16 hops apart is refused (R329). -/
def execChorusTaskDispatch (ctask : Nat) (s : State) : Host.Outcome State Fault Refusal :=
  match s.task? ctask with
  | none => .fault .noOccasion
  | some k =>
    match s.tree? k.tree with
    | none => .fault .noOccasion
    | some t =>
      if !s.mayDispatch k then .fault .noOccasion
      else
        let own := k.members.filter (·.1 == s.devNo)
        let (others, s) := s.drawMembers (k.nmem - 1)
        if s.tooFar (own ++ others) then .next ((s.dropTree t.id).endLaunch t 1 0)
        else
          let (base, s) := s.taskBase k
          .next (s.startChorus k t base (own ++ others))

/-- CHORUS_MEMBER_TIMEOUT (R376): when it passes is open (assumption log 11). -/
def execChorusMemberTimeout (ctask : Nat) (s : State) : Host.Outcome State Fault Refusal :=
  match s.task? ctask with
  | none => .fault .noOccasion
  | some k =>
    match s.tree? k.tree with
    | none => .fault .noOccasion
    | some t => if k.dispatched || k.nmem ≤ 1 then .fault .noOccasion else .next ((s.dropTree t.id).endLaunch t 1 0)

end Sys2Proof.Machine
end

