-- ==== Sys2Proof/Machine/Prologue.lean ====
section
/-! DEFINITION. The prologue of a LAUNCH_IND on a Registrar hart: RV64I in user mode over the desk's memory and a scratch copy of the launch body
(24_front_end.md R377). The encodings of RV64I are those of the RISC-V manual (assumption log 20). -/

namespace Sys2Proof.Machine

/-- Address of the scratch copy: outside the 47 bits of a device virtual address (assumption log 20). -/
def scratchBase : Nat := 2 ^ 63

/-- A hart that runs a prologue: registers, pc, the scratch copy. -/
structure Rv where
  x : Store Dword := []
  pc : Dword
  scratch : List Byte
  deriving DecidableEq, Repr

/-- How a prologue ends (R377): a0 and a1 at ECALL with the scratch copy, the budget passed, or a fault. -/
inductive RvEnd where
  | call (a0 a1 : Dword) (scratch : List Byte)
  | budget
  | bad
  deriving DecidableEq, Repr

/-- Reads x register `n`; x0 is 0. -/
def Rv.get (m : Rv) (n : Nat) : Dword := if n = 0 then 0 else m.x.get 0 n
/-- Writes x register `n`; x0 discards. -/
def Rv.set (m : Rv) (n : Nat) (v : Dword) : Rv := if n = 0 then m else { m with x := m.x.put 0 n v }

/-- Bits of an instruction word. -/
def wbits (w lo n : Nat) : Nat := w / 2 ^ lo % 2 ^ n
/-- I immediate. -/
def immI (w : Nat) : Dword := (BitVec.ofNat 12 (wbits w 20 12)).signExtend 64
/-- S immediate. -/
def immS (w : Nat) : Dword := (BitVec.ofNat 12 (wbits w 25 7 * 32 + wbits w 7 5)).signExtend 64
/-- B immediate. -/
def immB (w : Nat) : Dword := (BitVec.ofNat 13 (wbits w 31 1 * 4096 + wbits w 7 1 * 2048 + wbits w 25 6 * 32 + wbits w 8 4 * 2)).signExtend 64
/-- U immediate. -/
def immU (w : Nat) : Dword := (BitVec.ofNat 32 (wbits w 12 20 * 4096)).signExtend 64
/-- J immediate. -/
def immJ (w : Nat) : Dword := (BitVec.ofNat 21 (wbits w 31 1 * 2 ^ 20 + wbits w 12 8 * 4096 + wbits w 20 1 * 2048 + wbits w 21 10 * 2)).signExtend 64

/-- OP and OP-IMM on 64 bits; `alt` selects SUB and SRA. -/
def rvAlu (f3 : Nat) (alt : Bool) (a b : Dword) : Dword :=
  match f3 with
  | 0 => if alt then a - b else a + b
  | 1 => a <<< (b.toNat % 64)
  | 2 => if a.slt b then 1 else 0
  | 3 => if a.ult b then 1 else 0
  | 4 => a ^^^ b
  | 5 => if alt then a.sshiftRight (b.toNat % 64) else a >>> (b.toNat % 64)
  | 6 => a ||| b
  | _ => a &&& b

/-- OP-32 and OP-IMM-32; none for an illegal function. -/
def rvAluW (f3 : Nat) (alt : Bool) (a b : Dword) : Option Dword :=
  let x := lo32 a; let y := lo32 b
  match f3 with
  | 0 => some ((if alt then x - y else x + y).signExtend 64)
  | 1 => some ((x <<< (y.toNat % 32)).signExtend 64)
  | 5 => some ((if alt then x.sshiftRight (y.toNat % 32) else x >>> (y.toNat % 32)).signExtend 64)
  | _ => none

/-- Branch conditions; none for an illegal function. -/
def rvBranch (f3 : Nat) (a b : Dword) : Option Bool :=
  match f3 with
  | 0 => some (a == b)
  | 1 => some (a != b)
  | 4 => some (a.slt b)
  | 5 => some (!a.slt b)
  | 6 => some (a.ult b)
  | 7 => some (!a.ult b)
  | _ => none

/-- Bytes of the scratch copy or of the desk's memory. -/
def Rv.load (m : Rv) (rd : Nat → Nat → Option Nat) (a n : Nat) : Option Nat :=
  if scratchBase ≤ a then (if a + n ≤ scratchBase + 128 then some (field m.scratch (a - scratchBase) n) else none) else rd a n

/-- A store: to the scratch copy only. -/
def Rv.store (m : Rv) (a n : Nat) (v : Dword) : Option Rv :=
  if scratchBase ≤ a && decide (a + n ≤ scratchBase + 128) then
    let o := a - scratchBase
    some { m with scratch := m.scratch.take o ++ leBytes n v.toNat ++ m.scratch.drop (o + n) }
  else none

/-- One instruction: the hart after it, the end of the prologue, or none for a fault. -/
def Rv.exec (m : Rv) (rd : Nat → Nat → Option Nat) (w : Nat) : Option (Rv ⊕ RvEnd) :=
  let d := wbits w 7 5; let f3 := wbits w 12 3; let a := m.get (wbits w 15 5); let b := m.get (wbits w 20 5); let f7 := wbits w 25 7
  let next := fun m : Rv => some (Sum.inl { m with pc := m.pc + 4 })
  let alt := decide (f7 = 0x20)
  match wbits w 0 7 with
  | 0x37 => next (m.set d (immU w))
  | 0x17 => next (m.set d (m.pc + immU w))
  | 0x6F => some (.inl { m.set d (m.pc + 4) with pc := m.pc + immJ w })
  | 0x67 => if f3 = 0 then some (.inl { m.set d (m.pc + 4) with pc := (a + immI w) &&& ~~~ (1 : Dword) }) else none
  | 0x63 => (rvBranch f3 a b).bind fun t => if t then some (.inl { m with pc := m.pc + immB w }) else next m
  | 0x03 =>
    if f3 = 7 then none
    else
      let n := 2 ^ (f3 % 4)
      (m.load rd (a + immI w).toNat n).bind fun v => next (m.set d (if f3 < 3 then (BitVec.ofNat (8 * n) v).signExtend 64 else BitVec.ofNat 64 v))
  | 0x23 => if 3 < f3 then none else (m.store (a + immS w).toNat (2 ^ f3) b).bind next
  | 0x13 =>
    let sh := f3 = 1 || f3 = 5
    if sh && wbits w 26 6 ≠ 0 && !(f3 = 5 && wbits w 26 6 = 0x10) then none
    else next (m.set d (rvAlu f3 (f3 = 5 && wbits w 26 6 = 0x10) a (immI w)))
  | 0x1B =>
    if (f3 = 1 && f7 ≠ 0) || (f3 = 5 && f7 ≠ 0 && !alt) then none
    else (rvAluW f3 (f3 = 5 && alt) a (immI w)).bind fun v => next (m.set d v)
  | 0x33 => if f7 = 0 || (alt && (f3 = 0 || f3 = 5)) then next (m.set d (rvAlu f3 alt a b)) else none
  | 0x3B => if f7 = 0 || (alt && (f3 = 0 || f3 = 5)) then (rvAluW f3 alt a b).bind fun v => next (m.set d v) else none
  | 0x0F => if f3 = 0 then next m else none
  | 0x73 => if w = 0x73 then some (.inr (.call (m.get 10) (m.get 11) m.scratch)) else none
  | _ => none

/-- Runs a prologue for at most `n` instructions: `fetch` reads an instruction word, `rd` loads bytes; none is a fault. -/
def Rv.run (fetch : Nat → Option Nat) (rd : Nat → Nat → Option Nat) : Nat → Rv → RvEnd
  | 0, _ => .budget
  | n + 1, m =>
    if m.pc.toNat % 4 ≠ 0 then .bad
    else match (fetch m.pc.toNat).bind (m.exec rd) with
      | none => .bad
      | some (.inl m) => Rv.run fetch rd n m
      | some (.inr e) => e

/-- Runs the prologue of a LAUNCH_IND (R377): instructions come from pages of the desk that allow fetches, loads from pages with RD = 1. -/
def State.prologue (s : State) (desk pcode parg : Nat) (body : List Byte) : RvEnd :=
  let ok := fun need a n => decide (a + n ≤ 2 ^ 47) && s.deskOk desk need a n && !s.deskBad desk a n
  let fetch := fun a => if ok .fetch a 4 then some (leNat (s.deskRead desk a 4)) else none
  let rd := fun a n => if ok .read a n then some (leNat (s.deskRead desk a n)) else none
  Rv.run fetch rd 4096 { x := [(10, BitVec.ofNat 64 parg), (11, BitVec.ofNat 64 scratchBase)], pc := BitVec.ofNat 64 pcode, scratch := body }

end Sys2Proof.Machine
end

