-- ==== Sys2Proof/Machine/FrontEnd.lean ====
section
/-! DEFINITION. Queues, slots, debug sessions, host accesses and replays (24_front_end.md R370 to R384; 14_traps.md R248 to R250; 22_proctor.md
R362, R365). -/

namespace Sys2Proof.Machine

/-! ## Queues (R370 to R372, R381) -/

/-- Key of a queue. -/
def queueKey (d q : Nat) : Nat := d * 4096 + q
/-- A queue. -/
def State.queue (s : State) (d q : Nat) : Queue := s.queues.get {} (queueKey d q)
/-- Updates a queue. -/
def State.updQueue (s : State) (d q : Nat) (f : Queue → Queue) : State := { s with queues := s.queues.put {} (queueKey d q) (f (s.queue d q)) }
/-- Whether a number is a power of two within bounds. -/
def powerIn (n lo hi : Nat) : Bool := decide (lo ≤ n) && decide (n ≤ hi) && decide (2 ^ Nat.log2 n = n)

/-- Reads a queue-table entry (R372): a queue that becomes live starts with K and CONS 0; an entry that breaks its limits leaves the queue idle
and is entered; its reserved bytes are ignored (R5). -/
def State.readEntry (s : State) (d q : Nat) : State :=
  match s.desk? d with
  | none => s
  | some k =>
    let e := s.deskRead d (k.qbase + 16 * q) 16
    let ring := field e 0 8; let nslot := field e 8 4; let en := byteAt e 12
    let ok := ring % 256 = 0 && powerIn nslot 16 65536 && decide (ring + 256 * nslot ≤ 2 ^ 47) && s.deskOk d .read ring (256 * nslot)
    if en % 2 = 0 then (if (s.queue d q).live then s.updQueue d q fun x => { x with live := false } else s)
    else if !ok then (s.updQueue d q fun x => { x with live := false }).log { kind := 3, unit := 4, desk := d, wave := q, detail := q }
    else if (s.queue d q).live then s
    else s.updQueue d q fun _ => { live := true, ring := ring, nslot := nslot }

/-- The bytes of the slot at CONS when it holds a request (R371); queue numbers end at the desk's count less one (R370). -/
def State.request (s : State) (d q : Nat) : Option (List Byte) :=
  let x := s.queue d q
  if !x.live || !((s.desk? d).any fun k => decide (q < k.queues)) then none
  else
    let a := x.ring + 256 * (x.cons % max 1 x.nslot)
    if !s.deskOk d .read a 256 || s.deskBad d a 256 then none
    else
      let b := s.deskRead d a 256
      if byteAt b 255 = 0x80 + (1 - x.cons / max 1 x.nslot % 2) then some b else none

/-- Whether a slot breaks the rules that hold for every type (R374). -/
def Slot.badHead (x : Slot) : Bool :=
  let scope := fun n => n = 3 || n = 4
  decide (7 < x.type) || !scope (x.f 252 1 % 16) || !scope (x.f 252 1 / 16) || x.f 16 8 ≠ 0 || x.caddr % 16 ≠ 0

/-- Launch body of a slot. -/
def Slot.launchBody (x : Slot) : List Byte := (x.bytes.drop 24).take 128

/-- The debug command of a slot. -/
def Slot.command (x : Slot) : Nat := x.f 24 1

/-- Whether a slot's own bytes break this chapter (R374, R376, Tables 24-2 to 24-4). -/
def Slot.malformed (x : Slot) : Bool :=
  x.badHead || match x.type with
  | 1 => x.f 152 16 ≠ 0 || bodyMalformed x.launchBody
  | 2 => bodyMalformed x.launchBody
  | 3 => pPhase ((x.bytes.drop 64).take 64) = 1
  | 4 => decide (1 < x.f 32 1) || x.f 24 8 % 64 ≠ 0
  | 6 => decide (8 < x.command) || (x.command = 6 && decide (1 < x.f 56 1))
  | _ => false

/-- Fetches the slot at CONS; a malformed one completes at once with status 6 and holds no other slot back (R374). -/
def State.fetchSlot (s : State) (d q : Nat) (b : List Byte) : State :=
  let i := (s.queue d q).cons
  let s := s.updQueue d q fun x => { x with cons := (i + 1) % 2 ^ 32 }
  let a := field b 0 8
  let s := if a = 0 || a % 16 ≠ 0 then s else s.updDesk d fun k => { k with records := if k.records.contains a then k.records else k.records ++ [a] }
  let x : Slot := { desk := d, queue := q, index := i, bytes := b }
  let s := { s with slots := s.slots ++ [x] }
  if x.malformed then s.complete d q i 6 0 0 else s

/-- SLOT_FETCH (R371). -/
def execSlotFetch (desk queue : Nat) (s : State) : Host.Outcome State Fault Refusal :=
  match s.request desk queue with
  | some b => .next (s.fetchSlot desk queue b)
  | none => .fault .noOccasion

/-- SLOT_RECHECK (R381): a slot below K is read again. -/
def execSlotRecheck (desk queue : Nat) (s : State) : Host.Outcome State Fault Refusal :=
  let x := s.queue desk queue
  if x.live && decide ((x.k + 2 ^ 32 - x.cons) % 2 ^ 32 < 2 ^ 31) && x.k ≠ x.cons then
    match s.request desk queue with
    | some b => .next (s.fetchSlot desk queue b)
    | none => .next s
  else .fault .noOccasion

/-- QUEUE_SWEEP (R381): every queue's entry is read; the slots that hold requests are fetched from then on. -/
def execQueueSweep (s : State) : Host.Outcome State Fault Refusal :=
  let s := s.desks.foldl (fun (s : State) (x : Nat × Option Desk) => match x.2 with
    | some k => (List.range k.queues).foldl (fun (s : State) q => s.readEntry x.1 q) s
    | none => s) s
  .next (s.signal .sweep none)

/-- KICK (R381). -/
def execKick (desk queue : Nat) (value : BitVec 64) (s : State) : Host.Outcome State Fault Refusal :=
  match s.desk? desk with
  | none => .fault .noOccasion
  | some d =>
    if d.queues ≤ queue then .fault .noOccasion
    else
      let s := (s.readEntry desk queue).signal .kicks (some desk)
      let x := s.queue desk queue
      let k := value.toNat % 2 ^ 32
      let ahead := (k + 2 ^ 32 - x.k) % 2 ^ 32
      .next (if x.live && decide (1 ≤ ahead) && decide (ahead < 2 ^ 31) then s.updQueue desk queue fun x => { x with k := k }
        else s.updDesk desk fun d => { d with stale := (d.stale + 1) % 2 ^ 64 })

/-- GRADECONS (R382): room in the grade queue. -/
def execGradecons (desk : Nat) (value : BitVec 64) (s : State) : Host.Outcome State Fault Refusal :=
  match s.desk? desk with
  | none => .fault .noOccasion
  | some d => .next (State.flushGrades desk d.gradeWait.length (s.updDesk desk fun d => { d with gradecons := value.toNat }))

/-! ## Starting a slot (R373, R374, R380) -/

/-- Whether a replay of a desk is still to start (R362): it goes before the desk's new launches. -/
def State.replayWaits (s : State) (desk : Nat) : Bool :=
  s.proctor.replays.any fun r => s.proctor.kept.any fun t => t.id == r.1 && t.desk == desk

/-- The tree a debug command names. -/
def Slot.dbgTree (x : Slot) : Nat := x.f 32 8

/-- Whether a fetched slot may start now (R373): its class, and what its type waits for: a device that shuts down starts no launch (R28), a replay
goes first (R362), and an image is read or written when nothing is under way that it cannot hold (R253). -/
def State.slotReady (s : State) (x : Slot) : Bool :=
  let before := (s.slots.filter fun y => y.desk == x.desk && y.queue == x.queue).takeWhile fun y => y.index ≠ x.index
  let launches := x.type = 1 || x.type = 2 || x.type = 7
  !x.started && before.all (fun y => x.cls ≠ 0 && y.cls ≠ 0 && y.cls ≠ x.cls) && !(launches && (s.shutdown.isSome || s.replayWaits x.desk)) &&
    (!(x.type = 6 && (x.command = 4 || x.command = 5)) || match s.tree? x.dbgTree with | some t => s.quiet t | none => true) &&
    (!(x.type = 6) || match s.desk? x.desk with | some d => d.step.isNone | none => true)

/-- The Registrar's turns move on (R380): among the desks of the priority, and among the queues of the desk. -/
def State.served (s : State) (d q : Nat) : State :=
  { (s.updDesk d fun k => { k with lastQueue := q }) with lastDesk := s.lastDesk.put 1023 (s.prioOf d) d }

/-- Starts a slot of type `ty`: the Registrar's turns move on (R380); a slot that breaks R374 completes with status 6. -/
def State.startSlot (s : State) (d q i ty : Nat) (k : State → Slot → State) : Host.Outcome State Fault Refusal :=
  match s.slot? d q i with
  | none => .fault .noOccasion
  | some x =>
    if x.type ≠ ty || !s.slotReady x then .fault .noOccasion
    else
      let s := s.served d q
      if x.badHead then .next (s.complete d q i 6 0 0) else .next (k s x)

/-- A slot of a reserved type is refused (Table 24-3). -/
def State.refuseSlot (s : State) (x : Slot) : State :=
  (s.served x.desk x.queue).complete x.desk x.queue x.index 6 0 0

/-- NOP (Table 24-3). -/
def execSlotNop (desk queue index : Nat) (s : State) : Host.Outcome State Fault Refusal :=
  s.startSlot desk queue index 0 fun s _ => s.complete desk queue index 0 0 0

/-- Launches a body for a slot, `n` times in succession (R375, R377). -/
def State.launchBody (s : State) (x : Slot) (body : List Byte) (n : Nat) (repeated : Bool) : State :=
  let l := if repeated then iterationOf body 0 else launchOf body
  if bodyMalformed body then s.complete x.desk x.queue x.index 6 0 0
  else match s.launch x.desk l (some (x.desk, x.queue, x.index)) with
    | none => s.complete x.desk x.queue x.index 1 0 0
    | some (id, s) => s.updSlot x.desk x.queue x.index fun y => { y with started := true, tree := some id, left := n, body := body }

/-- LAUNCH (R375). -/
def execSlotLaunch (desk queue index : Nat) (s : State) : Host.Outcome State Fault Refusal :=
  s.startSlot desk queue index 1 fun s x =>
    if x.f 152 16 ≠ 0 then s.complete desk queue index 6 0 0 else s.launchBody x x.launchBody 1 false

/-- LAUNCH_IND (R377). -/
def execSlotLaunchInd (desk queue index : Nat) (s : State) : Host.Outcome State Fault Refusal :=
  s.startSlot desk queue index 2 fun s x =>
    if bodyMalformed x.launchBody then s.complete desk queue index 6 0 0
    else match s.prologue desk (x.f 152 8) (x.f 160 8) x.launchBody with
      | .budget => s.complete desk queue index 4 0 0
      | .bad => s.complete desk queue index 5 0 0
      | .call a0 a1 body =>
        if a0 = 0 then s.launchBody x body 1 false
        else if a0 = 1 then s.complete desk queue index 3 0 0
        else if a0 = 2 && 1 ≤ a1.toNat && a1.toNat ≤ 65535 then s.launchBody x body a1.toNat true
        else s.complete desk queue index 5 0 0

/-- ENGINE (R373, R313): the packet goes to channel 0 of engine 0 of logical die 0 (assumption log 21); a packet the engine refuses, and one that
names a start count, makes the slot malformed. -/
def execSlotEngine (desk queue index : Nat) (s : State) : Host.Outcome State Fault Refusal :=
  s.startSlot desk queue index 3 fun s x =>
    let p := (x.bytes.drop 64).take 64
    if pPhase p = 1 || pStart p ≠ 0 || s.packetRefused none desk (s.deskN desk) [] p then s.complete desk queue index 6 0 0
    else
      let r : EngReq := { packet := p, desk := desk, slot := some (desk, queue, index), issued := s.chc }
      (s.updChan (chanKey desk 0 0 0) fun c => { c with queue := c.queue ++ [r] }).updSlot desk queue index fun y => { y with started := true }

/-- Whether the operation of an ENGINE slot is over. -/
def State.engineOver (s : State) (x : Slot) : Bool :=
  x.type = 3 && x.started && !(s.chans.any fun (_, c) => c.reqs.any fun r => r.slot == some (x.desk, x.queue, x.index))

/-- An ENGINE slot completes as its operation did (Table 24-3): with the error its channel met, as a stopped tree's code is given. -/
def State.endEngineSlot (s : State) (x : Slot) : State :=
  match x.err with
  | some c => s.complete x.desk x.queue x.index 2 c 0
  | none => s.complete x.desk x.queue x.index 0 0 0

/-- Whether a shared-queue descriptor keeps Table 19-4; its reserved bytes are ignored (R5). -/
def descriptorOk (b : List Byte) : Bool :=
  field b 16 8 % 64 = 0 && powerIn (field b 24 4) 16 65536 && byteAt b 28 < 64 && byteAt b 29 ≤ 1

/-- SQREG (Table 24-3): the channel is the one that CHAN names on logical die 0 (assumption log 21). -/
def execSlotSqreg (desk queue index : Nat) (s : State) : Host.Outcome State Fault Refusal :=
  s.startSlot desk queue index 4 fun s x =>
    let a := x.f 24 8
    let b := s.deskRead desk a 64
    if decide (1 < x.f 32 1) || a % 64 ≠ 0 || !s.deskOk desk .read a 64 || !s.deskOk desk .write a 64 || !descriptorOk b then s.complete desk queue index 6 0 0
    else
      let k := chanKey desk 0 (byteAt b 28 % 16) (byteAt b 28 / 16 % 4)
      let s := s.updChan k fun c =>
        { c with shared := if x.f 32 1 = 1 then (if c.shared.contains (desk, a) then c.shared else c.shared ++ [(desk, a)]) else c.shared.filter (· ≠ (desk, a)) }
      s.complete desk queue index 0 0 0

/-- REGRADE (Table 24-3): the slot completes when the Proctor posts the operator's grade. -/
def execSlotRegrade (desk queue index : Nat) (s : State) : Host.Outcome State Fault Refusal :=
  s.startSlot desk queue index 5 fun s x =>
    let opid := (x.bytes.drop 24).take 26
    if s.proctor.ops.any fun o => o.desk == desk && o.opid == opid && o.grade == some 3 then s.updSlot desk queue index fun y => { y with started := true }
    else s.complete desk queue index 6 0 0

/-- RESUME (R378, R254, R404): the tree comes back when its cores are free. -/
def execSlotResume (desk queue index : Nat) (s : State) : Host.Outcome State Fault Refusal :=
  s.startSlot desk queue index 7 fun s x =>
    match s.imageAt true desk (x.f 24 8) (x.f 32 8) with
    | none => s.complete desk queue index 8 0 0
    | some sv =>
      if (s.tree? sv.tree.id).isSome then s.complete desk queue index 8 0 0
      else
        let sv' := { sv with held := true, tree := { sv.tree with slot := some (desk, queue, index), saveWhy := 0, debug := false } }
        ({ s with saved := s.saved.filter (· ≠ sv) ++ [sv'], nextTree := max s.nextTree (sv.tree.id + 1) } : State).updSlot desk queue index fun y =>
          { y with started := true, tree := some sv.tree.id, left := 1 }

/-! ## Debug sessions (R248 to R250, R383) -/

/-- Whether a launch tree, live or saved for its own resume, is one of the desk. -/
def State.deskTree (s : State) (desk id : Nat) : Bool :=
  match s.tree? id with
  | some t => t.desk == desk
  | none => s.saved.any fun v => v.held && v.tree.id == id && v.tree.desk == desk

/-- Runs a debug command: permission, and unless `free` the tree that the session holds, which but for CLOSE must be there: a session may hold the
number of a tree to come (R383, R412). -/
def State.debugCmd (s : State) (d q i cmd : Nat) (free : Bool) (k : State → Slot → Desk → State) : Host.Outcome State Fault Refusal :=
  match s.slot? d q i with
  | none => .fault .noOccasion
  | some x =>
    if x.command ≠ cmd then .fault .noOccasion
    else s.startSlot d q i 6 fun s x =>
      match s.desk? d with
      | none => s.complete d q i 6 0 0
      | some k' => if !k'.debugOk || !(free || (k'.held == some x.dbgTree && (cmd = 7 || s.deskTree d x.dbgTree))) then s.complete d q i 6 0 0 else k s x k'

/-- A debug command has acted. -/
def State.acted (s : State) (x : Slot) : State := s.complete x.desk x.queue x.index 0 0 x.dbgTree
/-- A debug command is refused. -/
def State.unacted (s : State) (x : Slot) : State := s.complete x.desk x.queue x.index 6 0 0

/-- Delivers a held fault of a tree as R236 directs (R249). -/
def State.deliverHeld (s : State) (id : Nat) (h : Held) : State :=
  let s := s.updTree id fun t => { t with held := t.held.filter (· ≠ h) }
  match h.stop, s.tree? id with
  | some r, some t =>
    (s.stopTree t r).updWave h.wid fun w => if w.tree == id && w.status != .ended then { w with status := .faulted } else w
  | _, _ => s.asWave h.wid fun s => match s.wave.frag, s.tree? id with
    | some f, some t => s.deliver t f h.flt h.ret h.q
    | _, _ => s

/-- A tree goes on after a debug stop, each fault held delivered first, as in a run that is not stopped (R248); one saved for the stop resumes. -/
def State.continueTree (s : State) (id : Nat) : State :=
  let s := (match s.tree? id with | some t => t.held | none => []).foldl (fun (s : State) h => s.deliverHeld id h) s
  let s := s.updTree id fun t => { t with debug := false, save := if t.saveWhy = 2 then false else t.save
                                          noStart := if t.saveWhy = 2 then false else t.noStart, saveWhy := if t.saveWhy = 2 then 0 else t.saveWhy }
  { s with saved := s.saved.map fun x => if x.tree.id == id && x.tree.saveWhy = 2 then { x with tree := { x.tree with saveWhy := 0 } } else x }

/-- HALT (R248): of an L-mode tree at once; of a C-mode tree when its forced save has come about. A tree that is saved for its own resume is in its
debug stop from now on. -/
def execDbgHalt (desk queue index : Nat) (s : State) : Host.Outcome State Fault Refusal :=
  s.debugCmd desk queue index 0 false fun s x _ =>
    match s.tree? x.dbgTree with
    | none => ({ s with saved := s.saved.map fun v => if v.held && v.tree.id == x.dbgTree then { v with tree := { v.tree with saveWhy := 2 } } else v } : State).acted x
    | some t =>
      if !t.cmode then (s.updTree t.id fun t => { t with debug := true }).acted x
      else if t.save || t.savable then (s.askSave t.id 2).updSlot desk queue index fun y => { y with started := true }
      else s.unacted x

/-- Whether the HALT of a C-mode tree has been decided: the save it asked for is made, or will not be. -/
def State.haltOver (s : State) (x : Slot) : Bool :=
  x.type = 6 && x.command = 0 && x.started && match s.tree? x.dbgTree with | some t => !t.save || t.saveWhy ≠ 2 | none => true

/-- The HALT of a C-mode tree completes: with status 6 where no debug stop came about (DESIGN CHOICE, assumption log 76). -/
def State.endHalt (s : State) (x : Slot) : State := if (s.debugSaved x.dbgTree).isSome then s.acted x else s.unacted x

/-- CONTINUE (R249). -/
def execDbgContinue (desk queue index : Nat) (s : State) : Host.Outcome State Fault Refusal :=
  s.debugCmd desk queue index 1 false fun s x _ => (s.continueTree x.dbgTree).acted x

/-- The wave of a held tree that STEP names: of the grid of lowest ordinal (assumption log 60). -/
def State.stepWave (s : State) (tree num : Nat) : Option Wave :=
  ((s.wavesOf tree).filter fun w => w.num == num).sortBy (fun a b => decide (a.grid ≤ b.grid)) |>.head?

/-- Bytes of a STEP report (R383): a 32-byte record per slot and the split-stack depth. -/
def reportBytes : Nat := 68

/-- STEP (R250): each live slot of the wave issues one instruction from now on; the slot completes when that is done. -/
def execDbgStep (desk queue index : Nat) (s : State) : Host.Outcome State Fault Refusal :=
  s.debugCmd desk queue index 2 false fun s x _ =>
    match s.tree? x.dbgTree, s.stepWave x.dbgTree (x.f 40 8) with
    | some t, some w =>
      if t.cmode || !t.debug || !s.deskOk desk .write (x.f 48 8) reportBytes then s.unacted x
      else
        let todo := (if w.slotA.isSome then [false] else []) ++ (if w.slotB.isSome then [true] else [])
        (s.updSlot desk queue index fun y => { y with started := true }).updDesk desk fun d =>
          { d with step := some { queue := queue, index := index, wid := w.wid, todo := if w.status == .live then todo else [], buf := x.f 48 8 } }
    | _, _ => s.unacted x

/-- A record of a STEP report: PC offset, mask, join, state, and what it waits for or its fault (assumption log 22). -/
def slotRecord (t : Tree) (f : Option Frag) (mark : Option (Nat × Nat)) : List Byte :=
  match f with
  | none => List.replicate 32 0
  | some f =>
    let off := fun p : Dword => (p - BitVec.ofNat 64 t.code.addr).toNat % 2 ^ 32
    let (st, why) := mark.getD (1, 0)
    leBytes 4 (off f.pc) ++ leBytes 4 f.mask.toNat ++ leBytes 4 (match f.join with | some j => off j | none => 0xFFFFFFFF) ++ leBytes 4 st ++ leBytes 4 why ++
      leBytes 12 0

/-- The STEP of a desk is over: the report is written and its slot completes (R250). -/
def State.endStep (s : State) (desk : Nat) (p : Stepping) : State :=
  let s := s.updDesk desk fun d => { d with step := none }
  match s.slot? desk p.queue p.index with
  | none => s
  | some x =>
    match s.wave? p.wid, s.tree? x.dbgTree with
    | some w, some t =>
      let mark := fun b => (p.marks.find? (·.1 == b)).map (·.2)
      let s := s.deskWrite desk p.buf (slotRecord t w.slotA (mark false) ++ slotRecord t w.slotB (mark true) ++ leBytes 4 w.depth)
      s.acted x
    | _, _ =>
      (s.deskWrite desk p.buf (List.replicate reportBytes 0)).acted x

/-- DELIVER (R249): the oldest fault that holds the tree is delivered as R236 directs; the tree stays in its debug stop unless the fault stops
it. -/
def execDbgDeliver (desk queue index : Nat) (s : State) : Host.Outcome State Fault Refusal :=
  s.debugCmd desk queue index 3 false fun s x _ =>
    match s.tree? x.dbgTree with
    | none => s.unacted x
    | some t =>
      match t.held with
      | [] => s.unacted x
      | h :: _ => ((s.deliverHeld t.id h).updTree t.id fun t => { t with debug := t.debug && t.stop.isNone }).acted x

/-- The held tree in its debug stop, as an image has it (R248, R251): an L-mode tree where it stands, a C-mode tree as it was saved. -/
def State.debugForm (s : State) (id : Nat) : Option Saved :=
  match s.tree? id with
  | some t => if t.debug then some (s.savedForm t 0) else none
  | none => s.debugSaved id

/-- READCTX (R383, R251): the image of the held tree, sealed, at the buffer. -/
def execDbgReadctx (desk queue index : Nat) (s : State) : Host.Outcome State Fault Refusal :=
  s.debugCmd desk queue index 4 false fun s x d =>
    match s.debugForm x.dbgTree, d.key with
    | some v, some key =>
      let a := x.f 48 8
      if !s.deskOk desk .write a v.size then s.unacted x
      else
        let (nonce, s) := s.takeNonce
        let v := { s.stamp v a nonce with held := false }
        (({ s with saved := s.saved ++ [v] } : State).deskWrite desk a (v.sealed key)).acted x
    | _, _ => s.unacted x

/-- A wave that takes the context of another (R249): what no field of an image holds stays its own, the far loads on their way among it; `same` says that
the pending records stay too. -/
def Wave.takeContext (w n : Wave) (same : Bool) : Wave :=
  { n with op := w.op, epoch := w.epoch, records := w.records, errs := w.errs, engErrs := w.engErrs, sigmis := w.sigmis, faulted := w.faulted
           issueAt := w.issueAt, latch := w.latch, qdelay := w.qdelay, launched := w.launched, wpt := w.wpt, tbase := w.tbase
           far := if same then w.far else n.far ++ w.far.filter fun x => x.quantum.isNone }

/-- The pending records of a saved tree as bytes. -/
def Saved.pendBytes (v : Saved) : List (List Byte) :=
  v.tree.liveGrids.flatMap fun g => v.tree.coreKeys.flatMap fun k => (v.coreParts g k).2.1.map Commit.bytes

/-- An L-mode tree in its debug stop takes a context (R249, R252): its waves, slices, accumulators, cores and pending records. -/
def State.writeContext (s : State) (t : Tree) (v : Saved) : State :=
  let same := v.pendBytes == (s.savedForm t 0).pendBytes
  let changed := v.slices.filter (fun x => s.slices.get emptyByte x.1 ≠ x.2) ++
    (s.slices.filter fun x => v.teams.any (fun m => m.keeps x.1) && v.slices.get emptyByte x.1 = emptyByte).map fun x => (x.1, emptyByte)
  let put := fun (m : Store Byte) => changed.foldl (fun (m : Store Byte) x => m.put emptyByte x.1 x.2) m
  let s := s.mapWaves fun w =>
    if w.tree ≠ t.id then w
    else match v.waves.find? fun n => n.wid == w.wid && n.grid == w.grid && n.team == w.team with
      | some n => w.takeContext n same
      | none => w
  let s := { s with
    slices := put s.slices, slicesC := put s.slicesC
    accs := v.accs.foldl (fun (m : Store Word) (x : Nat × Word) => m.put 0 x.1 x.2) (s.accs.filter fun (x : Nat × Word) => !v.teams.any fun m => m.banks x.1)
    nextAcc := (v.waves.flatMap fun (w : Wave) => w.far.map fun (x : Far) => x.id + 1).foldl max s.nextAcc
    teams := s.teams.map fun m => match v.teams.find? fun x => x.tree == m.tree && x.grid == m.grid && x.t == m.t && x.core == m.core with
      | some x => { m with owners := x.owners }
      | none => m }
  let s := t.coreKeys.foldl (fun (s : State) key =>
    let x := v.cores.get {} key
    s.updCore key fun c =>
      let plane := fun (p n : Plane) => if n.desc false == p.desc false then p else s.reloadPlane key n
      { c with vgen := x.vgen, dgen := x.dgen, active := x.active, tags := x.tags, plane0 := plane c.plane0 x.plane0, plane1 := plane c.plane1 x.plane1
               bufs := x.bufs.foldl (fun (m : Store Buf) b => m.put {} b.1 b.2) (c.bufs.filter fun b => b.2.tree ≠ t.id)
               handles := x.handles.foldl (fun (m : Store Handle) h =>
                 let was := m.get {} h.1
                 m.put {} h.1 (if h.2.bytes h.1 == was.bytes h.1 then was else h.2)) c.handles }) s
  s.updTree t.id fun t =>
    { t with pend := if same then t.pend else v.tree.pend
             grids := t.grids.map fun g => match v.tree.grid? g.ord with | some x => { g with bargGen := x.bargGen, bargIn := x.bargIn } | none => g }

/-- WRITECTX (R383, R252): the held tree takes the context of an image of its own that stands at the buffer. That of a saved tree is sealed anew in its
image's place (R404). -/
def execDbgWritectx (desk queue index : Nat) (s : State) : Host.Outcome State Fault Refusal :=
  s.debugCmd desk queue index 5 false fun s x d =>
    let a := x.f 48 8
    let len := field (s.deskRead desk (a + 24) 8) 0 8
    if !s.deskOk desk .read a len then s.unacted x
    else match s.imageAt false desk a len with
      | none => s.unacted x
      | some v =>
        if v.tree.id ≠ x.dbgTree then s.unacted x
        else match s.tree? x.dbgTree with
          | some t =>
            if !t.debug then s.unacted x else (s.writeContext t v).acted x
          | none =>
            match s.debugSaved x.dbgTree with
            | none => s.unacted x
            | some old =>
              let v' := { v with tree := { v.tree with slot := old.tree.slot, replayOf := old.tree.replayOf, saveWhy := 2 }, held := true, task := old.task }
              match d.key with
              | none => s.unacted x
              | some key =>
                if old.image.2 < v'.size then s.unacted x
                else
                  let (nonce, s) := s.takeNonce
                  let v' := s.stamp v' old.image.1 nonce
                  let s := (s.deskWrite desk old.image.1 (v'.sealed key)).updDesk desk fun d =>
                    { d with saveUse := d.saveUse.map fun u => if u = old.image then v'.image else u }
                  ({ s with saved := s.saved.map fun y => if y = old then v' else y } : State).acted x

/-- OPEN (R383). -/
def execDbgOpen (desk queue index : Nat) (s : State) : Host.Outcome State Fault Refusal :=
  s.debugCmd desk queue index 6 true fun s x d =>
    let id := x.dbgTree
    let live := s.deskTree desk id
    let later := decide (s.nextTree ≤ id) && s.slots.any fun y => y.desk == desk && !y.started && (y.type = 1 || y.type = 2)
    let other := match d.held with | some h => h ≠ id | none => false
    if other || !(live || later) || decide (1 < x.f 56 1) then s.unacted x
    else (s.updDesk desk fun d => { d with held := some id, stopOnFault := x.f 56 1 = 1 }).acted x

/-- CLOSE (R383): every tree of the desk that is in a debug stop continues. -/
def execDbgClose (desk queue index : Nat) (s : State) : Host.Outcome State Fault Refusal :=
  s.debugCmd desk queue index 7 false fun s x _ =>
    let ids := [x.dbgTree].filter (s.deskTree desk) ++ ((s.trees.filter fun t => t.desk == desk && t.debug).map (·.id)).filter (· ≠ x.dbgTree)
    (ids.foldl State.continueTree (s.updDesk desk fun d => { d with held := none, stopOnFault := false })).acted x

/-- The 64 bytes of a fault-record entry (Table 26-1). -/
def Entry.bytes (e : Entry) : List Byte :=
  leBytes 8 e.seq ++ leBytes 8 e.chc ++ leBytes 1 e.kind ++ leBytes 1 e.code ++ leBytes 1 e.unit ++ leBytes 1 e.flags ++ leBytes 2 e.desk ++ leBytes 2 e.ploc ++
    leBytes 8 e.tree ++ leBytes 8 e.wave ++ leBytes 4 e.ord ++ leBytes 4 e.pcoff ++ leBytes 8 e.addr ++ leBytes 4 e.lanes ++ leBytes 4 e.detail

/-- FAULTS (R383, R390). -/
def execDbgFaults (desk queue index : Nat) (s : State) : Host.Outcome State Fault Refusal :=
  s.debugCmd desk queue index 8 true fun s x _ =>
    let es := s.proctor.ring.filter (·.desk == desk)
    let bs := leBytes 8 es.length ++ leBytes 8 (match es with | e :: _ => e.seq | [] => 0) ++ es.flatMap Entry.bytes
    if s.deskOk desk .write (x.f 48 8) bs.length then (s.deskWrite desk (x.f 48 8) bs).acted x else s.unacted x

/-! ## Host accesses (R365, R379, R384) -/

/-- Where an RDMA access names the desk's control window: offsets from here, outside the 47 bits of a virtual address (assumption log 23). -/
def windowBase : Nat := 2 ^ 63

/-- A register of a control window as a READ finds it (Table 24-6); none for a register that cannot be read and for an offset without one. -/
def State.windowReg (s : State) (desk off : Nat) : Option Nat :=
  match s.desk? desk with
  | none => none
  | some d =>
    match off with
    | 0 => some desk
    | 8 => some d.stale
    | 0x10 => some d.qbase
    | 0x18 => some d.gradecons
    | _ => if 0x10000 ≤ off && off % 16 = 8 && (off - 0x10000) / 16 < d.queues then some (s.queue desk ((off - 0x10000) / 16)).cons else none

/-- An RDMA NAK (R384): nothing changes but the entry of the violation. -/
def State.violation (s : State) (desk port va : Nat) : State :=
  { s.log { kind := 8, unit := 4, desk := desk, addr := va, detail := port } with nak := true, rdma := [] }

/-- Whether every byte from `lo` to `hi` of a desk's memory belongs to a control record of the Registrar: a completion record or the grade queue
(R365; assumption log 27). -/
def Desk.controls (d : Desk) (lo hi : Nat) : Bool :=
  (List.range (hi - lo)).all fun i =>
    (decide (d.gradeAddr ≤ lo + i) && decide (lo + i < d.gradeAddr + 128 * d.gradeSlots)) ||
      d.records.any fun r => decide (r ≤ lo + i) && decide (lo + i < r + 32)

/-- Whether the release gate lets the part of a read, bytes `va` to `last`, that lies in the page of `p` leave (R365). -/
def State.mayLeave (s : State) (desk va last p : Nat) (x : Xlat) : Bool :=
  let page := p - x.off
  if x.pbl && x.rreq then s.proctor.released.contains (s.proctor.version desk page x.ver)
  else match s.desk? desk with
    | some d => d.unchecked || d.controls (max va page) (min last (page + x.size))
    | none => false

/-- HOST_RDMA_READ (R379, R384, R365, R399). -/
def execHostRdmaRead (desk port va len : Nat) (s : State) : Host.Outcome State Fault Refusal :=
  if (s.desk? desk).isNone then .fault .noOccasion
  else if windowBase ≤ va then
    let off := va - windowBase
    let regs := (List.range (len / 8)).map fun i => s.windowReg desk (off + 8 * i)
    if off % 8 = 0 && len % 8 = 0 && regs.all Option.isSome then .next { s with nak := false, rdma := regs.flatMap fun r => leBytes 8 (r.getD 0) }
    else .next (s.violation desk port va)
  else
    let pages := s.pagesOf (deskView desk) (s.deskN desk) va len
    let ok := decide (va + len ≤ 2 ^ 47) && s.deskOk desk .read va len && pages.all fun x => match x.2 with
      | .ok y => s.mayLeave desk va (va + len) x.1 y
      | .error _ => false
    if !ok then .next (s.violation desk port va)
    else match s.deskBad? desk va len with
    | some a => .next { s.memErrorOf (deskView desk) (s.deskN desk) a {} with nak := true, rdma := [] }
    | none => .next { s with nak := false, rdma := s.deskRead desk va len }

/-- HOST_RDMA_WRITE (R384): of memory, or of a register of the control window; KICK and GRADECONS act as their own rows say. -/
def execHostRdmaWrite (desk port va : Nat) (data : List Byte) (s : State) : Host.Outcome State Fault Refusal :=
  if (s.desk? desk).isNone then .fault .noOccasion
  else if windowBase ≤ va then
    let off := va - windowBase
    let v := BitVec.ofNat 64 (leNat data)
    let queues := match s.desk? desk with | some d => d.queues | none => 0
    let s' := { s with nak := false }
    if off = 0x18 && data.length = 8 then execGradecons desk v s'
    else if 0x10000 ≤ off && off % 16 = 0 && (off - 0x10000) / 16 < queues && data.length = 8 then execKick desk ((off - 0x10000) / 16) v s'
    else .next (s.violation desk port va)
  else if decide (va + data.length ≤ 2 ^ 47) && s.deskOk desk .write va data.length then .next { s.deskWrite desk va data with nak := false }
  else .next (s.violation desk port va)

/-! ## Replays (R362) -/

/-- The logical dies that a replay moves (R362, R397): those that held a team of the grid whose operator was rejected, or whose core failed its
test. -/
def State.movedDies (s : State) (t : Tree) (op : Nat) : List Nat :=
  if t.moved ≠ [] then t.moved
  else match (s.oper? op).bind fun o => t.grid? o.grid with
    | some g => List.range (diesOf (min g.teams t.n))
    | none => []

/-- The ways to lay out the logical dies of a replay (R362): the moved ones on other compute dies than before, the others where they were, none on
a retired die; where that cannot be, the moved ones on other dies all the same. -/
def State.replayDies (s : State) (t : Tree) (op : Nat) : List (List Nat) :=
  let moved := s.movedDies t op
  let used := List.range (diesOf t.n)
  let at_ := fun (ds : List Nat) l => ds.getD l 0
  let ways := (ordersOf 4 (List.range 4)).filter fun ds =>
    used.all fun l => !s.proctor.deadDies.contains (at_ ds l) && (!moved.contains l || at_ ds l ≠ at_ t.dies l)
  let still := ways.filter fun ds => used.all fun l => moved.contains l || at_ ds l = at_ t.dies l
  if still.isEmpty then ways else still

/-- Table slots of a replay whose logical dies lie on `dies` (R321). -/
def State.replaySlots (s : State) (t : Tree) (dies : List Nat) : List (List Nat) := s.tslotsFor dies t.n t.code.stencils.length

/-- The layouts a replay may take now: those whose dies have table slots for its stencil tables (R321). -/
def State.replayWays (s : State) (t : Tree) (op : Nat) : List (List Nat) :=
  let ways := s.replayDies t op
  (if ways.isEmpty then [t.dies] else ways).filter fun ds => slotsFit (s.replaySlots t ds) t.code.stencils.length

/-- Whether the replay of an ended tree may start: its desk exists and runs nothing on its cores, which are to be moved (R362), its tables fit, and no
other chorus task runs when it is one. -/
def State.mayReplay (s : State) (t : Tree) (op : Nat) : Bool :=
  (s.replayWays t op ≠ []) && (s.desk? t.desk).isSome && (s.tree? t.id).isNone && s.shutdown.isNone && !s.holdsCores t.desk && (!t.cmode || !(s.trees.any (·.cmode)))

/-- REPLAY_START (R362): every unreleased version of the original is revoked, and a new tree takes its launch, parameters and Manifest. -/
def execReplayStart (tree : Nat) (s : State) : Host.Outcome State Fault Refusal :=
  match s.proctor.replays.find? (·.1 == tree), s.proctor.kept.find? (·.id == tree) with
  | some r, some t =>
    match t.code.kernels[t.launch.kidx]? with
    | none => .fault .noOccasion
    | some k =>
      if !s.mayReplay t r.2 then .fault .noOccasion
      else
        let s := { s with proctor := { s.proctor with replays := s.proctor.replays.filter (· ≠ r) } }
        let s := (s.revokeAll (some r.2) (s.versionsOf tree)).classifyRevoked
        let ways := s.replayWays t r.2
        let (x, s) : Dword × State := if ways.length ≤ 1 then (0, s) else s.draw
        let dies := ways.getD (x.toNat % max 1 ways.length) t.dies
        let slots := s.replaySlots t dies
        let (id, s) := s.newTree t.desk t.launch t.code k none (some tree)
        .next (s.updTree id fun u => { u with dies := dies, tslots := slots, n := t.n, q := t.q, manifest := t.manifest, mdig := t.mdig, vseed := t.vseed, dseed := t.dseed, eseed := t.eseed })
  | _, _ => .fault .noOccasion

end Sys2Proof.Machine
end

