-- ==== Sys2Proof/Machine/Hart.lean ====
section
/-! DEFINITION. The Xaedq instructions of a Registrar hart (24_front_end.md R385). The hart that executes is `State.hart`. -/

namespace Sys2Proof.Machine

/-- The executing hart. -/
def State.theHart (s : State) : Hart := s.harts.get {} s.hart
/-- Writes the executing hart. -/
def State.setHart (s : State) (h : Hart) : State := { s with harts := s.harts.put {} s.hart h }
/-- Reads x register `n`; x0 is 0. -/
def Hart.get (h : Hart) (n : Nat) : Dword := if n = 0 then 0 else h.x.get 0 n
/-- Writes x register `n`; x0 discards. -/
def Hart.set (h : Hart) (n : Nat) (v : Dword) : Hart := if n = 0 then h else { h with x := h.x.put 0 n v }

/-- TAKING A TRAP of a hart: the cause, mtval and mepc are written and control goes to mtvec (assumption log 24); the instruction has no effect. -/
def State.hartTrap (s : State) (cause : Nat) (tval : Dword) : State :=
  let h := s.theHart
  { s.setHart { h with mcause := BitVec.ofNat 64 cause, mtval := tval, mepc := h.pc, pc := h.mtvec, waiting := false } with hartWord := none }

/-- An instruction of the hart retires with a result. -/
def State.hartDone (s : State) (d : BitVec 5) (v : Dword) : State :=
  let h := s.theHart
  { s.setHart { h.set d.toNat v with pc := h.pc + 4, waiting := false } with hartWord := none }

/-- Bytes of hart-local memory (assumption log 24). -/
def hartLocal : Nat := 2 ^ 20

/-- The illegal-instruction exception (R385). -/
def State.hartIllegal (s : State) (w : Nat) : State := s.hartTrap 2 (BitVec.ofNat 64 w)

/-- qfetch. The queues assigned to a hart are listed by hardware number. -/
def execQfetch (d a b : BitVec 5) (s : State) : Host.Outcome State Fault Refusal :=
  let h := s.theHart
  let q := (h.get a.toNat).toNat
  match h.queues.find? (·.1 == q) with
  | none => .next (s.hartTrap 24 (h.get a.toNat))
  | some x =>
    if 131071 < q then .next (s.hartTrap 24 (h.get a.toNat))
    else
      let desk := x.2 / 4096; let n := x.2 % 4096
      match s.request desk n with
      | none => .next (s.hartDone d (-1))
      | some bs =>
        let i := (s.queue desk n).cons
        let s := s.updQueue desk n fun y => { y with cons := (i + 1) % 2 ^ 32 }
        let s := s.setHart { h with mem := h.mem.puts 0 (h.get b.toNat).toNat bs }
        .next (s.hartDone d (BitVec.ofNat 64 i))

/-- The field that bfx and bfx.s extract (Table 24-7); none when it passes bit 63. -/
def hartField (x f : Dword) (sx : Bool) : Option Dword :=
  let pos := f.toNat % 64
  let n := f.toNat / 64 % 64 + 1
  if 64 < pos + n then none
  else
    let v := BitVec.ofNat n (x.toNat / 2 ^ pos)
    some (if sx then v.signExtend 64 else v.setWidth 64)

/-- bfx. -/
def execXaedqBfx (d a b : BitVec 5) (s : State) : Host.Outcome State Fault Refusal :=
  let h := s.theHart
  match hartField (h.get a.toNat) (h.get b.toNat) false with
  | some v => .next (s.hartDone d v)
  | none => .next (s.hartTrap 25 (h.get a.toNat))

/-- bfx.s. -/
def execXaedqBfxS (d a b : BitVec 5) (s : State) : Host.Outcome State Fault Refusal :=
  let h := s.theHart
  match hartField (h.get a.toNat) (h.get b.toNat) true with
  | some v => .next (s.hartDone d v)
  | none => .next (s.hartTrap 25 (h.get a.toNat))

/-- sigwait: while no line of rs1 is pending the hart waits at the instruction. -/
def execSigwait (d a b : BitVec 5) (s : State) : Host.Outcome State Fault Refusal :=
  let h := s.theHart
  let m := h.get a.toNat
  if m = 0 || m &&& ~~~ h.lines ≠ 0 || b ≠ 0 then .next (s.hartTrap 26 m)
  else if h.pending &&& m = 0 then .next (s.setHart { h with waiting := true })
  else .next ((s.setHart { h with pending := h.pending &&& ~~~ m }).hartDone d (h.pending &&& m))

/-- dispatch. -/
def execDispatch (d a b : BitVec 5) (s : State) : Host.Outcome State Fault Refusal :=
  let h := s.theHart
  let at_ := (h.get a.toNat).toNat
  let desk := (h.get b.toNat).toNat
  if at_ % 128 ≠ 0 || hartLocal < at_ + 128 || !h.desks.contains desk then .next (s.hartTrap 27 (h.get a.toNat))
  else
    let body := h.mem.gets 0 at_ 128
    if bodyMalformed body || s.shutdown.isSome then .next (s.hartDone d (-1))
    else match s.launch desk (launchOf body) none with
      | some (id, s) => .next (s.hartDone d (BitVec.ofNat 64 id))
      | none => .next (s.hartDone d (-1))

end Sys2Proof.Machine
end

