-- ==== Sys2Proof/Machine/Manage.lean ====
section
/-! DEFINITION. The management function of Ethernet port 0 (28_security.md R400 to R412; 29_security_notes.md R413 to R415; 24_front_end.md R369,
R386; 20_chorus.md R328, R330). The byte layouts of bodies that the spec does not lay down are those of assumption log 25. -/

namespace Sys2Proof.Machine

/-! ## Frames (R413, R414) -/

/-- A management frame (Table 29-1). -/
def mgmtFrame (code status : Nat) (tag : BitVec 16) (body : List Byte) : List Byte :=
  leBytes 1 code ++ leBytes 1 status ++ leBytes 2 tag.toNat ++ leBytes 4 body.length ++ body

/-- Adds a reply frame: code, status, tag and body. -/
def State.reply (s : State) (code status : Nat) (tag : BitVec 16) (body : List Byte) : State :=
  { s with proctor := { s.proctor with replies := s.proctor.replies ++ [mgmtFrame code status tag body] } }

/-- Lifecycle state in force (Table 28-1). -/
def Proctor.state (p : Proctor) : Nat := if p.unlocked then 3 else p.lcs

/-- Debug scope in force (Table 28-1): every scope in MANUFACTURE, the token's in DEBUG-UNLOCKED and RMA, none else. -/
def Proctor.openScope (p : Proctor) : Nat := if p.state = 0 then 0x0F else if p.state = 3 || p.state = 4 then p.scope else 0

/-- Tag of a shutdown that has been answered. -/
def shutDone : Nat := 2 ^ 16

/-- Whether a SHUTDOWN has not been answered: the management function performs one request at a time (R410, R414). -/
def State.mailWaits (s : State) : Bool := match s.shutdown with | some (_, t) => t ≠ shutDone | none => false

/-- Serves a management request (R414): without power nothing answers; a device that recovers its image answers FWCHUNK and FWCOMMIT alone; one
that is DECOMMISSIONED answers with its state. A request that comes while another is performed waits (R410). -/
def State.manage (s : State) (code : Nat) (tag : BitVec 16) (body : List Byte) (k : State → State) : Host.Outcome State Fault Refusal :=
  if !s.power && !s.recovery then .next s
  else if s.mailWaits then .next { s with mail := s.mail ++ [mgmtFrame code 0 tag body] }
  else if s.recovery && code ≠ 0x28 && code ≠ 0x29 then .next s
  else if s.proctor.state = 5 then .next (s.reply code 1 tag [5])
  else .next (k s)

/-- Whether the lifecycle state allows desks (Table 28-1). -/
def State.desksAllowed (s : State) : Bool := s.proctor.state = 2 || s.proctor.state = 3

/-! ## Measurements (R408) -/

/-- Extends a measurement register. -/
def State.extend (s : State) (n : Nat) (event : List Byte) : State :=
  { s with proctor := { s.proctor with meas := s.proctor.meas.zipIdx.map fun m => if m.2 = n then sha (m.1 ++ event) else m.1 } }

/-- The parameters of a desk in the order of Table 29-5, as MEAS2 hashes them. -/
def Desk.params (d : Desk) : List Byte :=
  leBytes 8 d.queues ++ leBytes 8 d.asids ++ leBytes 8 d.memLo ++ leBytes 8 d.memLen ++ leBytes 8 d.n ++ leBytes 8 d.prio ++ leBytes 8 d.preemptUs ++
    leBytes 8 d.quantumUs ++ leBytes 8 d.gradeByte ++ leBytes 8 d.deadlineUs ++ leBytes 8 (if d.unchecked then 1 else 0) ++ leBytes 8 d.gradeAddr ++
    leBytes 8 d.gradeSlots ++ leBytes 8 (if d.debugOk then 1 else 0) ++ leBytes 8 d.saveAddr ++ leBytes 8 d.saveLen ++ leBytes 8 d.vseed.toNat ++
    leBytes 8 d.dseed.toNat ++ leBytes 8 d.eseed.toNat ++ leBytes 8 (if d.logged then 1 else 0)

/-- Extends MEAS2 with the creation or destruction of a desk (assumption log 59). -/
def State.measureDesk (s : State) (n : Nat) (d : Desk) : State := s.extend 2 (leBytes 2 n ++ sha d.params)

/-! ## Quotes (R409, R415) -/

/-- The body of a quote (Table 28-4); the tree it names may be saved for its own resume (R378). -/
def State.quoteBody (s : State) (nonce : List Byte) (tree : Nat) : List Byte :=
  let p := s.proctor
  let zero := List.replicate 48 (0 : Byte)
  let named := match s.tree? tree with
    | some t => some t
    | none => (s.saved.find? fun (v : Saved) => v.held && v.tree.id == tree).map Saved.tree
  let mani := match named with | some t => if t.mdig.isEmpty then zero else t.mdig | none => zero
  leBytes 2 1 ++ leBytes 1 p.state ++ leBytes 1 p.openScope ++ (p.devid ++ List.replicate (16 - p.devid.length) 0) ++ leBytes 4 p.svn ++ nonce ++
    p.meas.flatten ++ mani ++ (if p.wkh.isEmpty then zero else p.wkh) ++ leBytes 4 0

/-- QUOTE (R409). -/
def execQuote (tag : BitVec 16) (body : List Byte) (s : State) : Host.Outcome State Fault Refusal :=
  s.manage 1 tag body fun s =>
    if body.length ≠ 40 then s.reply 1 3 tag []
    else if !s.proctor.keys then s.reply 1 1 tag []
    else
      let q := s.quoteBody (body.take 32) (field body 32 8)
      s.reply 1 0 tag (q ++ (Config.signPss q).toList ++ (Config.signSlh q).toList)

/-! ## Unlock (R411, R412) -/

/-- Powered time in milliseconds. -/
def State.powered (s : State) : Nat := 1000 * s.seconds + s.millis

/-- NONCE (R411): 32 fresh bytes replace an earlier nonce. -/
def execNonce (tag : BitVec 16) (body : List Byte) (s : State) : Host.Outcome State Fault Refusal :=
  s.manage 2 tag body fun s =>
    if body ≠ [] then s.reply 2 3 tag []
    else
      let (u, s) := State.drawBytes 4 s
      ({ s with proctor := { s.proctor with unonce := some (u, s.powered) } } : State).reply 2 0 tag u

/-- Takes a desk off a hart. -/
def Hart.without (h : Hart) (n : Nat) : Hart :=
  { h with desks := h.desks.filter (· ≠ n), queues := h.queues.filter (fun x => x.2 / 4096 ≠ n) }

/-- A desk with its tenant key zeroed (R403). -/
def Desk.keyless (d : Desk) : Desk := { d with key := none }

/-- Destroys a desk (R369, R411): live slots complete with status 7, live trees stop, unreleased versions are discarded, and the key is zeroed. -/
def State.destroyDesk (s : State) (n : Nat) : State :=
  match s.desk? n with
  | none => s
  | some d =>
    let xs := s.slots.filter (·.desk == n)
    let s := xs.foldl (fun (s : State) x => s.complete n x.queue x.index 7 0 (x.tree.getD 0)) s
    let s := (s.trees.filter (·.desk == n)).foldl (fun (s : State) t => (s.clearTree t).dropTree t.id) s
    let mine := fun key : Nat => decide (key / 0x400000 / 512 = n)
    let p := s.proctor
    let s := { s with
      saved := s.saved.filter fun x => x.tree.desk ≠ n
      chans := s.chans.filter fun x => chanDesk x.1 ≠ n
      queues := s.queues.filter fun x => x.1 / 4096 ≠ n
      cores := s.cores.filter fun x => x.1 / 512 ≠ n
      slices := s.slices.filter fun x => !mine x.1
      slicesC := s.slicesC.filter fun x => !mine x.1
      accs := s.accs.filter fun x => x.1 / 131072 / 512 ≠ n
      codes := s.codes.filter fun c => c.desk ≠ n
      harts := s.harts.map fun (x : Nat × Hart) => (x.1, x.2.without n)
      proctor := { p with ops := p.ops.filter (·.desk ≠ n), named := p.named.filter (fun v => v.desk ≠ n || p.released.contains v),
                           kept := p.kept.filter (·.desk ≠ n), deskGens := p.deskGens.put 0 n (p.deskGens.get 0 n + 1) }
      desks := s.desks.put none n none }
    s.measureDesk n d

/-- Destroys every desk, in ascending order. -/
def State.destroyDesks (s : State) : State := (s.desks.map (·.1)).foldl (fun (s : State) n => s.destroyDesk n) s

/-- Whether both signatures of an authority stand under a 64-byte token (R401). -/
def State.tokenSigned (s : State) (body : List Byte) : Bool :=
  let t := body.take 64
  Config.verifyPss s.proctor.authRsa t ((body.drop 64).take 384) && Config.verifySlh s.proctor.authSlh t (body.drop 448)

/-- Whether a token names this device and the outstanding nonce. -/
def State.tokenNames (s : State) (t : List Byte) : Bool :=
  t.take 16 == s.proctor.devid && match s.proctor.unonce with | some u => (t.drop 20).take 32 == u.1 | none => false

/-- Consumes the outstanding nonce. -/
def State.spend (s : State) : State := { s with proctor := { s.proctor with unonce := none } }

/-- Bytes of a token with its signatures. -/
def tokenBytes : Nat := 64 + 384 + 16224

/-- UNLOCK (R411), with its checks in the order of the Proctor's routine (29_security_notes.md): length, state, reserved bits, identity with nonce and
expiry, signatures. -/
def execUnlock (tag : BitVec 16) (body : List Byte) (s : State) : Host.Outcome State Fault Refusal :=
  s.manage 3 tag body fun s =>
    let scope := byteAt body 17
    let expiry := field body 18 2
    let lcs := byteAt body 16
    let age := match s.proctor.unonce with | some u => s.powered - u.2 | none => 0
    if body.length ≠ tokenBytes then s.spend.reply 3 3 tag []
    else if lcs ≠ s.proctor.state || !(lcs = 2 || lcs = 3) then s.spend.reply 3 1 tag []
    else if field body 52 12 ≠ 0 || 32 ≤ scope then s.spend.reply 3 3 tag []
    else if !s.tokenNames body || expiry = 0 || 3600 < expiry || 1000 * expiry < age then s.spend.reply 3 1 tag []
    else if !s.tokenSigned body then s.spend.reply 3 2 tag []
    else
      let s := s.spend
      let s := { s with desks := s.desks.map fun (x : Nat × Option Desk) => (x.1, x.2.map Desk.keyless) }
      let s := s.destroyDesks
      let rma := bit scope 4
      let s := s.extend 3 (sha (body.take 64) ++ [if rma then 4 else 3])
      let s := { s with proctor := { s.proctor with lcs := if rma then 4 else s.proctor.lcs, unlocked := !rma, scope := scope } }
      s.reply 3 0 tag []

/-! ## Lifecycle (R405, R406) -/

/-- PROVISION (R406, R400). -/
def execProvision (tag : BitVec 16) (body : List Byte) (s : State) : Host.Outcome State Fault Refusal :=
  s.manage 4 tag body fun s =>
    if body.length ≠ 112 then s.reply 4 3 tag []
    else if s.proctor.state ≠ 0 then s.reply 4 1 tag []
    else
      let id := body.take 16
      ({ s with proctor := { s.proctor with devid := id, authRsa := (body.drop 16).take 48, authSlh := body.drop 64, keys := true
                                            wkh := sha (Config.wrapKey id), lcs := 1 } } : State).reply 4 0 tag []

/-- Fuses a lifecycle state: DECOMMISSIONED destroys the desks first and erases the key store. -/
def State.fuse (s : State) (target : Nat) (token : List Byte) : State :=
  let s := if target = 5 then s.destroyDesks else s
  let s := s.extend 3 (sha token ++ [BitVec.ofNat 8 target])
  { s with proctor := { s.proctor with lcs := target, unlocked := false, scope := 0, keys := s.proctor.keys && target ≠ 5 } }

/-- LIFECYCLE (R406). -/
def execLifecycle (tag : BitVec 16) (body : List Byte) (s : State) : Host.Outcome State Fault Refusal :=
  s.manage 5 tag body fun s =>
    let target := byteAt body 17
    let lcs := byteAt body 16
    let st := s.proctor.state
    if body.length ≠ tokenBytes || field body 52 12 ≠ 0 || field body 18 2 ≠ 0 || !(target = 2 || target = 5) then s.spend.reply 5 3 tag []
    else if st = 0 && target = 5 then (s.spend.fuse 5 (body.take 64)).reply 5 0 tag []
    else
      let fits := if target = 2 then lcs = 1 else 1 ≤ lcs && lcs ≤ 4
      if !s.tokenNames body || lcs ≠ st || !fits || (target = 2 && !s.proctor.keys) then s.spend.reply 5 1 tag []
      else if !s.tokenSigned body then s.spend.reply 5 2 tag []
      else (s.spend.fuse target (body.take 64)).reply 5 0 tag []

/-! ## Desks (R369, R403) -/

/-- The items of a request: parameter number and value, each padded to a multiple of 8 bytes; none when they do not fill the bytes. -/
def items : Nat → List Byte → Option (List (Nat × List Byte))
  | 0, b => if b.isEmpty then some [] else none
  | n + 1, b =>
    if b.isEmpty then some []
    else
      let len := field b 2 2
      let total := (4 + len + 7) / 8 * 8
      if b.length < total then none else (items n (b.drop total)).map fun r => (field b 0 2, (b.drop 4).take len) :: r

/-- Sets one parameter of a desk (Tables 24-1 and 29-5); none for a value out of range or an unknown number. -/
def Desk.param (d : Desk) (p : Nat × List Byte) : Option Desk :=
  let v := leNat p.2
  let a := leNat (p.2.take 8); let b := leNat (p.2.drop 8)
  let mib := 32 * 2 ^ 20
  let within := fun lo hi (r : Desk) => if lo ≤ v && v ≤ hi then some r else none
  match p.1 with
  | 1 => within 1 4096 { d with queues := v }
  | 2 => within 1 64 { d with asids := v }
  | 3 => if a % mib = 0 && b % mib = 0 && 0 < b && a + b ≤ 2 ^ 39 then some { d with memLo := a, memLen := b } else none
  | 4 => within 1 352 { d with n := v }
  | 5 => within 0 7 { d with prio := v }
  | 6 => within 100 1000000 { d with preemptUs := v }
  | 7 => within 1000 10000000 { d with quantumUs := v }
  | 8 => if v = 0 then some { d with spot := none } else if 0x80 ≤ v && v ≤ 0x8A then some { d with spot := some (v - 0x80) } else none
  | 9 => within 1000 60000000 { d with deadlineUs := v }
  | 10 => within 0 1 { d with unchecked := v = 1 }
  | 11 => if 16 ≤ b && b ≤ 65536 then some { d with gradeAddr := a, gradeSlots := b } else none
  | 12 => within 0 1 { d with debugOk := v = 1 }
  | 13 => if a % mib = 0 && b % mib = 0 then some { d with saveAddr := a, saveLen := b } else none
  | 14 => within 0 (2 ^ 32 - 1) { d with vseed := BitVec.ofNat 32 v }
  | 15 => within 0 (2 ^ 32 - 1) { d with dseed := BitVec.ofNat 32 v }
  | 16 => within 0 (2 ^ 32 - 1) { d with eseed := BitVec.ofNat 32 v }
  | 17 => within 0 1 { d with logged := v = 1 }
  | _ => none

/-- Sets parameters one after another. -/
def Desk.withItems (d : Desk) (ps : List (Nat × List Byte)) : Option Desk := ps.foldlM Desk.param d

/-- Bytes of a wrapped tenant key: an RSA-3072 block. -/
def wrappedBytes : Nat := 384

/-- The page tables firmware writes for a new desk (assumption log 25): the partition's 32 MiB pages from virtual address 32 MiB up, pinnable,
readable, writable and executable, but for those of `skip`; the first page holds the tables and, 1 MiB into it, the queue table. -/
def State.mapPartition (s : State) (stackMap : List Nat) (lo len : Nat) (skip : List Nat) : State :=
  let pages := min (len / 0x2000000) (8 * 2048 - 1)
  let tables := (pages + 1 + 2047) / 2048
  let put := fun (s : State) at_ bs => s.devPut (onStack stackMap at_) bs
  let s := put s lo (List.replicate 0x200000 0)
  let s := (List.range tables).foldl (fun (s : State) i => put s (lo + 8 * i) (leBytes 8 (lo + 0x4000 * (i + 1) + 1))) s
  ((List.range pages).filter fun i => !skip.contains i).foldl (fun (s : State) i => put s (leafAt lo i) (leBytes 8 (lo + 0x2000000 * i + 0x3F))) s

/-- Virtual address of the queue table firmware places (R372; assumption log 25). -/
def queueTableAt : Nat := 0x2000000 + 0x100000

/-- The ways to lay a desk out (R17, R106): a compute die for each logical die, and for logical stacks 2d and 2d + 1 the two stacks of that die in
either order. -/
def layouts : List (List Nat × List Nat) :=
  (ordersOf 4 (List.range 4)).flatMap fun ds =>
    (List.range 16).map fun b => (ds, (List.range 8).map fun j => 2 * ds.getD (j / 2) 0 + (j + b / 2 ^ (j / 2)) % 2)

/-- The pieces of a memory partition on physical stacks: stack, first byte, end. -/
def Desk.pieces (d : Desk) : List (Nat × Nat × Nat) :=
  (List.range 8).filterMap fun j =>
    let lo := max d.memLo (j * 2 ^ 36)
    let hi := min (d.memLo + d.memLen) ((j + 1) * 2 ^ 36)
    if lo < hi then some (d.stackMap.getD j 0, lo % 2 ^ 36, lo % 2 ^ 36 + (hi - lo)) else none

/-- Whether two desks would share stack space. -/
def Desk.overlaps (a b : Desk) : Bool := a.pieces.any fun x => b.pieces.any fun y => x.1 = y.1 && decide (x.2.1 < y.2.2) && decide (y.2.1 < x.2.2)

/-- The desk as firmware can lay it out (R369): on compute dies that are not retired (R364), sharing no stack space with another desk, and with no
retired granule where its tables stand (R399). -/
def State.laidOut (s : State) (d : Desk) : List Desk :=
  (layouts.map fun x => { d with dies := x.1, stackMap := x.2 }).filter fun d =>
    ((d.dies.take (diesOf d.n)).all fun x => !s.proctor.deadDies.contains x) && !(s.retiredPages d).contains 0 &&
      !(s.desks.any fun (x : Nat × Option Desk) => match x.2 with | some k => d.overlaps k | none => false)

/-- Whether the device has queues and ASIDs for a desk beside the others (R12). -/
def State.deskFits (s : State) (n : Nat) (d : Desk) : Bool :=
  let others := s.desks.filterMap fun (x : Nat × Option Desk) => if x.1 = n then none else x.2
  decide ((others.map (·.queues)).foldl (· + ·) 0 + d.queues ≤ 131072) && decide ((others.map (·.asids)).foldl (· + ·) 0 + d.asids ≤ 4096)

/-- Whether a desk may take changed parameters where it is laid out: the device has what it asks for, on dies that are not retired (R364), and it shares
no stack space with another desk (R369). -/
def State.deskStays (s : State) (n : Nat) (d : Desk) : Bool :=
  s.deskFits n d && ((d.dies.take (diesOf d.n)).all fun x => !s.proctor.deadDies.contains x) &&
    !(s.desks.any fun (x : Nat × Option Desk) => decide (x.1 ≠ n) && match x.2 with | some k => d.overlaps k | none => false)

/-- Gives the queues of desk `n`, `count` of them, to its hart (R385), each of which keeps its hardware number; new ones take the lowest free numbers
(assumption log 24). -/
def State.assignQueues (s : State) (n count : Nat) : State :=
  let gone := fun x : Nat × Nat => x.2 / 4096 = n && decide (count ≤ x.2 % 4096)
  let h := s.harts.get {} (n % 32)
  let kept := h.queues.filter fun x => !gone x
  let used := (s.harts.flatMap fun x => x.2.queues.filter fun y => !gone y).map (·.1)
  let new := (List.range count).filter fun q => !(kept.any fun x => x.2 = queueKey n q)
  let free := (List.range (used.length + new.length)).filter fun i => !used.contains i
  { s with harts := s.harts.put {} (n % 32) { h with queues := kept ++ free.zip (new.map (queueKey n)) } }

/-- A desk with changed parameters; a memory partition that is another is mapped anew (R369, R372), and queues above the count are gone (R370). -/
def State.changeDesk (s : State) (n : Nat) (old d : Desk) : State :=
  let s := { s with queues := s.queues.filter fun x => !(x.1 / 4096 = n && decide (d.queues ≤ x.1 % 4096))
                    trees := s.trees.map fun (t : Tree) => if t.desk = n then { t with unsaved := false } else t }
  let s := s.assignQueues n d.queues
  if d.memLo = old.memLo ∧ d.memLen = old.memLen then s.updDesk n fun _ => d
  else (s.updDesk n fun _ => { d with root := d.memLo, roots := List.replicate (d.asids - 1) d.memLo }).mapPartition d.stackMap d.memLo d.memLen (s.retiredPages d)

/-- Lowest desk number that is free, below 1,024. -/
def State.freeDesk (s : State) : Option Nat := (List.range 1024).find? fun n => (s.desk? n).isNone

/-- DESKNEW (R369, R403). -/
def execDesknew (tag : BitVec 16) (body : List Byte) (s : State) : Host.Outcome State Fault Refusal :=
  s.manage 0x10 tag body fun s =>
    let parsed := if body.length < wrappedBytes then none else
      (items body.length (body.take (body.length - wrappedBytes))).bind fun ps => ({ : Desk }).withItems ps
    match parsed with
    | none => s.reply 0x10 3 tag []
    | some d =>
      match s.freeDesk, (if s.proctor.keys then Config.unwrap (body.drop (body.length - wrappedBytes)) else none) with
      | some n, some key =>
        let ways := s.laidOut d
        if !s.desksAllowed || d.memLen = 0 || ways.isEmpty || !s.deskFits n d then s.reply 0x10 1 tag []
        else
          let (r, s) := s.draw
          let (x, s) := s.draw
          let d := ways.getD (x.toNat % ways.length) d
          let d := { d with key := some key, rkey := lo32 r, root := d.memLo, roots := List.replicate (d.asids - 1) d.memLo, qbase := queueTableAt }
          let s := s.mapPartition d.stackMap d.memLo d.memLen (s.retiredPages d)
          let h := s.harts.get {} (n % 32)
          let h := { h with desks := h.desks ++ [n], lines := h.lines ||| 0x1F }
          let s := ({ s with desks := s.desks.put none n (some d), harts := s.harts.put {} (n % 32) h } : State).assignQueues n d.queues
          (s.measureDesk n d).reply 0x10 0 tag (leBytes 8 n ++ leBytes 8 d.rkey.toNat ++ leBytes 8 d.qbase)
      | _, _ => s.reply 0x10 1 tag []

/-- DESKSET (R369): priority, the policies and N change only while the desk has no live tree. -/
def execDeskset (tag : BitVec 16) (body : List Byte) (s : State) : Host.Outcome State Fault Refusal :=
  s.manage 0x11 tag body fun s =>
    let n := field body 0 8
    match (if body.length < 8 then none else items body.length (body.drop 8)) with
    | none => s.reply 0x11 3 tag []
    | some ps =>
      match s.desk? n with
      | none => s.reply 0x11 1 tag []
      | some d =>
        let live := s.trees.any (·.desk == n) || s.saved.any fun x => x.held && x.tree.desk == n
        if !s.desksAllowed || (live && ps.any fun p => [4, 5, 8, 10, 17].contains p.1) then s.reply 0x11 1 tag []
        else match d.withItems ps with
          | none => s.reply 0x11 3 tag []
          | some d' => if s.deskStays n d' then (s.changeDesk n d d').reply 0x11 0 tag []
            else s.reply 0x11 1 tag []

/-- DESKDEL (R369). -/
def execDeskdel (tag : BitVec 16) (body : List Byte) (s : State) : Host.Outcome State Fault Refusal :=
  s.manage 0x12 tag body fun s =>
    if body.length ≠ 8 then s.reply 0x12 3 tag []
    else if !s.desksAllowed || (s.desk? (field body 0 8)).isNone then s.reply 0x12 1 tag []
    else (s.destroyDesk (field body 0 8)).reply 0x12 0 tag []

/-! ## Domains (R328, R330) -/

/-- A run of a link with its counts moved. -/
def LinkRun.shift (f : Nat → Nat) (r : LinkRun) : LinkRun :=
  { r with ready := f r.ready, slot := f r.slot, flits := r.flits.map fun x => (f x.1, x.2) }

/-- Moves every count that lies ahead when the chorus count jumps from `old` to `new` (R330). -/
def State.jumpTo (s : State) (new : Nat) : State :=
  let old := s.chc
  let f := fun n : Nat => n + new - old
  let s := s.mapWaves fun w => { w with issueAt := f w.issueAt, far := w.far.map fun x => { x with due := x.due.map f }
                                        ticket := match w.ticket with | some (.tick n) => some (.tick (f n)) | t => t }
  { s with
    chc := new
    agenda := s.agenda.map fun d => { d with at_ := f d.at_ }
    calendar := []
    linkFree := s.linkFree.map fun x => (x.1, f x.2)
    tasks := s.tasks.map fun k => { k with since := f k.since }
    links := s.links.map fun (x : Nat × Link) => (x.1, { x.2 with runs := x.2.runs.map (LinkRun.shift f), cur := x.2.cur.map (LinkRun.shift f) })
    flowsOut := s.flowsOut.map fun x => (x.1, { x.2 with deadline := if x.2.kept.isEmpty then 0 else f x.2.deadline })
    cores := s.cores.map fun (k, c) => (k, { c with ops := c.ops.map fun o => { o with issue := f o.issue, start := f o.start, busy := f o.busy, comp := f o.comp }
                                                    handles := c.handles.map fun h => (h.1, { h.2 with comp := if h.2.comp = 0 then 0 else f h.2.comp }) }) }

/-- DOMJOIN (R328, R330): the count becomes the root's, which is free. -/
def execDomjoin (tag : BitVec 16) (body : List Byte) (s : State) : Host.Outcome State Fault Refusal :=
  s.manage 0x18 tag body fun s =>
    let dev := field body 0 2; let root := field body 2 2
    let pp := byteAt body 4; let sp := byteAt body 5
    let mask := field body 6 4
    let routes := body.drop 10
    let badRoute := fun b : Byte => !(b.toNat ≤ 17 || b.toNat = 0x1F)
    if body.length ≠ 522 || 511 < dev || 511 < root || 17 < pp || 17 < sp || 2 ^ 18 ≤ mask || routes.any badRoute then s.reply 0x18 3 tag []
    else if s.trees.any fun t => t.cmode && t.started then s.reply 0x18 1 tag []
    else
      let table := routes.zipIdx.foldl (fun (r : Store Nat) x => if x.1.toNat = 0x1F then r else r.put 0 x.2 (x.1.toNat + 1)) []
      let d : Domain := { dev := dev, root := root, primary := pp, secondary := sp, inUse := pp, ports := (List.range 18).filter (bit mask), routes := table }
      let s := { s with domain := some d, drift := 0 }
      let (c, s) := s.draw
      let s := if dev = root then s else s.jumpTo c.toNat
      let (x, s) := s.draw
      let s := ({ s with domain := some { d with measured := s.chc, paths := x } } : State).schedule (s.chc + 2 ^ 22) 0 0 .drift
      (s.extend 2 body).reply 0x18 0 tag []

/-- DOMLEAVE (R328): refused while a C-mode grid runs. -/
def execDomleave (tag : BitVec 16) (body : List Byte) (s : State) : Host.Outcome State Fault Refusal :=
  s.manage 0x19 tag body fun s =>
    if body ≠ [] then s.reply 0x19 3 tag []
    else if s.domain.isNone || s.trees.any (fun t => t.cmode && t.started) then s.reply 0x19 1 tag []
    else ({ s with domain := none, drift := 0 } : State).reply 0x19 0 tag []

/-! ## Shutdown, records, firmware, receipts -/

/-- SHUTDOWN (R28): no launch starts from now on; resident trees are saved or drain. The reply follows when the counters are written. -/
def execShutdown (tag : BitVec 16) (body : List Byte) (s : State) : Host.Outcome State Fault Refusal :=
  s.manage 0x20 tag body fun s =>
    if body.isEmpty then s.reply 0x20 3 tag []
    else
      let save := bit (byteAt body 0) 0
      let s := { s with shutdown := some (save, tag.toNat) }
      if save then (s.trees.filter fun t => t.started && t.savable).foldl (fun (s : State) t => s.askSave t.id 5) s
      else { s with trees := s.trees.map fun t => { t with noStart := true } }

/-- Whether a shutdown has nothing resident left and has not been answered. -/
def State.shutReady (s : State) : Bool := s.mailWaits && s.teams.isEmpty

/-- The Proctor writes the logbook to its non-volatile store (R28, R364). -/
def State.writeLogbook (s : State) : State :=
  let p := s.proctor
  { s with proctor := { p with
      stored := p.counters, storedLog := p.logbook, storedCharges := p.charges, storedSecs := s.seconds, storedCorr := p.corrected, storedUncorr := p.uncorr } }

/-- The end of an orderly shutdown (R28): the counters are written and completion is reported. -/
def State.endShutdown (s : State) : State :=
  match s.shutdown with
  | some (b, t) =>
    let s := ({ s with shutdown := some (b, shutDone) } : State).writeLogbook
    s.reply 0x20 0 (BitVec.ofNat 16 t) []
  | none => s

/-- FAULTRD (R390). -/
def execFaultrd (tag : BitVec 16) (body : List Byte) (s : State) : Host.Outcome State Fault Refusal :=
  s.manage 0x21 tag body fun s =>
    let n := field body 8 4
    if body.length ≠ 12 || 256 < n then s.reply 0x21 3 tag []
    else
      let es := (s.proctor.ring.filter fun e => decide (field body 0 8 ≤ e.seq)).take n
      s.reply 0x21 0 tag (es.flatMap Entry.bytes)

/-- The time stamps of the last three reject charges of a built core, in powered seconds, the latest last; all ones for none (R364, Table 26-3). -/
def Proctor.stamps (p : Proctor) (place : Nat) : List Nat :=
  let xs := (p.charges.filter fun c => c.1 = place).map (·.2)
  List.replicate (3 - xs.length) 0xFFFFFFFFFFFFFFFF ++ xs.drop (xs.length - 3)

/-- The logbook as LOGRD reads it (assumption log 25): the counters as pairs of key and value, the charged cores with the stamps of their last three
charges, then the entries. -/
def Proctor.logBytes (p : Proctor) : List Byte :=
  let cores := (p.charges.map (·.1)).eraseDups
  leBytes 8 p.counters.length ++ (p.counters.flatMap fun x => leBytes 8 x.1 ++ leBytes 8 x.2) ++
    leBytes 8 cores.length ++ (cores.flatMap fun c => leBytes 8 c ++ (p.stamps c).flatMap (leBytes 8)) ++ p.logbook.flatMap Entry.bytes

/-- LOGRD (R392). -/
def execLogrd (tag : BitVec 16) (body : List Byte) (s : State) : Host.Outcome State Fault Refusal :=
  s.manage 0x22 tag body fun s =>
    let n := field body 8 4
    if body.length ≠ 12 || 65536 < n then s.reply 0x22 3 tag []
    else s.reply 0x22 0 tag ((s.proctor.logBytes.drop (field body 0 8)).take n)

/-- FWCHUNK (R386). -/
def execFwchunk (tag : BitVec 16) (body : List Byte) (s : State) : Host.Outcome State Fault Refusal :=
  s.manage 0x28 tag body fun s =>
    if body.length < 8 || 8 + 65536 < body.length then s.reply 0x28 3 tag []
    else ({ s with proctor := { s.proctor with chunks := s.proctor.chunks ++ [(field body 0 8, body.drop 8)] } } : State).reply 0x28 0 tag []

/-- A byte of the image delivered: the latest chunk that holds it. -/
def chunkByte (cs : List (Nat × List Byte)) (i : Nat) : Byte :=
  match cs.reverse.find? fun c => decide (c.1 ≤ i) && decide (i < c.1 + c.2.length) with
  | some c => c.2.getD (i - c.1) 0
  | none => 0

/-- Bytes of the two signatures at the end of an image (R401; assumption log 25). -/
def sigBytes : Nat := 384 + 16224

/-- Whether both signatures of a firmware image verify (R401, R402). -/
def imageSigned (b : List Byte) : Bool :=
  let m := b.take (b.length - sigBytes)
  let g := b.drop (b.length - sigBytes)
  decide (sigBytes ≤ b.length) && Config.verifyPss [] m (g.take 384) && Config.verifySlh [] m (g.drop 384)

/-- FWCOMMIT (R386). -/
def execFwcommit (tag : BitVec 16) (body : List Byte) (s : State) : Host.Outcome State Fault Refusal :=
  s.manage 0x29 tag body fun s =>
    if body.length ≠ 8 then s.reply 0x29 3 tag []
    else
      let img := (List.range (field body 0 8)).map (chunkByte s.proctor.chunks)
      if imageSigned img then ({ s with proctor := { s.proctor with image := img, chunks := [] } } : State).reply 0x29 0 tag []
      else ({ s with proctor := { s.proctor with chunks := [] } } : State).reply 0x29 2 tag []

/-- RECEIPT (R404): for a releasable version that the page still holds. -/
def execReceipt (tag : BitVec 16) (body : List Byte) (s : State) : Host.Outcome State Fault Refusal :=
  s.manage 0x2A tag body fun s =>
    if body.length ≠ 18 then s.reply 0x2A 3 tag []
    else
      let v := s.proctor.version (field body 0 8) (field body 8 8) (field body 16 2)
      match s.walk v.desk v.page, (s.desk? v.desk).bind (·.key) with
      | some x, some key =>
        if !s.proctor.released.contains v || x.ver ≠ v.ver || x.off ≠ 0 then s.reply 0x2A 1 tag []
        else
          let (n, s) := s.takeNonce
          let page := Store.gets emptyByte s.mem x.readFrame x.size
          let aad := s.proctor.devid ++ leBytes 2 v.desk ++ leBytes 8 v.page ++ leBytes 2 v.ver ++ sha page
          s.reply 0x2A 0 tag (Config.gcmTag key (leBytes 12 n) aad []).toList
      | _, _ => s.reply 0x2A 1 tag []

/-! ## Frames served (R413, R414) -/

/-- A management request by its code (Table 29-4); a code that is not listed is answered with status 3. -/
def State.manageAs (code : Nat) (tag : BitVec 16) (body : List Byte) (s : State) : Host.Outcome State Fault Refusal :=
  match code with
  | 0x01 => execQuote tag body s
  | 0x02 => execNonce tag body s
  | 0x03 => execUnlock tag body s
  | 0x04 => execProvision tag body s
  | 0x05 => execLifecycle tag body s
  | 0x10 => execDesknew tag body s
  | 0x11 => execDeskset tag body s
  | 0x12 => execDeskdel tag body s
  | 0x18 => execDomjoin tag body s
  | 0x19 => execDomleave tag body s
  | 0x20 => execShutdown tag body s
  | 0x21 => execFaultrd tag body s
  | 0x22 => execLogrd tag body s
  | 0x28 => execFwchunk tag body s
  | 0x29 => execFwcommit tag body s
  | 0x2A => execReceipt tag body s
  | _ => s.manage code tag body fun s => s.reply code 3 tag []

/-- A frame that port 0 has received: the mailbox line rises, and the request is served, one at a time (R410); a frame whose length or status is wrong
is answered with status 3, one of an UNLOCK or LIFECYCLE consuming the nonce (R411, R413), and what is shorter than a header is no frame. -/
def State.serveFrame (s : State) (f : List Byte) : Host.Outcome State Fault Refusal :=
  if f.length < 8 then .next s
  else
    let s := s.signal .mailbox none
    let code := byteAt f 0
    let tag := BitVec.ofNat 16 (field f 2 2)
    if byteAt f 1 = 0 && field f 4 4 = f.length - 8 then State.manageAs code tag (f.drop 8) s
    else s.manage code tag (f.drop 8) fun s => (if code = 3 || code = 5 then s.spend else s).reply code 3 tag []

end Sys2Proof.Machine
end

