-- ==== Sys2Proof/Machine/Power.lean ====
section
/-! DEFINITION. Power, heat, the logbook's writes and the in-field tests (01_device.md R23 to R29; 26_reliability.md R392 to R397; 28_security.md
R402, R404). -/

namespace Sys2Proof.Machine

/-! ## Power (R23, R27, R29) -/

/-- What survives without power (R27): the fuses and the non-volatile store, with the firmware image, what the last logbook write put there (R28), powered
time among it, and the decision to retire a core, which this model stores as it is taken (assumption log 73); and the model's own inputs and free
counter. -/
def State.turnOff (s : State) : State :=
  let p := s.proctor
  { State.reset with
    supply := false, seconds := p.storedSecs, free := s.free, inbox := s.inbox, mail := s.mail
    proctor := { State.reset.proctor with
      counters := p.stored, stored := p.stored, logbook := p.storedLog, storedLog := p.storedLog, nonceS := p.nonceS, lcs := p.lcs, devid := p.devid
      authRsa := p.authRsa, authSlh := p.authSlh, svn := p.svn, keys := p.keys, wkh := p.wkh, image := p.image, charges := p.storedCharges
      storedCharges := p.storedCharges, storedSecs := p.storedSecs, corrected := p.storedCorr, storedCorr := p.storedCorr, uncorr := p.storedUncorr
      storedUncorr := p.storedUncorr, fused := p.fused, spares := p.spares, retired := p.retired, deadDies := p.deadDies, retireNext := p.retireNext
      granules := p.granules } }

/-- Whether the firmware image may run (R402). -/
def Proctor.imageOk (p : Proctor) : Bool := imageSigned p.image && decide (p.svn ≤ Config.imageVersion p.image)

/-- Retires a built core (R364): it is fused, and a spare of its die, which one is free, is enabled in its place; without one the whole die is
retired. -/
def State.retireCore (s : State) (place : Nat) : State :=
  if s.proctor.retired.contains place then s
  else
    let die := place / 96
    let s := { s with proctor := { s.proctor with retired := s.proctor.retired ++ [place] } }
    match State.choose 1 (s.proctor.spares.filter fun x => x / 96 = die) s with
    | (x :: _, s) => { s with proctor := { s.proctor with spares := s.proctor.spares.filter (· ≠ x) } }
    | ([], s) => { s with proctor := { s.proctor with deadDies := if s.proctor.deadDies.contains die then s.proctor.deadDies else s.proctor.deadDies ++ [die] } }

/-- Boot (R29, R402, R404): the image is verified; MEAS0 and MEAS1 take its parts, the fused version rises, the seal count moves on, cores to be
retired are, and the other dies are released. An image that fails is not run, and the boot ROM waits for another (R386). -/
def State.boot (s : State) : State :=
  let p := s.proctor
  if !p.imageOk then { s with recovery := true, supply := true }
  else
    let s := { s with power := true, recovery := false, supply := true, chc := 0 }
    let s := (s.extend 0 (Config.imageTrusted p.image)).extend 1 (Config.imageRegistrar p.image)
    let s := { s with proctor := { s.proctor with svn := max p.svn (Config.imageVersion p.image), nonce := p.nonceS, nonceS := p.nonceS + 2 ^ 32
                                                  retireNext := [], onAt := s.seconds, tested := [] } }
    p.retireNext.foldl State.retireCore s

/-- POWER_ON (R29). -/
def execPowerOn (s : State) : Host.Outcome State Fault Refusal :=
  if s.power || s.recovery then .fault .noOccasion else .next s.boot

/-- POWER_REMOVAL (R27). -/
def execPowerRemoval (s : State) : Host.Outcome State Fault Refusal := .next s.turnOff

/-- UNDERVOLTAGE_TURNOFF (R23). -/
def execUndervoltageTurnoff (s : State) : Host.Outcome State Fault Refusal := .next s.turnOff

/-- TRIP_POINT (R26): off, without saving any context. -/
def execTripPoint (_unit : Nat) (s : State) : Host.Outcome State Fault Refusal := .next s.turnOff

/-- SUPPLY_DROOP (R392). -/
def execSupplyDroop (s : State) : Host.Outcome State Fault Refusal :=
  if s.power then .next (s.count (counterKey 1 0) 32) else .fault .noOccasion

/-! ## Power windows and heat (R25, R26, R392) -/

/-- Dies that Table 26-3 keeps temperature bands of. -/
def bandDies : List Nat := [0, 1, 2, 3, 4, 5, 8, 9, 10, 11, 12, 13, 14, 15]

/-- A powered second in a temperature band of each die; the band is free (assumption log 11). -/
def State.countBands (s : State) : State :=
  bandDies.foldl (fun (s : State) d =>
    let (x, s) := s.draw
    s.count (counterKey 0 (d * 32 + x.toNat % 21)) 32) s

/-- Whose soft error is corrected (R398): a structure of a built core (0 register file, 1 slice, 2 accumulator, 3 buffer and handle tables, 4 TLB), or
a channel of a stack. -/
inductive Ecc where
  | core (place structure_ : Nat)
  | channel (stack channel : Nat)
  deriving DecidableEq, Repr

/-- Counter of corrected soft errors (Table 26-3). -/
def Ecc.key : Ecc → Nat
  | .core p x => counterKey 2 (p * 8 + x)
  | .channel k c => counterKey 3 (k * 32 + c)

/-- The entry of a corrected soft error. -/
def Ecc.entry : Ecc → Entry
  | .core p _ => { kind := 4, unit := placeUnit p, ploc := placePloc p, detail := 1 }
  | .channel k _ => { kind := 4, unit := 8 + k, detail := 1 }

/-- A soft error is corrected (R398): no value changes, it is counted, and the first of its structure or channel in each hour of powered time is
written to the fault record. -/
def State.correct (s : State) (x : Ecc) : State :=
  let s := s.count x.key 32
  let hour := s.seconds / 3600
  if s.proctor.corrected.contains (x.key, hour) then s
  else { s.log x.entry with proctor := { (s.log x.entry).proctor with corrected := s.proctor.corrected.filter (·.1 ≠ x.key) ++ [(x.key, hour)] } }

/-- The corrected soft error, if any, that a free value tells of: when one occurs, and where, is open (assumption log 51). -/
def eccOf (x : Nat) : Option Ecc :=
  match x % 4 with
  | 0 => some (.core (x / 4 % 384) (x / 4 / 384 % 5))
  | 1 => some (.channel (x / 4 % 8) (x / 32 % 32))
  | _ => none

/-- The soft errors corrected in a millisecond. -/
def State.softErrors (s : State) : State :=
  let (x, s) := s.draw
  match eccOf x.toNat with
  | some e => s.correct e
  | none => s

/-- An uncorrectable error that comes to stand in a millisecond, if any (R399): in a line of 128 bytes of a stack, a word of a slice or a word of an
accumulator bank; when and where is open (assumption log 51). -/
def State.hardErrors (s : State) : State :=
  let (x, s) := s.draw
  let n := x.toNat / 4
  match x.toNat % 4 with
  | 0 => { s with badLines := s.badLines ++ [n % 2 ^ 32] }
  | 1 => { s with badWords := s.badWords ++ [n % 2 ^ 37] }
  | 2 => { s with badBanks := s.badBanks ++ [n % 2 ^ 36] }
  | _ => s

/-- A millisecond of powered time passes; the logbook is written every 60 s (R28). -/
def State.passMilli (s : State) : State :=
  let s := s.softErrors.hardErrors
  if s.millis + 1 < 1000 then { s with millis := s.millis + 1 }
  else
    let s := ({ s with millis := 0, seconds := s.seconds + 1 } : State).countBands
    if s.seconds % 60 = 0 then s.writeLogbook else s

/-- POWER_MEASUREMENT (R25): a 1 ms window; above 2,200 W L-mode work is gated, which changes timing only, and the excess is counted. -/
def execPowerMeasurement (milliwatts : Nat) (s : State) : Host.Outcome State Fault Refusal :=
  if !s.power then .fault .noOccasion
  else
    let s := s.passMilli
    let tooMuch := decide (2200000 < milliwatts)
    .next (if tooMuch then { s with gated := true }.count (counterKey 9 0) 32 else { s with gated := false })

/-- THROTTLE_POINT (R26): counted; at a compute die, or a stack of it, a C-mode grid with a team on that die receives a forced save. -/
def execThrottlePoint (unit : Nat) (s : State) : Host.Outcome State Fault Refusal :=
  if !s.power || s.throttled.contains unit then .fault .noOccasion
  else
    let s := ({ s with throttled := s.throttled ++ [unit] } : State).count (counterKey 17 unit) 32
    match hotDie unit, s.chorusTree with
    | some die, some t =>
      if s.teams.any fun m => m.tree == t.id && s.place m.core / 96 = die then
        let s := s.updTree t.id fun t => { t with hot := true }
        .next (if t.savable then s.askSave t.id 3 else s)
      else .next s
    | _, _ => .next s

/-- THROTTLE_RECOVERY (R26). -/
def execThrottleRecovery (unit : Nat) (s : State) : Host.Outcome State Fault Refusal :=
  if s.throttled.contains unit then .next { s with throttled := s.throttled.filter (· ≠ unit) } else .fault .noOccasion

/-- LOGBOOK_WRITE (R28). -/
def execLogbookWrite (s : State) : Host.Outcome State Fault Refusal :=
  if s.power then .next s.writeLogbook else .fault .noOccasion

/-! ## In-field tests (R393 to R397) -/

/-- The test of a physical core, if one is asked for. -/
def State.test? (s : State) (die place : Nat) : Option (Nat × Nat × Option Nat) := s.tests.find? fun t => t.1 == die && t.2.1 == place

/-- Whether the test of a core must be deferred (R395): an open window, a C-mode grid, a save or debug stop that is pending or held. -/
def State.deferred (s : State) (core : Nat) : Bool :=
  (s.allWaves.any fun w => w.core == core && w.status == .live && (w.dispre.isSome || w.op.isSome)) ||
    s.teams.any fun m => m.core == core && match s.tree? m.tree with
      | some t => t.cmode || t.save || t.debug
      | none => false

/-- Counts the deferral of a test that is deferred now (R396), once for as long as it lasts. -/
def State.noteDeferral (s : State) (die place core : Nat) : State :=
  let p := die * 96 + place
  if !s.deferred core then { s with deferrals := s.deferrals.filter (· ≠ p) }
  else if s.deferrals.contains p then s
  else ({ s with deferrals := s.deferrals ++ [p] } : State).count (counterKey 15 p) 32

/-- A deferral of a pending test that has begun or ended since (R395, R396). -/
def State.deferralDue (s : State) : Option State :=
  (s.tests.find? fun x => match x.2.2 with
    | some c => s.deferred c != s.deferrals.contains (x.1 * 96 + x.2.1)
    | none => false).map fun x => s.noteDeferral x.1 x.2.1 (x.2.2.getD 0)

/-- INFIELD_TEST_DUE (R393, R394): of an enabled core (R16) whose time has come, by die and place in its mesh, row × 12 + column. No team starts on the logical core it is
lent as, and its waves stop at their next switch points. -/
def execInfieldTestDue (die place : Nat) (s : State) : Host.Outcome State Fault Refusal :=
  if !s.power || 3 < die || 95 < place || (s.test? die place).isSome || !(s.proctor.enabledOn die).contains (die * 96 + place) ||
      s.seconds < s.proctor.dueAt (die * 96 + place) then .fault .noOccasion
  else
    let pick := s.lentAs (die * 96 + place)
    let s := { s with tests := s.tests ++ [(die, place, pick)] }
    match pick with
    | none => .next s
    | some c =>
      let s := s.noteDeferral die place c
      let cmode := s.teams.any fun m => m.core == c && (match s.tree? m.tree with | some t => t.cmode | none => false)
      let s := s.updCore c fun k => { k with testDue := true }
      .next (if cmode then s else s.mapWaves fun w => if w.core == c then w.stopAtSwitch else w)

/-- Whether a core is drained for its test. -/
def State.drainedCore (s : State) (core : Nat) : Bool :=
  !s.deferred core && s.allWaves.all fun w => w.core ≠ core || w.status == .idle || w.status == .stopped || w.status == .ended || w.status == .faulted

/-- The waves of a core go on after its test (R394): as after a wait, in a quantum that has not committed. -/
def State.resumeCore (s : State) (core : Nat) : State :=
  s.mapWaves fun w =>
    if w.core ≠ core || w.status != .stopped then w
    else
      let q := match s.tree? w.tree with | some t => t.committed | none => 0
      if w.qnt < q then { w with status := .live, qnt := q, retired := 0, qdelay := none } else { w with status := .live }

/-- A launch tree that had a team on a core whose test failed (R397): it stops as a fault with MEMERR (assumption log 58), its unreleased versions are revoked, and it
is to be replayed. -/
def State.failTree (s : State) (t : Tree) (core : Nat) : State :=
  let q := if t.cmode then s.chc else maxOf ((s.wavesOf t.id).filterMap fun w => if w.core = core then some w.qnt else none)
  let s := s.stopTree t { q := q, core := core % 512, wave := 0, code := MEMERR, pc := 0xFFFFFFFF }
  let s := s.mapWaves fun w => if w.tree == t.id && w.core == core && w.status != .ended then { w with status := .faulted } else w
  let s := s.revokeAll none (s.versionsOf t.id)
  let s := s.updTree t.id fun t => { t with moved := (List.range (diesOf t.n)).filter fun l => t.dies.getD l 0 = s.place core / 96 }
  if t.replayOf.isSome || s.proctor.replays.any (·.1 == t.id) then s
  else { s with proctor := { s.proctor with replays := s.proctor.replays ++ [(t.id, s.proctor.nextOp)] } }

/-- A saved launch tree that had a team on a built core whose test failed, a chorus task saved for the test among them (R397): it ends as a fault with
MEMERR and does not resume (assumption log 58). -/
def State.failSaved (s : State) (v : Saved) (place : Nat) : State :=
  let t := { v.tree with moved := (List.range (diesOf v.tree.n)).filter fun l => v.tree.dies.getD l 0 = place / 96 }
  let s := s.releaseImage v
  let s := s.log { kind := 1, code := MEMERR, unit := placeUnit place, ploc := placePloc place, desk := t.desk, tree := t.id }
  let s := s.revokeAll none (s.versionsOf t.id)
  let s := if t.replayOf.isSome || s.proctor.replays.any (·.1 == t.id) then s
    else { s with proctor := { s.proctor with replays := s.proctor.replays ++ [(t.id, s.proctor.nextOp)] } }
  (s.keep t).endLaunch t 2 MEMERR

/-- Whether a saved tree had a team on a built core. -/
def Saved.stoodOn (v : Saved) (place : Nat) : Bool := v.held && v.teams.any fun m => v.places[m.core % 512]? = some place

/-- INFIELD_TEST_COMPLETE (R394, R397). -/
def execInfieldTestComplete (die place : Nat) (failed : Bool) (block : Nat) (s : State) : Host.Outcome State Fault Refusal :=
  match s.test? die place with
  | none => .fault .noOccasion
  | some t =>
    if match t.2.2 with | some c => !s.drainedCore c | none => false then .fault .noOccasion
    else
      let s := { s with proctor := { s.proctor with tested := s.proctor.tested.put s.proctor.onAt (die * 96 + place) s.seconds } }
      let s := ({ s with tests := s.tests.filter (· ≠ t), deferrals := s.deferrals.filter (· ≠ die * 96 + place) } : State).count (counterKey 14 (die * 96 + place)) 32
      let s := match t.2.2 with | some c => s.updCore c fun k => { k with testDue := false, overdue := false } | none => s
      let s := if !failed then s else
        let s := (s.log { kind := 10, unit := die, ploc := placePloc place, detail := 1 + block % 256 * 256 }).count (counterKey 16 (die * 96 + place)) 32
        let s := { s with proctor := { s.proctor with retireNext := s.proctor.retireNext ++ [die * 96 + place] } }
        let s := (s.saved.filter fun v => v.stoodOn (die * 96 + place)).foldl (fun (s : State) v => s.failSaved v (die * 96 + place)) s
        match t.2.2 with
        | some c => (s.trees.filter fun (t : Tree) => s.teams.any fun m => m.tree == t.id && m.core == c).foldl (fun (s : State) t => s.failTree t c) s
        | none => s
      .next (match t.2.2 with | some c => s.resumeCore c | none => s)

/-- TEST_OVERDUE (R395): 50 minutes after the test fell due, a chorus task on the core receives a forced save. -/
def execTestOverdue (die place : Nat) (s : State) : Host.Outcome State Fault Refusal :=
  match s.test? die place with
  | none => .fault .noOccasion
  | some t =>
    if s.seconds < s.proctor.dueAt (die * 96 + place) + 3000 then .fault .noOccasion
    else match t.2.2 with
    | none => .next s
    | some c =>
      let s := s.updCore c fun k => { k with overdue := true }
      .next (match s.teams.find? fun m => m.core == c && (match s.tree? m.tree with | some t => t.cmode && t.savable | none => false) with
        | some m => s.askSave m.tree 4
        | none => s)

end Sys2Proof.Machine
end

