-- ==== Sys2Proof/Machine/Dispatch.lean ====
section
/-! DEFINITION. One arm per instruction: the meaning it calls. -/

namespace Sys2Proof.Machine

/-- What the machine does on an instruction. -/
def exec (i : Instr) (s : State) : Host.Outcome State Fault Refusal :=
  match i with
  | .add d a b => Sys2Proof.Machine.execAdd d a b s
  | .sub d a b => Sys2Proof.Machine.execSub d a b s
  | .mul d a b => Sys2Proof.Machine.execMul d a b s
  | .mulh d a b => Sys2Proof.Machine.execMulh d a b s
  | .mulhu d a b => Sys2Proof.Machine.execMulhu d a b s
  | .div d a b => Sys2Proof.Machine.execDiv d a b s
  | .divu d a b => Sys2Proof.Machine.execDivu d a b s
  | .rem d a b => Sys2Proof.Machine.execRem d a b s
  | .remu d a b => Sys2Proof.Machine.execRemu d a b s
  | .and d a b => Sys2Proof.Machine.execAnd d a b s
  | .or d a b => Sys2Proof.Machine.execOr d a b s
  | .xor d a b => Sys2Proof.Machine.execXor d a b s
  | .andn d a b => Sys2Proof.Machine.execAndn d a b s
  | .shl d a b => Sys2Proof.Machine.execShl d a b s
  | .shr d a b => Sys2Proof.Machine.execShr d a b s
  | .sra d a b => Sys2Proof.Machine.execSra d a b s
  | .shli d a n => Sys2Proof.Machine.execShli d a n s
  | .shri d a n => Sys2Proof.Machine.execShri d a n s
  | .srai d a n => Sys2Proof.Machine.execSrai d a n s
  | .slt d a b => Sys2Proof.Machine.execSlt d a b s
  | .sltu d a b => Sys2Proof.Machine.execSltu d a b s
  | .min d a b => Sys2Proof.Machine.execMin d a b s
  | .max d a b => Sys2Proof.Machine.execMax d a b s
  | .minu d a b => Sys2Proof.Machine.execMinu d a b s
  | .maxu d a b => Sys2Proof.Machine.execMaxu d a b s
  | .clz d a => Sys2Proof.Machine.execClz d a s
  | .ctz d a => Sys2Proof.Machine.execCtz d a s
  | .popc d a => Sys2Proof.Machine.execPopc d a s
  | .bfx d a p w x => Sys2Proof.Machine.execBfx d a p w x s
  | .bfi d a p w => Sys2Proof.Machine.execBfi d a p w s
  | .sel d a b c => Sys2Proof.Machine.execSel d a b c s
  | .addi d a iv => Sys2Proof.Machine.execAddi d a iv s
  | .andi d a iv => Sys2Proof.Machine.execAndi d a iv s
  | .ori d a iv => Sys2Proof.Machine.execOri d a iv s
  | .xori d a iv => Sys2Proof.Machine.execXori d a iv s
  | .lih d iv => Sys2Proof.Machine.execLih d iv s
  | .adda d a iv => Sys2Proof.Machine.execAdda d a iv s
  | .mova d a iv => Sys2Proof.Machine.execMova d a iv s
  | .movsa d a iv => Sys2Proof.Machine.execMovsa d a iv s
  | .setk k a => Sys2Proof.Machine.execSetk k a s
  | .getk d k => Sys2Proof.Machine.execGetk d k s
  | .mfs d n => Sys2Proof.Machine.execMfs d n s
  | .mts a n => Sys2Proof.Machine.execMts a n s
  | .bc a b c o => Sys2Proof.Machine.execBc a b c o s
  | .j o => Sys2Proof.Machine.execJ o s
  | .jal o => Sys2Proof.Machine.execJal o s
  | .jr a => Sys2Proof.Machine.execJr a s
  | .bv m t jo => Sys2Proof.Machine.execBv m t jo s
  | .jtv v n b jo => Sys2Proof.Machine.execJtv v n b jo s
  | .loopl a o => Sys2Proof.Machine.execLoopl a o s
  | .loopb a o => Sys2Proof.Machine.execLoopb a o s
  | .vmov d b => Sys2Proof.Machine.execVmov d b s
  | .vaddI32x16 d b => Sys2Proof.Machine.execVaddI32x16 d b s
  | .vsubI32x16 d b => Sys2Proof.Machine.execVsubI32x16 d b s
  | .vmulI32x16 d b => Sys2Proof.Machine.execVmulI32x16 d b s
  | .vandx16 d b => Sys2Proof.Machine.execVandx16 d b s
  | .vorx16 d b => Sys2Proof.Machine.execVorx16 d b s
  | .vxorx16 d b => Sys2Proof.Machine.execVxorx16 d b s
  | .vshlI32x16 d b => Sys2Proof.Machine.execVshlI32x16 d b s
  | .vsraI32x16 d b => Sys2Proof.Machine.execVsraI32x16 d b s
  | .vminS32x16 d b => Sys2Proof.Machine.execVminS32x16 d b s
  | .vmaxS32x16 d b => Sys2Proof.Machine.execVmaxS32x16 d b s
  | .vfaddF32x16 d b => Sys2Proof.Machine.execVfaddF32x16 d b s
  | .vfsubF32x16 d b => Sys2Proof.Machine.execVfsubF32x16 d b s
  | .vfmulF32x16 d b => Sys2Proof.Machine.execVfmulF32x16 d b s
  | .vfminF32x16 d b => Sys2Proof.Machine.execVfminF32x16 d b s
  | .vfmaxF32x16 d b => Sys2Proof.Machine.execVfmaxF32x16 d b s
  | .vaddI32 d a b m => Sys2Proof.Machine.execVaddI32 d a b m s
  | .vaddS32 d a b m => Sys2Proof.Machine.execVaddS32 d a b m s
  | .vaddU32 d a b m => Sys2Proof.Machine.execVaddU32 d a b m s
  | .vsubI32 d a b m => Sys2Proof.Machine.execVsubI32 d a b m s
  | .vsubS32 d a b m => Sys2Proof.Machine.execVsubS32 d a b m s
  | .vsubU32 d a b m => Sys2Proof.Machine.execVsubU32 d a b m s
  | .vmulI32 d a b m => Sys2Proof.Machine.execVmulI32 d a b m s
  | .vmulhS32 d a b m => Sys2Proof.Machine.execVmulhS32 d a b m s
  | .vmulhU32 d a b m => Sys2Proof.Machine.execVmulhU32 d a b m s
  | .vmadI32 d a b m => Sys2Proof.Machine.execVmadI32 d a b m s
  | .vand d a b m => Sys2Proof.Machine.execVand d a b m s
  | .vor d a b m => Sys2Proof.Machine.execVor d a b m s
  | .vxor d a b m => Sys2Proof.Machine.execVxor d a b m s
  | .vandn d a b m => Sys2Proof.Machine.execVandn d a b m s
  | .vshlI32 d a b m => Sys2Proof.Machine.execVshlI32 d a b m s
  | .vshrI32 d a b m => Sys2Proof.Machine.execVshrI32 d a b m s
  | .vsraI32 d a b m => Sys2Proof.Machine.execVsraI32 d a b m s
  | .vminS32 d a b m => Sys2Proof.Machine.execVminS32 d a b m s
  | .vmaxS32 d a b m => Sys2Proof.Machine.execVmaxS32 d a b m s
  | .vminU32 d a b m => Sys2Proof.Machine.execVminU32 d a b m s
  | .vmaxU32 d a b m => Sys2Proof.Machine.execVmaxU32 d a b m s
  | .vabsS32 d a m => Sys2Proof.Machine.execVabsS32 d a m s
  | .vnegI32 d a m => Sys2Proof.Machine.execVnegI32 d a m s
  | .vsel d a b sv => Sys2Proof.Machine.execVsel d a b sv s
  | .vcmpS32 d a b m c => Sys2Proof.Machine.execVcmpS32 d a b m c s
  | .vcmpU32 d a b m c => Sys2Proof.Machine.execVcmpU32 d a b m c s
  | .vpopc d a m => Sys2Proof.Machine.execVpopc d a m s
  | .vclz d a m => Sys2Proof.Machine.execVclz d a m s
  | .vbfxU32 d a sv m => Sys2Proof.Machine.execVbfxU32 d a sv m s
  | .vbfxS32 d a sv m => Sys2Proof.Machine.execVbfxS32 d a sv m s
  | .vaddiI32 d a m iv => Sys2Proof.Machine.execVaddiI32 d a m iv s
  | .vshli d a m n => Sys2Proof.Machine.execVshli d a m n s
  | .vshri d a m n => Sys2Proof.Machine.execVshri d a m n s
  | .vsrai d a m n => Sys2Proof.Machine.execVsrai d a m n s
  | .vmovs d sv m => Sys2Proof.Machine.execVmovs d sv m s
  | .vlane d m => Sys2Proof.Machine.execVlane d m s
  | .vmovi d m iv => Sys2Proof.Machine.execVmovi d m iv s
  | .vfaddF32 d a b m => Sys2Proof.Machine.execVfaddF32 d a b m s
  | .vfaddF16X2 d a b m => Sys2Proof.Machine.execVfaddF16X2 d a b m s
  | .vfsubF32 d a b m => Sys2Proof.Machine.execVfsubF32 d a b m s
  | .vfsubF16X2 d a b m => Sys2Proof.Machine.execVfsubF16X2 d a b m s
  | .vfmulF32 d a b m => Sys2Proof.Machine.execVfmulF32 d a b m s
  | .vfmulF16X2 d a b m => Sys2Proof.Machine.execVfmulF16X2 d a b m s
  | .vfmaF32 d a b m => Sys2Proof.Machine.execVfmaF32 d a b m s
  | .vfmaF16X2 d a b m => Sys2Proof.Machine.execVfmaF16X2 d a b m s
  | .vfmsF32 d a b m => Sys2Proof.Machine.execVfmsF32 d a b m s
  | .vfmsF16X2 d a b m => Sys2Proof.Machine.execVfmsF16X2 d a b m s
  | .vfnmaF32 d a b m => Sys2Proof.Machine.execVfnmaF32 d a b m s
  | .vfnmaF16X2 d a b m => Sys2Proof.Machine.execVfnmaF16X2 d a b m s
  | .vfminF32 d a b m => Sys2Proof.Machine.execVfminF32 d a b m s
  | .vfmaxF32 d a b m => Sys2Proof.Machine.execVfmaxF32 d a b m s
  | .vfminF16X2 d a b m => Sys2Proof.Machine.execVfminF16X2 d a b m s
  | .vfmaxF16X2 d a b m => Sys2Proof.Machine.execVfmaxF16X2 d a b m s
  | .vfmaxlF16 d a b m => Sys2Proof.Machine.execVfmaxlF16 d a b m s
  | .vfminlF16 d a b m => Sys2Proof.Machine.execVfminlF16 d a b m s
  | .vfabsF32 d a m => Sys2Proof.Machine.execVfabsF32 d a m s
  | .vfnegF32 d a m => Sys2Proof.Machine.execVfnegF32 d a m s
  | .vfcopysignF32 d a b m => Sys2Proof.Machine.execVfcopysignF32 d a b m s
  | .vfabsF16X2 d a m => Sys2Proof.Machine.execVfabsF16X2 d a m s
  | .vfnegF16X2 d a m => Sys2Proof.Machine.execVfnegF16X2 d a m s
  | .vfcopysignF16X2 d a b m => Sys2Proof.Machine.execVfcopysignF16X2 d a b m s
  | .vfcmpF32 d a b m c => Sys2Proof.Machine.execVfcmpF32 d a b m c s
  | .vfrcpF32 d a m => Sys2Proof.Machine.execVfrcpF32 d a m s
  | .vfrsqF32 d a m => Sys2Proof.Machine.execVfrsqF32 d a m s
  | .vfrcpF16X2 d a m => Sys2Proof.Machine.execVfrcpF16X2 d a m s
  | .vfrsqF16X2 d a m => Sys2Proof.Machine.execVfrsqF16X2 d a m s
  | .vfdivF32 d a b m => Sys2Proof.Machine.execVfdivF32 d a b m s
  | .vfsqrtF32 d a m => Sys2Proof.Machine.execVfsqrtF32 d a m s
  | .vcvt d a p m r => Sys2Proof.Machine.execVcvt d a p m r s
  | .vpackF16X2 d a b m => Sys2Proof.Machine.execVpackF16X2 d a b m s
  | .vpackBf16x2 d a b m => Sys2Proof.Machine.execVpackBf16x2 d a b m s
  | .vpackE2M1X d a m => Sys2Proof.Machine.execVpackE2M1X d a m s
  | .vunpklF16 d a m => Sys2Proof.Machine.execVunpklF16 d a m s
  | .vunpkhF16 d a m => Sys2Proof.Machine.execVunpkhF16 d a m s
  | .vunpklBf16 d a m => Sys2Proof.Machine.execVunpklBf16 d a m s
  | .vunpkhBf16 d a m => Sys2Proof.Machine.execVunpkhBf16 d a m s
  | .setfmt a => Sys2Proof.Machine.execSetfmt a s
  | .getfmt d => Sys2Proof.Machine.execGetfmt d s
  | .vfclassF32 d a m => Sys2Proof.Machine.execVfclassF32 d a m s
  | .vfclassF16X2 d a m => Sys2Proof.Machine.execVfclassF16X2 d a m s
  | .vshfl d a b m => Sys2Proof.Machine.execVshfl d a b m s
  | .vshfliXor d a m n => Sys2Proof.Machine.execVshfliXor d a m n s
  | .vshfliUp d a m n => Sys2Proof.Machine.execVshfliUp d a m n s
  | .vshfliDown d a m n => Sys2Proof.Machine.execVshfliDown d a m n s
  | .vbc d a sv m => Sys2Proof.Machine.execVbc d a sv m s
  | .vballot d a m => Sys2Proof.Machine.execVballot d a m s
  | .voteAll d a m => Sys2Proof.Machine.execVoteAll d a m s
  | .voteAny d a m => Sys2Proof.Machine.execVoteAny d a m s
  | .voteNone d a m => Sys2Proof.Machine.execVoteNone d a m s
  | .voteUni d a m => Sys2Proof.Machine.execVoteUni d a m s
  | .vfirst d a m => Sys2Proof.Machine.execVfirst d a m s
  | .mand d a b => Sys2Proof.Machine.execMand d a b s
  | .mor d a b => Sys2Proof.Machine.execMor d a b s
  | .mxor d a b => Sys2Proof.Machine.execMxor d a b s
  | .mnot d a => Sys2Proof.Machine.execMnot d a s
  | .mandn d a b => Sys2Proof.Machine.execMandn d a b s
  | .mmovs d a => Sys2Proof.Machine.execMmovs d a s
  | .mmovm d sv => Sys2Proof.Machine.execMmovm d sv s
  | .mpopc d a => Sys2Proof.Machine.execMpopc d a s
  | .vldc t n k m o iv => Sys2Proof.Machine.execVldc t n k m o iv s
  | .vstc t n k m o iv => Sys2Proof.Machine.execVstc t n k m o iv s
  | .vldg t n b m o => Sys2Proof.Machine.execVldg t n b m o s
  | .vstg t n b m o => Sys2Proof.Machine.execVstg t n b m o s
  | .vldb t n k m o iv => Sys2Proof.Machine.execVldb t n k m o iv s
  | .sld sv n z x d => Sys2Proof.Machine.execSld sv n z x d s
  | .sst sv n z d => Sys2Proof.Machine.execSst sv n z d s
  | .prfc n k m iv => Sys2Proof.Machine.execPrfc n k m iv s
  | .sprec n k => Sys2Proof.Machine.execSprec n k s
  | .spld t k m => Sys2Proof.Machine.execSpld t k m s
  | .spst t k m => Sys2Proof.Machine.execSpst t k m s
  | .atomvAddI32 o t a n sv r => Sys2Proof.Machine.execAtomvAddI32 o t a n sv r s
  | .atomvAddF32 o t a n sv r => Sys2Proof.Machine.execAtomvAddF32 o t a n sv r s
  | .atomvMinS32 o t a n sv r => Sys2Proof.Machine.execAtomvMinS32 o t a n sv r s
  | .atomvMaxS32 o t a n sv r => Sys2Proof.Machine.execAtomvMaxS32 o t a n sv r s
  | .atomvMinU32 o t a n sv r => Sys2Proof.Machine.execAtomvMinU32 o t a n sv r s
  | .atomvMaxU32 o t a n sv r => Sys2Proof.Machine.execAtomvMaxU32 o t a n sv r s
  | .atomvAnd o t a n sv r => Sys2Proof.Machine.execAtomvAnd o t a n sv r s
  | .atomvOr o t a n sv r => Sys2Proof.Machine.execAtomvOr o t a n sv r s
  | .atomvXor o t a n sv r => Sys2Proof.Machine.execAtomvXor o t a n sv r s
  | .atomvXchg o t a n sv r => Sys2Proof.Machine.execAtomvXchg o t a n sv r s
  | .atomvCas o t a n sv r => Sys2Proof.Machine.execAtomvCas o t a n sv r s
  | .atomvMaxlF16 o t a n sv r => Sys2Proof.Machine.execAtomvMaxlF16 o t a n sv r s
  | .atomvMinlF16 o t a n sv r => Sys2Proof.Machine.execAtomvMinlF16 o t a n sv r s
  | .atomvAddI64 o t a n sv r => Sys2Proof.Machine.execAtomvAddI64 o t a n sv r s
  | .atomsAddI32 o d a n sv r => Sys2Proof.Machine.execAtomsAddI32 o d a n sv r s
  | .atomsAddF32 o d a n sv r => Sys2Proof.Machine.execAtomsAddF32 o d a n sv r s
  | .atomsMinS32 o d a n sv r => Sys2Proof.Machine.execAtomsMinS32 o d a n sv r s
  | .atomsMaxS32 o d a n sv r => Sys2Proof.Machine.execAtomsMaxS32 o d a n sv r s
  | .atomsMinU32 o d a n sv r => Sys2Proof.Machine.execAtomsMinU32 o d a n sv r s
  | .atomsMaxU32 o d a n sv r => Sys2Proof.Machine.execAtomsMaxU32 o d a n sv r s
  | .atomsAnd o d a n sv r => Sys2Proof.Machine.execAtomsAnd o d a n sv r s
  | .atomsOr o d a n sv r => Sys2Proof.Machine.execAtomsOr o d a n sv r s
  | .atomsXor o d a n sv r => Sys2Proof.Machine.execAtomsXor o d a n sv r s
  | .atomsXchg o d a n sv r => Sys2Proof.Machine.execAtomsXchg o d a n sv r s
  | .atomsCas o d a n sv r => Sys2Proof.Machine.execAtomsCas o d a n sv r s
  | .atomsMaxlF16 o d a n sv r => Sys2Proof.Machine.execAtomsMaxlF16 o d a n sv r s
  | .atomsMinlF16 o d a n sv r => Sys2Proof.Machine.execAtomsMinlF16 o d a n sv r s
  | .atomsAddI64 o d a n sv r => Sys2Proof.Machine.execAtomsAddI64 o d a n sv r s
  | .binit n b w => Sys2Proof.Machine.execBinit n b w s
  | .barv n r => Sys2Proof.Machine.execBarv n r s
  | .barx n b r => Sys2Proof.Machine.execBarx n b r s
  | .btry d n b => Sys2Proof.Machine.execBtry d n b s
  | .bwait n b => Sys2Proof.Machine.execBwait n b s
  | .waitc n b c w => Sys2Proof.Machine.execWaitc n b c w s
  | .fence sv => Sys2Proof.Machine.execFence sv s
  | .acq d a => Sys2Proof.Machine.execAcq d a s
  | .acrel a b => Sys2Proof.Machine.execAcrel a b s
  | .aczero h sv m => Sys2Proof.Machine.execAczero h sv m s
  | .acrd h sv n k m => Sys2Proof.Machine.execAcrd h sv n k m s
  | .acwr h sv n k m => Sys2Proof.Machine.execAcwr h sv n k m s
  | .accvt h sv n k m => Sys2Proof.Machine.execAccvt h sv n k m s
  | .ldsw h n k t e => Sys2Proof.Machine.execLdsw h n k t e s
  | .swapw h => Sys2Proof.Machine.execSwapw h s
  | .mma h sv n k m t o e => Sys2Proof.Machine.execMma h sv n k m t o e s
  | .fwait h => Sys2Proof.Machine.execFwait h s
  | .ftest d h => Sys2Proof.Machine.execFtest d h s
  | .fcancel h => Sys2Proof.Machine.execFcancel h s
  | .fmov d a => Sys2Proof.Machine.execFmov d a s
  | .fbind d a => Sys2Proof.Machine.execFbind d a s
  | .dhset a b => Sys2Proof.Machine.execDhset a b s
  | .dhwait a => Sys2Proof.Machine.execDhwait a s
  | .dhget d a => Sys2Proof.Machine.execDhget d a s
  | .dhrel a => Sys2Proof.Machine.execDhrel a s
  | .wptr d h b => Sys2Proof.Machine.execWptr d h b s
  | .cpyq h n a b => Sys2Proof.Machine.execCpyq h n a b s
  | .pub n b => Sys2Proof.Machine.execPub n b s
  | .opbeg b => Sys2Proof.Machine.execOpbeg b s
  | .oparg n a b => Sys2Proof.Machine.execOparg n a b s
  | .opend h n b => Sys2Proof.Machine.execOpend h n b s
  | .lnch h n => Sys2Proof.Machine.execLnch h n s
  | .chrd d => Sys2Proof.Machine.execChrd d s
  | .chbase d => Sys2Proof.Machine.execChbase d s
  | .chwait a => Sys2Proof.Machine.execChwait a s
  | .chslipHold a => Sys2Proof.Machine.execChslipHold a s
  | .chslipSkip a => Sys2Proof.Machine.execChslipSkip a s
  | .tsend h n a b => Sys2Proof.Machine.execTsend h n a b s
  | .trecv a b => Sys2Proof.Machine.execTrecv a b s
  | .barg => Sys2Proof.Machine.execBarg s
  | .fenceSc => Sys2Proof.Machine.execFenceSc s
  | .fwaitc => Sys2Proof.Machine.execFwaitc s
  | .yield => Sys2Proof.Machine.execYield s
  | .qend => Sys2Proof.Machine.execQend s
  | .dispre => Sys2Proof.Machine.execDispre s
  | .enpre => Sys2Proof.Machine.execEnpre s
  | .exit => Sys2Proof.Machine.execExit s
  | .rpt b => Sys2Proof.Machine.execRpt b s
  | .trap c => Sys2Proof.Machine.execTrap c s
  | .eret => Sys2Proof.Machine.execEret s
  | .brk => Sys2Proof.Machine.execBrk s
  | .sigck a => Sys2Proof.Machine.execSigck a s
  | .udf => Sys2Proof.Machine.execUdf s
  | .resultLand => Sys2Proof.Machine.execResultLand s
  | .farValueLand acc => Sys2Proof.Machine.execFarValueLand acc s
  | .farAccessEffect acc => Sys2Proof.Machine.execFarAccessEffect acc s
  | .quantumCommit tree => Sys2Proof.Machine.execQuantumCommit tree s
  | .pubExchange desk lo len => Sys2Proof.Machine.execPubExchange desk lo len s
  | .heartbeatTick wid => Sys2Proof.Machine.execHeartbeatTick wid s
  | .teamStart tree grid core => Sys2Proof.Machine.execTeamStart tree grid core s
  | .gridRetire tree grid => Sys2Proof.Machine.execGridRetire tree grid s
  | .quantumTimeLimit tree => Sys2Proof.Machine.execQuantumTimeLimit tree s
  | .preemptionTimeLimit tree => Sys2Proof.Machine.execPreemptionTimeLimit tree s
  | .dispreWindowLapse wid => Sys2Proof.Machine.execDispreWindowLapse wid s
  | .operatorWindowLapse wid => Sys2Proof.Machine.execOperatorWindowLapse wid s
  | .contextSave tree => Sys2Proof.Machine.execContextSave tree s
  | .autoResume tree => Sys2Proof.Machine.execAutoResume tree s
  | .treeFaultStop tree => Sys2Proof.Machine.execTreeFaultStop tree s
  | .matrixOpComplete core op => Sys2Proof.Machine.execMatrixOpComplete core op s
  | .ldswLoadStart core op => Sys2Proof.Machine.execLdswLoadStart core op s
  | .copy chan => Sys2Proof.Machine.execCopy chan s
  | .fill chan => Sys2Proof.Machine.execFill chan s
  | .level chan => Sys2Proof.Machine.execLevel chan s
  | .coll chan => Sys2Proof.Machine.execColl chan s
  | .sectorDelivery chan => Sys2Proof.Machine.execSectorDelivery chan s
  | .sharedQueueConsume chan desk descr => Sys2Proof.Machine.execSharedQueueConsume chan desk descr s
  | .tsendFlitSend send idx => Sys2Proof.Machine.execTsendFlitSend send idx s
  | .trecvCheck wid => Sys2Proof.Machine.execTrecvCheck wid s
  | .slip => Sys2Proof.Machine.execSlip s
  | .driftMeasurement value => Sys2Proof.Machine.execDriftMeasurement value s
  | .parentPortFailure => Sys2Proof.Machine.execParentPortFailure s
  | .flitArrival port flit check => Sys2Proof.Machine.execFlitArrival port flit check s
  | .flitEffect flit => Sys2Proof.Machine.execFlitEffect flit s
  | .abortToken att count => Sys2Proof.Machine.execAbortToken att count s
  | .epochReport dev epoch count => Sys2Proof.Machine.execEpochReport dev epoch count s
  | .restartDeadline => Sys2Proof.Machine.execRestartDeadline s
  | .restartToken att epoch count => Sys2Proof.Machine.execRestartToken att epoch count s
  | .ack dev chan seq => Sys2Proof.Machine.execAck dev chan seq s
  | .flowResendTimeout chan dev => Sys2Proof.Machine.execFlowResendTimeout chan dev s
  | .runWrite src chan seq dest group att exp payload => Sys2Proof.Machine.execRunWrite src chan seq dest group att exp payload s
  | .runSumF32 src chan seq dest group att exp payload => Sys2Proof.Machine.execRunSumF32 src chan seq dest group att exp payload s
  | .runSumI32 src chan seq dest group att exp payload => Sys2Proof.Machine.execRunSumI32 src chan seq dest group att exp payload s
  | .runMaxS32 src chan seq dest group att exp payload => Sys2Proof.Machine.execRunMaxS32 src chan seq dest group att exp payload s
  | .runAddI64 src chan seq dest operand => Sys2Proof.Machine.execRunAddI64 src chan seq dest operand s
  | .atomreply src chan seq old => Sys2Proof.Machine.execAtomreply src chan seq old s
  | .releaseNotice src exp => Sys2Proof.Machine.execReleaseNotice src exp s
  | .revokeNotice src exp => Sys2Proof.Machine.execRevokeNotice src exp s
  | .chorusTaskDispatch ctask => Sys2Proof.Machine.execChorusTaskDispatch ctask s
  | .chorusMemberTimeout ctask => Sys2Proof.Machine.execChorusMemberTimeout ctask s
  | .operatorAccept op => Sys2Proof.Machine.execOperatorAccept op s
  | .grade op => Sys2Proof.Machine.execGrade op s
  | .gradeDeadline op => Sys2Proof.Machine.execGradeDeadline op s
  | .replayStart tree => Sys2Proof.Machine.execReplayStart tree s
  | .slotFetch desk queue => Sys2Proof.Machine.execSlotFetch desk queue s
  | .slotRecheck desk queue => Sys2Proof.Machine.execSlotRecheck desk queue s
  | .queueSweep => Sys2Proof.Machine.execQueueSweep s
  | .slotNop desk queue index => Sys2Proof.Machine.execSlotNop desk queue index s
  | .slotLaunch desk queue index => Sys2Proof.Machine.execSlotLaunch desk queue index s
  | .slotLaunchInd desk queue index => Sys2Proof.Machine.execSlotLaunchInd desk queue index s
  | .slotEngine desk queue index => Sys2Proof.Machine.execSlotEngine desk queue index s
  | .slotSqreg desk queue index => Sys2Proof.Machine.execSlotSqreg desk queue index s
  | .slotRegrade desk queue index => Sys2Proof.Machine.execSlotRegrade desk queue index s
  | .slotResume desk queue index => Sys2Proof.Machine.execSlotResume desk queue index s
  | .dbgHalt desk queue index => Sys2Proof.Machine.execDbgHalt desk queue index s
  | .dbgContinue desk queue index => Sys2Proof.Machine.execDbgContinue desk queue index s
  | .dbgStep desk queue index => Sys2Proof.Machine.execDbgStep desk queue index s
  | .dbgDeliver desk queue index => Sys2Proof.Machine.execDbgDeliver desk queue index s
  | .dbgReadctx desk queue index => Sys2Proof.Machine.execDbgReadctx desk queue index s
  | .dbgWritectx desk queue index => Sys2Proof.Machine.execDbgWritectx desk queue index s
  | .dbgOpen desk queue index => Sys2Proof.Machine.execDbgOpen desk queue index s
  | .dbgClose desk queue index => Sys2Proof.Machine.execDbgClose desk queue index s
  | .dbgFaults desk queue index => Sys2Proof.Machine.execDbgFaults desk queue index s
  | .kick desk queue value => Sys2Proof.Machine.execKick desk queue value s
  | .gradecons desk value => Sys2Proof.Machine.execGradecons desk value s
  | .hostRdmaRead desk port va len => Sys2Proof.Machine.execHostRdmaRead desk port va len s
  | .hostRdmaWrite desk port va data => Sys2Proof.Machine.execHostRdmaWrite desk port va data s
  | .qfetch d sv t => Sys2Proof.Machine.execQfetch d sv t s
  | .xaedqBfx d sv t => Sys2Proof.Machine.execXaedqBfx d sv t s
  | .xaedqBfxS d sv t => Sys2Proof.Machine.execXaedqBfxS d sv t s
  | .sigwait d sv t => Sys2Proof.Machine.execSigwait d sv t s
  | .dispatch d sv t => Sys2Proof.Machine.execDispatch d sv t s
  | .quote tag body => Sys2Proof.Machine.execQuote tag body s
  | .nonce tag body => Sys2Proof.Machine.execNonce tag body s
  | .unlock tag body => Sys2Proof.Machine.execUnlock tag body s
  | .provision tag body => Sys2Proof.Machine.execProvision tag body s
  | .lifecycle tag body => Sys2Proof.Machine.execLifecycle tag body s
  | .desknew tag body => Sys2Proof.Machine.execDesknew tag body s
  | .deskset tag body => Sys2Proof.Machine.execDeskset tag body s
  | .deskdel tag body => Sys2Proof.Machine.execDeskdel tag body s
  | .domjoin tag body => Sys2Proof.Machine.execDomjoin tag body s
  | .domleave tag body => Sys2Proof.Machine.execDomleave tag body s
  | .shutdown tag body => Sys2Proof.Machine.execShutdown tag body s
  | .faultrd tag body => Sys2Proof.Machine.execFaultrd tag body s
  | .logrd tag body => Sys2Proof.Machine.execLogrd tag body s
  | .fwchunk tag body => Sys2Proof.Machine.execFwchunk tag body s
  | .fwcommit tag body => Sys2Proof.Machine.execFwcommit tag body s
  | .receipt tag body => Sys2Proof.Machine.execReceipt tag body s
  | .powerOn => Sys2Proof.Machine.execPowerOn s
  | .powerRemoval => Sys2Proof.Machine.execPowerRemoval s
  | .undervoltageTurnoff => Sys2Proof.Machine.execUndervoltageTurnoff s
  | .supplyDroop => Sys2Proof.Machine.execSupplyDroop s
  | .powerMeasurement milliwatts => Sys2Proof.Machine.execPowerMeasurement milliwatts s
  | .throttlePoint unit => Sys2Proof.Machine.execThrottlePoint unit s
  | .throttleRecovery unit => Sys2Proof.Machine.execThrottleRecovery unit s
  | .tripPoint unit => Sys2Proof.Machine.execTripPoint unit s
  | .logbookWrite => Sys2Proof.Machine.execLogbookWrite s
  | .infieldTestDue die place => Sys2Proof.Machine.execInfieldTestDue die place s
  | .infieldTestComplete die place failed block => Sys2Proof.Machine.execInfieldTestComplete die place failed block s
  | .forcedSaveSecondPeriod tree => Sys2Proof.Machine.execForcedSaveSecondPeriod tree s
  | .testOverdue die place => Sys2Proof.Machine.execTestOverdue die place s

end Sys2Proof.Machine
end

