-- ==== Sys2Proof/Machine/Issue.lean ====
section
/-! DEFINITION. What the machine does next: the event that is due, the act that is called for, the wave that issues (03_execution.md R41 to R44,
R51, R52; 07_memory.md R119; assumption log 7). -/

namespace Sys2Proof.Machine

/-! ## Fetching and issuing (R131, R142) -/

/-- Runs an instruction word: a row of the table, or ILLOP. -/
def runWord (w : Nat) (s : State) : Host.Outcome State Fault Refusal :=
  match decodeMain w with
  | some i => exec i s
  | none =>
    match decodeLate w with
    | some (.trap c) => execTrap c s
    | some (.rpt b) => execRpt b s
    | some (.sigck a) => execSigck a s
    | none => execUdf s

/-- The issuing wave issues the instruction at its fragment's PC; a fetch that fails raises its fault. -/
def issueNow (s : State) : Host.Outcome State Fault Refusal :=
  match s.wave.frag, s.tree? s.wave.tree with
  | some f, some t =>
    match s.fetch t s.wave.core f.pc with
    | .error e => .next ((if e.code = MEMERR then s.memError s.wave.core t.n e.addr.toNat else s).raise e)
    | .ok (w, _) => runWord w s
  | _, _ => .next (s.upd fun w => { w with status := .stopped })

/-- Makes a wave the issuing one. -/
def State.select (s : State) (wid : Nat) : State :=
  if s.wave.wid = wid && s.wave.status != .idle then s
  else match s.waves.find? fun w => w.wid == wid && w.status != .idle with
    | none => s
    | some w =>
      let rest := s.waves.filter fun v => !(v.wid == wid && v.status != .idle)
      { s with wave := w, waves := if s.wave.status == .idle then rest else rest ++ [s.wave] }

/-! ## A Registrar hart (R385) -/

/-- Whether the word of the hart can act now: it waits at a sigwait while no line it asks for is pending. -/
def State.hartReady (s : State) (w : Nat) : Bool :=
  let h := s.theHart
  !h.waiting || h.pending &&& h.get (bitsAt w 15 5) ≠ 0

/-- The executing hart runs an Xaedq word; any other encoding of custom-0 is illegal. -/
def runHart (w : Nat) (s : State) : Host.Outcome State Fault Refusal :=
  let d := fld w 7 5; let a := fld w 15 5; let b := fld w 20 5
  if bitsAt w 0 7 ≠ 0x0B || bitsAt w 25 7 ≠ 0 then .next (s.hartIllegal w)
  else match bitsAt w 12 3 with
  | 0 => execQfetch d a b s
  | 1 => execXaedqBfx d a b s
  | 2 => execXaedqBfxS d a b s
  | 3 => execSigwait d a b s
  | 4 => execDispatch d a b s
  | _ => .next (s.hartIllegal w)

/-! ## Events of the agenda -/

/-- PUB's exchange falls due (R112, R359): a store or an engine operation that the wave issued before it and that is not complete is late, and a page
that an operator holds by now is not exchanged. -/
def State.pubDue (s : State) (desk lo len wid issued : Nat) : Host.Outcome State Fault Refusal :=
  let (a, m) := s.pubSpan (deskView desk) (s.deskN desk) lo len
  if s.coveredBusy wid issued a m || s.coveredStore wid issued a m then .next (s.asWave wid fun s => s.raise { code := TLATE }) 
  else if s.rangeHeld (deskView desk) (s.deskN desk) desk lo len then .next (s.asWave wid fun s => s.raise { code := PERM })
  else .next (s.publish (match s.wave? wid with | some w => w.tree | none => 0) desk lo len)

/-- A unit of a matrix operation moves (R272), or a deferred load starts (R266). -/
def State.unitDue (s : State) (core op : Nat) : Host.Outcome State Fault Refusal :=
  match (s.core core).ops.find? (·.id == op) with
  | none => .fault .noOccasion
  | some o =>
    match s.tree? o.tree with
    | some t => if t.cmode then .next (s.moveUnit o) else execLdswLoadStart core op s
    | none => .fault .noOccasion

/-- OPEND's effect in chorus mode (R296). -/
def State.operDue (s : State) (core wid : Nat) (e : Effect) : State :=
  match e, s.wave? wid with
  | .opend o seq rec h, some w => s.acceptOper w.tree w.grid w.num core o seq rec h
  | _, _ => s

/-- Performs an event that is due; one that finds nothing left to act on is dropped. -/
def perform (e : Event) (s : State) : Host.Outcome State Fault Refusal :=
  match e with
  | .far a => execFarValueLand a s
  | .effect a => execFarAccessEffect a s
  | .tick w => execHeartbeatTick w s
  | .trecv w => execTrecvCheck w s
  | .pub d lo len w n => s.pubDue d lo len w n
  | .start c => s.startDue c
  | .matrix c o => execMatrixOpComplete c o s
  | .unit c o => s.unitDue c o
  | .sector c => execSectorDelivery c s
  | .issue c => .next (s.issueNext c)
  | .line c l a => .next (s.takeLine c l a)
  | .write c => .next (s.beginWrite c)
  | .entry c r => .next (s.entryReady c r)
  | .send x i => execTsendFlitSend x i s
  | .flit x => execFlitEffect x s
  | .slot p => .next (s.linkSlot p)
  | .landed c n => .next (s.landed c n)
  | .slip => execSlip s
  | .resend c d => execFlowResendTimeout c d s
  | .restartDeadline => execRestartDeadline s
  | .abort t n => .next (s.abortDue t n)
  | .opAccept c w x => .next (s.operDue c w x)
  | .drift => .next s.driftDue

/-- An outcome, or the state as it stands when there was no occasion. -/
def orStay (o : Host.Outcome State Fault Refusal) (s : State) : Host.Outcome State Fault Refusal :=
  match o with
  | .fault _ => .next s
  | o => o

/-! ## Acts called for -/

/-- Whether a desk holds cores and keeps them: not all of its trees there drain (R69). -/
def State.keepsCores (s : State) (d : Nat) : Bool := s.holdsCores d && s.trees.any fun t => t.desk == d && t.started && (!t.noStart || t.unsaved)

/-- The desk that drains for a tree that waits for cores (R369): of those of a lower priority with cores on the dies where the tree is short of them, also
once the draining ones are gone, one of the lowest priority. A tree whose save did not fit is not pre-empted (R378). -/
def State.drainFor (s : State) (u : Tree) : Option Nat :=
  let short := s.shortOn s.keepsCores u
  let may := fun x : Nat × Option Desk => s.keepsCores x.1 && decide (s.prioOf x.1 < s.prioOf u.desk) && (match x.2 with
    | some d => d.places.any fun p => short.contains (p / 96)
    | none => false) && s.trees.any fun t => t.desk == x.1 && !t.noStart && !t.unsaved
  (((s.desks.filter may).map (·.1)).sortBy fun a b => decide (s.prioOf a ≤ s.prioOf b)).head?

/-- Pre-emption by a desk of higher priority (R69, R369): desks of lower priority drain, for the waiting trees by priority; a tree goes on when none of a
higher priority waits for its dies and its cores are free. -/
def State.preempt (s : State) : Option State :=
  match ((s.trees.filter s.wantsCores).sortBy fun a b => decide (s.prioOf b.desk ≤ s.prioOf a.desk)).findSome? s.drainFor with
  | some d => some { s with trees := s.trees.map fun t => if t.desk == d && !t.unsaved then { t with noStart := true } else t }
  | none =>
    let back := s.trees.find? fun t => t.noStart && !t.save && s.shutdown.isNone && s.coresFree t && !s.outranked t.desk t.onDies
    back.map fun t => s.updTree t.id fun t => { t with noStart := false }

/-- The tree, grid and core of a team that can start: desks by priority (R369). -/
def State.nextTeam (s : State) : Option (Nat × Nat × Nat) :=
  (s.trees.sortBy fun a b => decide (s.prioOf b.desk ≤ s.prioOf a.desk)).findSome? fun t =>
    if !s.mayStart t then none
    else t.grids.findSome? fun g => if g.retired then none else
      ((List.range t.n).find? fun l => (s.readyTeam t g (t.desk * 512 + l)).isSome).map fun l => (t.id, g.ord, t.desk * 512 + l)

/-- A grid that can retire; the grid of a chorus task of several devices retires with the others (R349; assumption log 11). -/
def State.nextRetire (s : State) : Option (Nat × Nat) :=
  s.trees.findSome? fun t =>
    if s.tasks.any fun k => k.tree == t.id && decide (1 < k.nmem) then none
    else (t.grids.find? fun g => s.mayRetire t g).map fun g => (t.id, g.ord)

/-- A C-mode grid whose barrier completes because waves have ended (R231). -/
def State.bargOver (s : State) : Option Nat :=
  (s.trees.find? fun t => t.cmode && match t.grid? 0 with
    | some g => g.bargIn ≠ [] && decide (g.waves ≤ s.bargArrived t g + s.endedWaves t g 0)
    | none => false).map (·.id)

/-- A channel outside chorus mode that can go on. -/
def State.nextChan (s : State) : Option Nat :=
  (s.chans.find? fun (k, c) => match c.op with
    | some o => s.canAdvance k o
    | none => match c.queue with | r :: _ => r.start.isNone && s.headReady k | [] => false).map (·.1)

/-- A channel's step outside chorus mode. -/
def State.driveChan (s : State) (k : Nat) : State :=
  match (s.chan k).op with
  | some o => s.advance k o
  | none => s.startHead k

/-- The next packet of a shared queue, when one is there (R319). -/
def State.nextShared (s : State) : Option State :=
  s.chans.findSome? fun (k, c) => c.shared.findSome? fun x => match execSharedQueueConsume k x.1 x.2 s with
    | .next s => some s
    | _ => none

/-- A queue with a request to fetch (R371). -/
def State.nextFetch (s : State) : Option (Nat × Nat × List Byte) :=
  s.queues.findSome? fun (k, x) => if !x.live then none else (s.request (k / 4096) (k % 4096)).map fun b => (k / 4096, k % 4096, b)

/-- The slot to start next (R380): priority first, then the desks and the queues of a desk in turn. -/
def State.nextSlot (s : State) : Option Slot :=
  let rs := s.slots.filter s.slotReady
  let top := maxOf (rs.map fun x => s.prioOf x.desk)
  let rank := fun x : Slot =>
    let q := match s.desk? x.desk with | some d => d.lastQueue | none => 0
    (x.desk + 1023 - s.lastDesk.get 1023 top) % 1024 * 4096 + (x.queue + 4095 - q) % 4096
  ((rs.filter fun x => s.prioOf x.desk == top).sortBy fun a b => decide (rank a ≤ rank b)).head?

/-- Starts a slot by its type. -/
def beginSlot (x : Slot) (s : State) : Host.Outcome State Fault Refusal :=
  let d := x.desk; let q := x.queue; let i := x.index
  match x.type with
  | 0 => execSlotNop d q i s
  | 1 => execSlotLaunch d q i s
  | 2 => execSlotLaunchInd d q i s
  | 3 => execSlotEngine d q i s
  | 4 => execSlotSqreg d q i s
  | 5 => execSlotRegrade d q i s
  | 7 => execSlotResume d q i s
  | 6 =>
    match x.command with
    | 0 => execDbgHalt d q i s
    | 1 => execDbgContinue d q i s
    | 2 => execDbgStep d q i s
    | 3 => execDbgDeliver d q i s
    | 4 => execDbgReadctx d q i s
    | 5 => execDbgWritectx d q i s
    | 6 => execDbgOpen d q i s
    | 7 => execDbgClose d q i s
    | 8 => execDbgFaults d q i s
    | _ => .next (s.refuseSlot x)
  | _ => .next (s.refuseSlot x)

/-- A replay that can start (R362). -/
def State.nextReplay (s : State) : Option Nat :=
  s.proctor.replays.findSome? fun r => (s.proctor.kept.find? fun t => t.id == r.1 && s.mayReplay t r.2).map (·.id)

/-! ## Single step (R250) -/

/-- Why a slot did not advance, as a STEP report codes it: 1 a stall, 2 a wait at a switch point, 3 an implicit quantum wait. -/
def Wave.reason (w : Wave) : Nat :=
  match w.wait with
  | .none => 1
  | .commit _ => if w.parked then 2 else 3
  | _ => 2

/-- Issues the instruction of slot `b` of a wave in a step of a desk's session: a fault is held (R249). -/
def stepIssue (desk wid : Nat) (b : Bool) (s : State) : Host.Outcome State Fault Refusal :=
  let stop := match s.desk? desk with | some d => d.stopOnFault | none => false
  match issueNow (((s.select wid).upd fun w => { w with cur := b }).updDesk desk fun d => { d with stopOnFault := true }) with
  | .next s' => .next (s'.updDesk desk fun d => { d with stopOnFault := stop })
  | o => o

/-- The fault of a wave that the session holds. -/
def State.heldFault (s : State) (wid : Nat) : Option Held :=
  s.trees.findSome? fun t => t.held.find? fun h => h.wid == wid

/-- What stopped slot `b` of a wave between two states of a step, as the report codes it: 3 with the fault's code, 2 with the reason for which it did
not advance; nothing when it advanced. -/
def State.stepMark (s s' : State) (wid : Nat) (b : Bool) : Option (Nat × Nat) :=
  match s'.heldFault wid with
  | some h => some (3, h.flt.code)
  | none => match s.wave? wid, s'.wave? wid with
    | some w, some v => if v.getSlot b == w.getSlot b && (v.stalled || v.wait != .none) then some (2, v.reason) else none
    | _, _ => none

/-- Whether slot `b` of a wave stands at a delay slot. -/
def State.atDelay (s : State) (wid : Nat) (b : Bool) : Bool :=
  match (s.wave? wid).bind fun w => w.getSlot b with
  | some f => f.after.isSome
  | none => false

/-- One slot of a STEP: a slot that waits or stalls does not advance, nor one that the handler keeps from issuing (R240); a branch with its delay slot
is one instruction, and where the delay slot would wait neither advances; a fault ends the step, one that the session holds before the step too
(R237, R249). -/
def stepSlot (desk : Nat) (p : Stepping) (s : State) : Host.Outcome State Fault Refusal :=
  let set := fun (s : State) (todo : List Bool) (m : List (Bool × Nat × Nat)) =>
    s.updDesk desk fun d => { d with step := some { p with todo := todo, marks := p.marks ++ m } }
  match p.todo, s.wave? p.wid with
  | b :: rest, some w =>
    let stopped := fun (s' : State) (m : Nat × Nat) => if m.1 = 3 then set s' [] [(b, m.1, m.2)] else set s rest [(b, m.1, m.2)]
    if (w.getSlot b).isNone || w.status != .live || (w.hnd && b != w.cur) then .next (set s rest [])
    else match s.heldFault p.wid with
    | some h => .next (set s [] [(w.cur, 3, h.flt.code)])
    | none =>
    if w.wait != .none then .next (set s rest [(b, 2, w.reason)])
    else match stepIssue desk p.wid b s with
      | .next s1 => match s.stepMark s1 p.wid b with
        | some m => .next (stopped s1 m)
        | none =>
          if !s1.atDelay p.wid b then .next (set s1 rest [])
          else match stepIssue desk p.wid b s1 with
            | .next s2 => match s1.stepMark s2 p.wid b with
              | some m => .next (stopped s2 m)
              | none => .next (set s2 rest [])
            | o => o
      | o => o
  | _, _ => .next (s.endStep desk p)

/-- A desk whose session steps a wave; at the count of a slip no wave issues (R302). -/
def State.stepping (s : State) : Option (Nat × Stepping) :=
  if s.slipAt = some s.chc then none else
  s.desks.findSome? fun (k, d) => match d with | some d => d.step.map fun p => (k, p) | none => none

/-! ## The act called for first -/

/-- A candidate act: the first that is called for stands. -/
abbrev Wanted := Option (Host.Outcome State Fault Refusal)

/-- Waves of a tree with a forced save pending that must go on or stop (R70, R72, R73): while one of them holds the save up, the stopped ones run on to
their next switch points; otherwise those that stand at a switch point stop. -/
def State.saveMoves (s : State) : Option State :=
  s.trees.findSome? fun t =>
    if !t.save || t.cmode then none
    else
      let mine := fun w : Wave => w.tree == t.id && !(s.core w.core).testDue
      if s.saveHeldUp t.id then
        if s.allWaves.any fun w => mine w && w.status == .stopped then
          some (s.mapWaves fun w => if mine w && w.status == .stopped then { w with status := .live } else w)
        else none
      else if s.allWaves.any fun w => mine w && w.stopAtSwitch != w then some (s.mapWaves fun w => if mine w then w.stopAtSwitch else w)
      else none

/-- Acts on launch trees. -/
def State.treeAct (s : State) : Wanted :=
  match s.deadTeam with
  | some m => some (.next (s.reapTeam m))
  | none =>
  match s.held.find? fun x => !s.stillHeld x with
  | some x => some (.next (s.serve x))
  | none =>
  match s.trees.find? s.commitReady with
  | some t => some (execQuantumCommit t.id s)
  | none =>
  match s.bargOver with
  | some t => some (.next (((match s.tree? t with | some t => s.bargJudge t 0 0 | none => s)).wake (fun w => w.tree == t) 0))
  | none =>
  match s.trees.find? s.faultSettled with
  | some t => some (execTreeFaultStop t.id s)
  | none =>
  match s.saveMoves with
  | some s => some (.next s)
  | none =>
  match s.trees.find? s.maySave with
  | some t => some (execContextSave t.id s)
  | none =>
  match s.nextRetire with
  | some (t, g) => some (execGridRetire t g s)
  | none =>
  match s.allWaves.find? (fun w => w.ticket == some .drain && w.status == .live && (s.tree? w.tree).any fun t => s.drained t w.core) with
  | some w => some (.next (s.drainStep w))
  | none => none

/-- Acts that give cores to work. -/
def State.coreAct (s : State) : Wanted :=
  match (s.saved.sortBy fun a b => decide (s.prioOf b.tree.desk ≤ s.prioOf a.tree.desk)).find? (fun x => x.held && x.tree.saveWhy ≠ 2 && s.roomFor x) with
  | some x => some (execAutoResume x.tree.id s)
  | none =>
  match s.nextReplay with
  | some t => some (execReplayStart t s)
  | none =>
  match s.tasks.find? (fun k => decide (k.nmem ≤ 1) && s.mayDispatch k) with
  | some k => some (execChorusTaskDispatch k.id s)
  | none =>
  match s.nextTeam with
  | some (t, g, c) => some (execTeamStart t g c s)
  | none => s.preempt.map .next

/-- Acts of engines, queues and debug sessions. -/
def State.deviceAct (s : State) : Wanted :=
  match s.strike with
  | some s => some (.next s)
  | none =>
  match s.deferralDue with
  | some s => some (.next s)
  | none =>
  match s.nextChan with
  | some k => some (.next (s.driveChan k))
  | none =>
  match s.nextShared with
  | some s => some (.next s)
  | none =>
  match s.slots.find? s.engineOver with
  | some x => some (.next (s.endEngineSlot x))
  | none =>
  match s.slots.find? s.haltOver with
  | some x => some (.next (s.endHalt x))
  | none =>
  match s.nextFetch with
  | some (d, q, b) => some (.next (s.fetchSlot d q b))
  | none =>
  match s.nextSlot with
  | some x => some (beginSlot x s)
  | none =>
  match s.stepping with
  | some (d, p) => some (stepSlot d p s)
  | none => if s.shutReady then some (.next s.endShutdown) else none

/-- The act called for in a state, if any. -/
def State.act (s : State) : Wanted :=
  match s.treeAct with
  | some o => some o
  | none => match s.coreAct with
    | some o => some o
    | none => s.deviceAct

/-! ## Which wave issues (R41, R51, R52) -/

/-- Whether a wave issues at this count in C-mode: its cycle of the rotation (R51, R52); a grid that stops issues in the cycle of its stop and
in no later one (R242, R344), and one whose forced save has its epoch issues no more (R52, R71). -/
def State.cmodeMay (s : State) (w : Wave) : Bool :=
  w.status == .live && w.wait == .none && decide (w.issueAt ≤ s.chc) &&
    match s.tree? w.tree with
    | none => false
    | some t => t.cmode && (match t.stop with | some (c, _) => decide (s.chc ≤ c) | none => true) && decide (t.base ≤ s.chc) &&
      (s.chc + w.wpt - t.base % max 1 w.wpt - w.tw) % max 1 w.wpt = 0 &&
      !(t.save && w.dispre.isNone && w.op.isNone && (t.saveNow || decide (t.saveEpoch < w.epoch)))

/-- Order of waves on a core (R41). -/
def Wave.before (a b : Wave) : Bool :=
  decide (a.grid < b.grid) || (a.grid = b.grid && (decide (a.num < b.num) || (a.num = b.num && decide (a.tree ≤ b.tree))))

/-- The wave that a core issues from: the running one, else the first ready one (R41) once the core may choose (R48), and after YIELD another where
there is one. -/
def State.waveOf (s : State) (core : Nat) : Option Wave :=
  let here : List Wave := s.allWaves.filter fun w => w.core == core
  match here.find? s.cmodeMay with
  | some w => some w
  | none =>
    let c := s.core core
    let ready : List Wave := (here.filter s.lmodeMay).sortBy Wave.before
    let run := match c.running with | some i => ready.find? (fun (w : Wave) => w.wid == i) | none => none
    match run with
    | some w => some w
    | none =>
      let open_ : List Wave := ready.filter fun (w : Wave) => !s.choiceWaits core w.tree
      let fresh : List Wave := open_.filter fun (w : Wave) => !w.stalled
      match fresh.find? (fun (w : Wave) => some w.wid != c.yielded) with
      | some w => some w
      | none => match fresh with
        | w :: _ => some w
        | [] => open_.head?

/-- The next core, from the turn on, that has a wave to issue from; at the count of a slip none (R302). -/
def State.nextIssue (s : State) : Option (Nat × Wave) :=
  if s.slipAt = some s.chc then none else
  let cores := (((s.allWaves.filter fun w => w.status == .live).map (·.core)).eraseDups.filter fun c => decide (s.turn ≤ c)).sortBy fun a b => decide (a ≤ b)
  cores.findSome? fun c => (s.waveOf c).map fun w => (c, w)

/-- The chosen wave becomes the issuing one, and the turn passes on. -/
def State.take (s : State) (core : Nat) (w : Wave) : State :=
  let s := (s.select w.wid).updCore core fun c => { c with running := some w.wid, yielded := none }
  { s with turn := core + 1 }

/-- The next chorus count; a count that CHSLIP.HOLD makes last two cycles is one count all the same (R302). -/
def State.nextCount (s : State) : State := { s with chc := s.chc + 1, turn := 0 }

/-- With no event due: the act called for, the next instruction, and then `last`. -/
def State.goCalled (s : State) (last : Host.Outcome State Fault Refusal) : Host.Outcome State Fault Refusal :=
  match s.act with
  | some o => o
  | none => match s.nextIssue with
    | some (c, w) => issueNow (s.take c w)
    | none => last

/-- Whether an event waits for the waves whose cycle its count is: a token follows their issue (R242, R344). -/
def Event.last : Event → Bool
  | .abort _ _ => true
  | _ => false

/-- With no hart instruction to run: the event that is due first, or the act called for, the next instruction, the next count. -/
def State.goDue (s : State) : Host.Outcome State Fault Refusal :=
  match s.agenda with
  | d :: later =>
    let go := orStay (perform d.ev { s with agenda := later }) { s with agenda := later }
    if d.at_ ≤ s.chc then (if d.ev.last then s.goCalled go else go) else s.goCalled (.next s.nextCount)
  | [] => s.goCalled (.next s.nextCount)

/-- Runs a powered machine that has no input: the Registrar hart, the event that is due, the act called for, the next instruction, the next
count. -/
def State.run (s : State) : Host.Outcome State Fault Refusal :=
  match s.hartWord with
  | some w => if s.hartReady w then runHart w s else s.goDue
  | none => s.goDue

/-- An input, the power-on sequence, or the machine's own next act. A machine without power does nothing. -/
def State.advanceMachine (s : State) : Host.Outcome State Fault Refusal :=
  match s.inbox with
  | i :: rest => exec i { s with inbox := rest }
  | [] => match if s.mailWaits then [] else s.mail with
  | f :: rest => ({ s with mail := rest } : State).serveFrame f
  | [] =>
    if s.power then s.run
    else if s.supply && !s.recovery then execPowerOn s
    else .next s

end Sys2Proof.Machine
end

