-- ==== Sys2Proof/Machine/Step.lean ====
section
/-! DEFINITION. The step of the machine, and the placing of a word where the next step fetches it. -/

namespace Sys2Proof.Machine

/-- One step: an input from outside, a device event that is due, an act that is called for, the next instruction, or the next chorus count. -/
def step (s : State) : Host.Outcome State Fault Refusal := s.advanceMachine

/-- The physical and virtual address at which `withFetchWord` places a word: the second 32-MiB page of desk 0. -/
def fetchBase : Nat := 0x2000000

/-- The grid of one team that `withFetchWord` runs. -/
def fetchGrid : Grid := { next := [(0, 1)] }

/-- The L-mode launch tree of desk 0 that `withFetchWord` runs: one core, one team of one wave. -/
def fetchTree : Tree :=
  { id := 1, desk := 0, code := { desk := 0, addr := fetchBase, len := 4096, kernels := [{ entry := 0 }] }, grids := [fetchGrid], started := true }

/-- The team of that tree. -/
def fetchTeam : Team := { tree := 1, grid := 0, core := 0, t := 0, j := 0, w0 := 0, w := 1, sbase := 0, s := 0, abase := 0, a := 0 }

/-- A wave placed at a word: it keeps its registers, and nothing holds it up. -/
def Wave.placed (w : Wave) : Wave :=
  { w with
    status := .live, tree := 1, grid := 0, core := 0, slot := 0, team := 0, tw := 0, wpt := 1
    slotA := some { pc := BitVec.ofNat 64 fetchBase, mask := 0xFFFFFFFF }, slotB := none, cur := false
    launched := 0xFFFFFFFF, live := 0xFFFFFFFF, depth := 0, joins := [], far := [], lcnt := 0, wait := .none, ticket := none
    stalled := false, parked := false, qnt := 0, retired := 0, errs := [], engErrs := [], sigmis := none, faulted := none, qdelay := none }

/-- The page-table entries and the word in device memory: level 1 at 0, level 2 at 16 KiB, one leaf for the page of the word. -/
def placeWord (m : List Host.Cell) (w : Nat) : List Host.Cell :=
  let m := Store.puts emptyByte m 0 (leBytes 8 0x4001)
  let m := Store.puts emptyByte m 0x4008 (leBytes 8 (fetchBase + 0x3F))
  Store.puts emptyByte m fetchBase (leBytes 4 w)

/-- Whether a word is one that CIS refuses and a Registrar hart reads as Xaedq. -/
def hartReads (nbits w : Nat) : Bool :=
  decide (16 < nbits) && decide (w % 128 = 0x0B) && (decodeMain w).isNone && (decodeLate w).isNone

/-- Places an instruction where the next step fetches it: in front of the executing Registrar hart for an Xaedq word, else at the PC of the
one wave of an L-mode launch tree on core 0 of desk 0, which stands for the load of a program (assumption log 26). -/
def State.withFetchWord (s : State) (nbits w : Nat) : State :=
  let s := { s with power := true, supply := true, recovery := false, inbox := [], mail := [], agenda := [], slip := none, slipAt := none, held := [] }
  if hartReads nbits w then { s.setHart { s.theHart with waiting := false } with hartWord := some w }
  else
    { s with
      hartWord := none, shutdown := none, wave := s.wave.placed, waves := [], teams := [fetchTeam], trees := [fetchTree], saved := [],
      cores := s.cores.put {} 0 { tree := 1 }, mem := placeWord s.mem w, badLines := [], accesses := [], chans := [], tasks := []
      desks := s.desks.put none 0 (some { n := 1 }), queues := [], slots := [], turn := 0
      proctor := { s.proctor with replays := [] } }

end Sys2Proof.Machine
end

