-- ==== Sys2Proof/Safety.lean ====
section
/-! DEFINITION. What counts as a safe step. -/

namespace Sys2Proof

/-- A step is safe when it neither stops with a device-level fault nor refuses. -/
def Safe (s : Machine.State) : Prop := ∃ t, Machine.step s = .next t

end Sys2Proof
end

