-- ==== Sys2Proof/Certificates/Slice0/Obligations.lean ====
section
/-! DEFINITION. The statements for the provers: what the numbered rules of spec/ say the machine does, each as one proposition
Obligations.<Name>. A statement about a free value (Config, assumption log 6) holds for every value of it. -/

namespace Sys2Proof.Stmt

open Sys2Proof.Machine

/-! ## When an instruction has its own effect -/

/-- Fragment `f` of tree `t` issues instruction `i`, and none of the checks of every instruction stops it (R142, R147 to R149, R181, R237, R389): its
fields are legal, it may stand where it stands, no join check and no engine error waits, and none of its registers is pending. -/
def Ready (i : Instr) (s : State) (f : Frag) (t : Tree) : Prop :=
  s.wave.frag = some f ∧ s.tree? s.wave.tree = some t ∧
  (s.wave.sigmis = none ∨ ∃ j m, s.wave.sigmis = some (some (!s.wave.cur), j, m)) ∧
  (s.wave.errs = [] ∨ s.wave.ticket ≠ none) ∧
  i.wellFormed = true ∧
  (s.wave.lcnt ≠ 0 → f.pc = s.wave.loopEnd → i.site ≠ .branch ∧ f.after = none) ∧
  (i.site ≠ .plain → f.after = none) ∧
  s.wave.pendingOn i.touch = []

/-- Instruction `i` completes from `s`: it leaves `s'` and retires, handing on control `c`. -/
def Completes (i : Instr) (s s' : State) (c : Ctl) : Prop := exec i s = .next (s'.retire i.enc c)

/-- Instruction `i` raises fault `x` instead of having its effect. -/
def Raises (i : Instr) (s : State) (x : Flt) : Prop := exec i s = .next (s.raise x)

/-- The value of a lane of vector register `a`, for the lanes of the effective mask under `m`. -/
def overE (s : State) (f : Frag) (m : BitVec 3) (op : Nat → Word) : List (Nat × Word) :=
  (lanesOf (f.mask &&& s.wave.rm m.toNat)).map fun l => (l, op l)

/-! ## Tables of results: constructor, latency, value -/

/-- Scalar instructions of two sources (Table 11-2, R163 to R166). Products and quotients are those of the integers. -/
def scalarTwo : List ((BitVec 5 → BitVec 5 → BitVec 5 → Instr) × Nat × (Dword → Dword → Dword)) :=
  [(.add, 1, fun x y => x + y), (.sub, 1, fun x y => x - y), (.mul, 3, fun x y => x * y),
   (.mulh, 3, fun x y => BitVec.ofInt 64 (x.toInt * y.toInt / 2 ^ 64)),
   (.mulhu, 3, fun x y => BitVec.ofNat 64 (x.toNat * y.toNat / 2 ^ 64)),
   (.div, 12, fun x y => if y = 0 then BitVec.ofInt 64 (-1) else BitVec.ofInt 64 (x.toInt.tdiv y.toInt)),
   (.divu, 12, fun x y => if y = 0 then BitVec.ofInt 64 (-1) else BitVec.ofNat 64 (x.toNat / y.toNat)),
   (.rem, 12, fun x y => if y = 0 then x else BitVec.ofInt 64 (x.toInt.tmod y.toInt)),
   (.remu, 12, fun x y => if y = 0 then x else BitVec.ofNat 64 (x.toNat % y.toNat)),
   (.and, 1, fun x y => x &&& y), (.or, 1, fun x y => x ||| y), (.xor, 1, fun x y => x ^^^ y), (.andn, 1, fun x y => x &&& ~~~ y),
   (.shl, 1, fun x y => x <<< (y.toNat % 64)), (.shr, 1, fun x y => x >>> (y.toNat % 64)),
   (.sra, 1, fun x y => BitVec.ofInt 64 (x.toInt / 2 ^ (y.toNat % 64))),
   (.slt, 1, fun x y => if x.toInt < y.toInt then 1 else 0), (.sltu, 1, fun x y => if x.toNat < y.toNat then 1 else 0),
   (.min, 1, fun x y => if y.toInt < x.toInt then y else x), (.max, 1, fun x y => if x.toInt < y.toInt then y else x),
   (.minu, 1, fun x y => if y.toNat < x.toNat then y else x), (.maxu, 1, fun x y => if x.toNat < y.toNat then y else x)]

/-- Vector instructions of two integer sources (Table 12-1, R188, R189), with the bitwise copy of a sign (R195) and MAXL and MINL (R194). -/
def vectorTwo : List ((BitVec 6 → BitVec 6 → BitVec 6 → BitVec 3 → Instr) × Nat × (Word → Word → Word)) :=
  [(.vaddI32, 2, fun x y => x + y), (.vsubI32, 2, fun x y => x - y), (.vmulI32, 4, fun x y => x * y),
   (.vaddS32, 2, fun x y => BitVec.ofInt 32 (max (-2147483648) (min 2147483647 (x.toInt + y.toInt)))),
   (.vaddU32, 2, fun x y => BitVec.ofNat 32 (min 4294967295 (x.toNat + y.toNat))),
   (.vsubS32, 2, fun x y => BitVec.ofInt 32 (max (-2147483648) (min 2147483647 (x.toInt - y.toInt)))),
   (.vsubU32, 2, fun x y => BitVec.ofNat 32 (x.toNat - y.toNat)),
   (.vmulhS32, 4, fun x y => BitVec.ofInt 32 (x.toInt * y.toInt / 2 ^ 32)),
   (.vmulhU32, 4, fun x y => BitVec.ofNat 32 (x.toNat * y.toNat / 2 ^ 32)),
   (.vand, 2, fun x y => x &&& y), (.vor, 2, fun x y => x ||| y), (.vxor, 2, fun x y => x ^^^ y), (.vandn, 2, fun x y => x &&& ~~~ y),
   (.vshlI32, 2, fun x y => x <<< (y.toNat % 32)), (.vshrI32, 2, fun x y => x >>> (y.toNat % 32)),
   (.vsraI32, 2, fun x y => BitVec.ofInt 32 (x.toInt / 2 ^ (y.toNat % 32))),
   (.vminS32, 2, fun x y => if y.toInt < x.toInt then y else x), (.vmaxS32, 2, fun x y => if x.toInt < y.toInt then y else x),
   (.vminU32, 2, fun x y => if y.toNat < x.toNat then y else x), (.vmaxU32, 2, fun x y => if x.toNat < y.toNat then y else x),
   (.vfcopysignF32, 2, fun x y => (x &&& 0x7FFFFFFF) ||| (y &&& 0x80000000)),
   (.vfcopysignF16X2, 2, fun x y => (x &&& 0x7FFF7FFF) ||| (y &&& 0x80008000)),
   (.vfmaxlF16, 4, maxL false), (.vfminlF16, 4, maxL true)]

/-- Vector instructions of one source without flags (Table 12-1, R188, R195, R198). -/
def vectorOne : List ((BitVec 6 → BitVec 6 → BitVec 3 → Instr) × Nat × (Word → Word)) :=
  [(.vabsS32, 2, fun x => BitVec.ofNat 32 x.toInt.natAbs), (.vnegI32, 2, fun x => -x),
   (.vpopc, 2, fun x => BitVec.ofNat 32 (onesCount x)), (.vclz, 2, fun x => BitVec.ofNat 32 (leadingZeros x)),
   (.vfabsF32, 2, fun x => x &&& 0x7FFFFFFF), (.vfnegF32, 2, fun x => x ^^^ 0x80000000),
   (.vfabsF16X2, 2, fun x => x &&& 0x7FFF7FFF), (.vfnegF16X2, 2, fun x => x ^^^ 0x80008000),
   (.vfclassF32, 2, fun x => BitVec.ofNat 32 (classBit fp32 x.toNat)),
   (.vfclassF16X2, 2, fun x => BitVec.ofNat 32 (classBit fp16 (x.toNat / 65536) * 65536 + classBit fp16 (x.toNat % 65536)))]

/-- The 16-bit forms on integers (R133): those of the 32-bit instruction with va = vd. -/
def shortTwo : List ((BitVec 6 → BitVec 5 → Instr) × Nat × (Word → Word → Word)) :=
  [(.vaddI32x16, 2, fun x y => x + y), (.vsubI32x16, 2, fun x y => x - y), (.vmulI32x16, 4, fun x y => x * y),
   (.vandx16, 2, fun x y => x &&& y), (.vorx16, 2, fun x y => x ||| y), (.vxorx16, 2, fun x y => x ^^^ y),
   (.vshlI32x16, 2, fun x y => x <<< (y.toNat % 32)), (.vsraI32x16, 2, fun x y => BitVec.ofInt 32 (x.toInt / 2 ^ (y.toNat % 32))),
   (.vminS32x16, 2, fun x y => if y.toInt < x.toInt then y else x), (.vmaxS32x16, 2, fun x y => if x.toInt < y.toInt then y else x)]

/-- The 16-bit forms on FP32 (R133): the operation gives a code and flags. -/
def shortFloat : List ((BitVec 6 → BitVec 5 → Instr) × (Nat → Nat → Nat × Word)) :=
  [(.vfaddF32x16, fp32.fadd), (.vfsubF32x16, fp32.fsub), (.vfmulF32x16, fp32.fmul), (.vfminF32x16, fp32.fminmax false),
   (.vfmaxF32x16, fp32.fminmax true)]

/-- FP32 instructions of two sources with flags (R193, R194), and their latencies. -/
def floatTwo : List ((BitVec 6 → BitVec 6 → BitVec 6 → BitVec 3 → Instr) × Nat × (Nat → Nat → Nat × Word)) :=
  [(.vfaddF32, 4, fp32.fadd), (.vfsubF32, 4, fp32.fsub), (.vfmulF32, 4, fp32.fmul), (.vfminF32, 4, fp32.fminmax false),
   (.vfmaxF32, 4, fp32.fminmax true), (.vfdivF32, 24, fp32.fdiv)]

/-- Their F16X2 forms, which act on each half (R186, R193, R194). -/
def floatHalves : List ((BitVec 6 → BitVec 6 → BitVec 6 → BitVec 3 → Instr) × (Nat → Nat → Nat × Word)) :=
  [(.vfaddF16X2, fp16.fadd), (.vfsubF16X2, fp16.fsub), (.vfmulF16X2, fp16.fmul), (.vfminF16X2, fp16.fminmax false),
   (.vfmaxF16X2, fp16.fminmax true)]

/-- Fused multiply-adds (R193): whether the product, and whether the addend vd, is negated. -/
def floatFused : List ((BitVec 6 → BitVec 6 → BitVec 6 → BitVec 3 → Instr) × (BitVec 6 → BitVec 6 → BitVec 6 → BitVec 3 → Instr) × Bool × Bool) :=
  [(.vfmaF32, .vfmaF16X2, false, false), (.vfmsF32, .vfmsF16X2, false, true), (.vfnmaF32, .vfnmaF16X2, true, false)]

/-- FP32 instructions of one source with flags (R197, R201). -/
def floatOne : List ((BitVec 6 → BitVec 6 → BitVec 3 → Instr) × Nat × (Word → Nat × Word)) :=
  [(.vfrcpF32, 6, fun x => rcpEst x.toNat), (.vfrsqF32, 6, fun x => rsqEst x.toNat), (.vfsqrtF32, 24, fun x => fp32.fsqrt x.toNat),
   (.vunpklF16, 4, fun x => fp32.ofVal .rne (fp16.decode (x.toNat % 65536))), (.vunpkhF16, 4, fun x => fp32.ofVal .rne (fp16.decode (x.toNat / 65536))),
   (.vunpklBf16, 4, fun x => fp32.ofVal .rne (bf16.decode (x.toNat % 65536))), (.vunpkhBf16, 4, fun x => fp32.ofVal .rne (bf16.decode (x.toNat / 65536)))]

/-- A flag-raising vector result: the flags of the lanes of E join %fflags, and the lanes of E receive the codes (R84, R186). -/
def flagged (s : State) (f : Frag) (m : BitVec 3) (lat : Nat) (d : BitVec 6) (op : Nat → Nat × Word) : State :=
  let ls := lanesOf (f.mask &&& s.wave.rm m.toNat)
  (s.flag (ls.foldl (fun g l => g ||| (op l).2) 0)).result lat (.vec d.toNat (ls.map fun l => (l, BitVec.ofNat 32 (op l).1)))

/-- The same for an F16X2 result: each half by its own operation. -/
def flaggedHalves (s : State) (f : Frag) (m : BitVec 3) (lat : Nat) (d : BitVec 6) (op : Nat → Bool → Nat × Word) : State :=
  let ls := lanesOf (f.mask &&& s.wave.rm m.toNat)
  (s.flag (ls.foldl (fun g l => g ||| ((op l false).2 ||| (op l true).2)) 0)).result lat
    (.vec d.toNat (ls.map fun l => (l, BitVec.ofNat 32 ((op l true).1 * 65536 + (op l false).1))))

/-- Half of a lane. -/
def half (x : Word) (hi : Bool) : Nat := if hi then x.toNat / 65536 else x.toNat % 65536

/-- Atomics on lanes and on a scalar, by operation code (Table 13-4). -/
def atomics : List ((BitVec 2 → BitVec 6 → BitVec 6 → BitVec 4 → BitVec 3 → BitVec 1 → Instr) ×
    (BitVec 2 → BitVec 5 → BitVec 5 → BitVec 4 → BitVec 3 → BitVec 1 → Instr) × Nat) :=
  [(.atomvAddI32, .atomsAddI32, 0), (.atomvAddF32, .atomsAddF32, 1), (.atomvMinS32, .atomsMinS32, 2), (.atomvMaxS32, .atomsMaxS32, 3),
   (.atomvMinU32, .atomsMinU32, 4), (.atomvMaxU32, .atomsMaxU32, 5), (.atomvAnd, .atomsAnd, 6), (.atomvOr, .atomsOr, 7),
   (.atomvXor, .atomsXor, 8), (.atomvXchg, .atomsXchg, 9), (.atomvCas, .atomsCas, 10), (.atomvMaxlF16, .atomsMaxlF16, 11),
   (.atomvMinlF16, .atomsMinlF16, 12), (.atomvAddI64, .atomsAddI64, 13)]

/-! ## Accesses -/

/-- The checks of an access pass, and it has nothing to wait for (R47, R107, R118, R212, R215, R265). -/
def MayAccess (s : State) (t : Tree) (need : Need) (size : Nat) (ls : List (Nat × Nat)) : Prop :=
  s.checkLanes t s.wave.core need size ls = none ∧
  (t.cmode = false → s.wave.qnt ≤ t.committed ∧ s.nearBusy s.wave.core (s.ownOffsets s.wave.core t.n size ls) = false ∧
    s.engineWaits t s.wave.core size need ls = false) ∧
  (t.cmode = true → s.acquireBusy = false)

/-- What a load does (R213, R214, R217, R219): lanes `ls` with their addresses, the form of its result, and what it also changes. A near load outside
chorus mode lands its value with latency 6; a far one raises %fc and leaves its registers pending. -/
def LoadsAs (i : Instr) (s : State) (f : Frag) (t : Tree) (ls : List (Nat × Nat)) (form : LoadAs) (post : State → State) : Prop :=
  Ready i s f t → MayAccess s t .read form.size ls → s.laneBad s.wave.core t.n ls = none →
    (∃ s', Completes i s s' .seq) ∧ (ls = [] → Completes i s (post s) .seq) ∧
    (t.cmode = false → ls ≠ [] → s.allNear s.wave.core t.n ls = true →
      ∀ r, form.form (ls.map fun x => (x.1, readNat (s.nowByte s.wave.core t.n) x.2 form.size)) = some r →
        Completes i s (post (s.result 6 r)) .seq) ∧
    (t.cmode = false → ls ≠ [] → s.allNear s.wave.core t.n ls = false →
      ∃ (s' : State) (xs : List Far) (x : Far), Completes i s (post s') .seq ∧ s'.wave.fc = s.wave.fc + 1 ∧ s'.wave.far = xs ++ [x] ∧ xs.length = s.wave.far.length ∧
        x.pend = form.pend ∧ x.pc = f.pc)

/-- What a store does (R213, R214, R216, R217, R219): the bytes of each lane at its address; near outside chorus mode at once where no uncorrectable error stands,
far at the commit. -/
def StoresAs (i : Instr) (s : State) (f : Frag) (t : Tree) (size : Nat) (ls : List (Nat × Nat)) (data : Nat → Nat) (rel : Bool) (post : State → State) :
    Prop :=
  Ready i s f t → MayAccess s t .write size ls →
    let bytes := ls.flatMap fun x => (List.range size).map fun j => (x.2 + j, BitVec.ofNat 8 (data x.1 / 256 ^ j))
    (ls = [] → Completes i s (post s) .seq) ∧
    let clean := s.laneBad s.wave.core t.n ls true = none
    (t.cmode = false → ls ≠ [] → s.allNear s.wave.core t.n ls = true → clean →
      Completes i s (post (s.nearStore s.wave.core t.n bytes)) .seq ∧
        (s.nearStore s.wave.core t.n bytes).slices = (s.storeBytes s.wave.core t.n bytes).slices) ∧
    (t.cmode = false → ls ≠ [] → s.allNear s.wave.core t.n ls = false → Completes i s (post (s.addCommit t (.store bytes))) .seq) ∧
    (t.cmode = true → (s.allNear s.wave.core t.n ls = true → clean) → rel = false ∨ s.lastEffect = none → ∃ s', Completes i s s' .seq)

/-- The lanes of E with an address each. -/
def lanesAt (s : State) (f : Frag) (m : BitVec 3) (va : Nat → Dword) : List (Nat × Nat) :=
  (lanesOf (f.mask &&& s.wave.rm m.toNat)).map fun l => (l, (va l).toNat)

/-- The post-increment of an M-format access (R211): address register `n` moves by `d` bytes within its modulo region, with latency 1. -/
def incremented (n : BitVec 4) (k : BitVec 3) (inc : BitVec 4) (footprint : Nat) (s0 s : State) : State :=
  match wrap (s0.wave.ra n.toNat) (s0.wave.rk k.toNat) (BitVec.ofInt 64 (inc.toInt * footprint)) with
  | some x => if inc = 0 then s else s.result 1 (.adr n.toNat x)
  | none => s

/-- New values of the 32-bit atomic operations, by code (Table 13-4): old value, operand, compare value. -/
def atomicWords : List (Nat × (Word → Word → Word → Word)) :=
  [(0, fun w x _ => w + x), (1, fun w x _ => BitVec.ofNat 32 (fp32.fadd w.toNat x.toNat).1),
   (2, fun w x _ => if x.toInt < w.toInt then x else w), (3, fun w x _ => if w.toInt < x.toInt then x else w),
   (4, fun w x _ => if x.toNat < w.toNat then x else w), (5, fun w x _ => if w.toNat < x.toNat then x else w),
   (6, fun w x _ => w &&& x), (7, fun w x _ => w ||| x), (8, fun w x _ => w ^^^ x), (9, fun _ x _ => x),
   (10, fun w x c => if w = c then x else w), (11, fun w x _ => maxL false w x), (12, fun w x _ => maxL true w x)]

/-- What an atomic does (R213, R214, R222 to R225): lanes with address, operand and compare value; %fc rises; near outside chorus mode the lanes act in
order at once and the old values land when the read-modify-write windows of their words end (R125, Table 7-6; which windows they take is the model's
reading, assumption log 65); far, a commit record carries it; near in chorus mode the old values land 8 counts after the issue. -/
def ActsAtomically (i : Instr) (s : State) (f : Frag) (t : Tree) (aop sc : Nat) (ls : List (Nat × Nat × Dword × Dword)) (form : LoadAs) (rel : Bool) : Prop :=
  let vas := ls.map fun x => (x.1, x.2.1)
  Ready i s f t → MayAccess s t .write (atomicSize aop) vas → s.laneBad s.wave.core t.n vas true = none →
    (ls = [] → Completes i s s .seq) ∧
    (t.cmode = false → ls ≠ [] → s.allNear s.wave.core t.n vas = true →
      ∃ s' : State, Completes i s s' .seq ∧ s'.slices = (s.atomicLanes s.wave.core t.n aop ls).1.slices ∧ s'.mem = s.mem ∧ s'.wave.fc = s.wave.fc + 1 ∧
        (s.wave.status ≠ .idle → ∃ x ∈ s'.wave.far, x.id = s.nextAcc ∧ x.pend = form.pend ∧
          x.due = some (s.takeWindows (s.keysOf s.wave.core t.n (vas.map (·.2)))).1 ∧ x.res = (form.form (s.atomicLanes s.wave.core t.n aop ls).2).toList)) ∧
    (t.cmode = false → ls ≠ [] → s.allNear s.wave.core t.n vas = false →
      ∃ s' : State, Completes i s (s'.addCommit t (.atomic aop ls form s.nextAcc) (16 * sc)) .seq ∧ s'.slices = s.slices ∧ s'.mem = s.mem ∧ s'.trees = s.trees ∧
        s'.wave.fc = s.wave.fc + 1) ∧
    (t.cmode = true → ls ≠ [] → s.allNear s.wave.core t.n vas = true → rel = false ∨ s.lastEffect = none →
      ∃ s' : State, Completes i s s' .seq ∧ s'.wave.fc = s.wave.fc + 1 ∧
        (s.wave.status ≠ .idle → ∃ x ∈ s'.wave.far, x.id = s.nextAcc ∧ x.pend = form.pend ∧ x.due = some (s.chc + 8))) ∧
    (t.cmode = true → rel = false ∨ s.lastEffect = none → ∃ s', Completes i s s' .seq)

/-- The word that a barrier or monitor instruction names at address register `n` lies at slice key `key`, and the access may run (R124, R228). -/
def OnSlice (s : State) (t : Tree) (n : BitVec 4) (size : Nat) (need : Need) (key : Nat) : Prop :=
  s.slicePlace t (s.wave.ra n.toNat).toNat size = .ok key ∧ MayAccess s t need size [(noLane, (s.wave.ra n.toNat).toNat)]

/-- The instruction meets an uncorrectable error at the word it names: it raises MEMERR at the word's address, and the device records the error
(R216, R399). -/
def MeetsError (i : Instr) (s : State) (t : Tree) (n : BitVec 4) : Prop :=
  exec i s = .next ((s.memError s.wave.core t.n (s.wave.ra n.toNat).toNat).raise { code := MEMERR, addr := s.wave.ra n.toNat })

/-- Whether a wave issues the instruction: every row of CIS; the other rows are events of the device and the instructions of a Registrar hart. -/
def cis : Instr → Bool
  | .resultLand | .farValueLand _ | .farAccessEffect _ | .quantumCommit _ | .pubExchange _ _ _ | .heartbeatTick _ | .teamStart _ _ _
  | .gridRetire _ _ | .quantumTimeLimit _ | .preemptionTimeLimit _ | .dispreWindowLapse _ | .operatorWindowLapse _ | .contextSave _ | .autoResume _
  | .treeFaultStop _ | .matrixOpComplete _ _ | .ldswLoadStart _ _ | .copy _ | .fill _ | .level _ | .coll _ | .sectorDelivery _
  | .sharedQueueConsume _ _ _ | .tsendFlitSend _ _ | .trecvCheck _ | .slip | .driftMeasurement _ | .parentPortFailure | .flitArrival _ _ _
  | .flitEffect _ | .abortToken _ _ | .epochReport _ _ _ | .restartDeadline | .restartToken _ _ _ | .ack _ _ _ | .flowResendTimeout _ _
  | .runWrite _ _ _ _ _ _ _ _ | .runSumF32 _ _ _ _ _ _ _ _ | .runSumI32 _ _ _ _ _ _ _ _ | .runMaxS32 _ _ _ _ _ _ _ _ | .runAddI64 _ _ _ _ _
  | .atomreply _ _ _ _ | .releaseNotice _ _ | .revokeNotice _ _ | .chorusTaskDispatch _ | .chorusMemberTimeout _ | .operatorAccept _ | .grade _
  | .gradeDeadline _ | .replayStart _ | .slotFetch _ _ | .slotRecheck _ _ | .queueSweep | .slotNop _ _ _ | .slotLaunch _ _ _ | .slotLaunchInd _ _ _
  | .slotEngine _ _ _ | .slotSqreg _ _ _ | .slotRegrade _ _ _ | .slotResume _ _ _ | .dbgHalt _ _ _ | .dbgContinue _ _ _ | .dbgStep _ _ _
  | .dbgDeliver _ _ _ | .dbgReadctx _ _ _ | .dbgWritectx _ _ _ | .dbgOpen _ _ _ | .dbgClose _ _ _ | .dbgFaults _ _ _ | .kick _ _ _ | .gradecons _ _
  | .hostRdmaRead _ _ _ _ | .hostRdmaWrite _ _ _ _ | .qfetch _ _ _ | .xaedqBfx _ _ _ | .xaedqBfxS _ _ _ | .sigwait _ _ _ | .dispatch _ _ _
  | .quote _ _ | .nonce _ _ | .unlock _ _ | .provision _ _ | .lifecycle _ _ | .desknew _ _ | .deskset _ _ | .deskdel _ _ | .domjoin _ _
  | .domleave _ _ | .shutdown _ _ | .faultrd _ _ | .logrd _ _ | .fwchunk _ _ | .fwcommit _ _ | .receipt _ _ | .powerOn | .powerRemoval
  | .undervoltageTurnoff | .supplyDroop | .powerMeasurement _ | .throttlePoint _ | .throttleRecovery _ | .tripPoint _ | .logbookWrite
  | .infieldTestDue _ _ | .infieldTestComplete _ _ _ _ | .forcedSaveSecondPeriod _ | .testOverdue _ _ => false
  | _ => true

/-! ## Matrix, handles, records -/

/-- The issuing wave owns the tile that starts at bank `b` of its team's pool (R256, R271). -/
def OwnsTile (s : State) (m : Team) (b : Nat) : Prop := s.team? s.wave = some m ∧ m.owns s.wave.tw b 4 = true

/-- No uncorrectable error stands in the accumulator words of the rows `rows` of the tile at bank `b` of the team's pool (R399; that the matrix
instruction which reads them raises it is the model's choice, assumption log 78). -/
def CleanTile (s : State) (m : Team) (b : Nat) (rows : Mask) : Prop :=
  ∀ k ∈ s.badBanks, k / 131072 = s.wave.core → (m.abase + b) * 512 ≤ k % 131072 → k % 131072 < (m.abase + b) * 512 + 2048 →
    rows.getLsbD ((k % 131072 - (m.abase + b) * 512) / 64) = false

/-- A matrix instruction of a kind that reads or writes `len` bytes at the slice offsets `offs` has nothing to wait for (R47, R118, R264, R274), and no
error stands in what it reads. -/
def MatrixMay (s : State) (t : Tree) (kind : MKind) (len : Nat) (reads : Bool) (offs : List Nat) : Prop :=
  let s1 := s.pruneOps s.wave.core t
  (t.cmode = false → len ≠ 0 → s.wave.qnt ≤ t.committed) ∧
  (t.cmode = false → s.engineWaits t s.wave.core 1 (if reads then .read else .write) (offs.map fun x => (0, x)) = false) ∧
  (kind ≠ .swapw → ((s1.core s.wave.core).ops.filter fun p =>
    decide (s.chc ≤ p.comp) && (if kind = .ldsw then p.kind == .ldsw else p.kind != .ldsw && p.kind != .swapw)).length < (if kind = .ldsw then 2 else 8)) ∧
  (reads = true → ∀ off ∈ offs, s.badAt (.slice s.wave.core off) = false) ∧ (s1.freeHandle s.wave.core).isSome = true

/-- A record of `len` bytes at address register `n` can be read (R47, R118, R215, R261, R265, R282). -/
def RecordMay (s : State) (t : Tree) (n : BitVec 4) (len : Nat) : Prop :=
  let a := s.wave.ra n.toNat
  let off := a.toNat % 0x400000
  s.operandFault t a 0 len 64 = none ∧
  (t.cmode = false → s.wave.qnt ≤ t.committed ∧ s.nearBusy s.wave.core ((List.range len).map (off + ·)) = false ∧
    s.engineWaits t s.wave.core len .read [(noLane, off)] = false) ∧
  (t.cmode = true → s.acquireBusy = false) ∧ ∀ i < len, s.badAt (.slice s.wave.core (off + i)) = false

/-- The record's bytes: as the slice holds them, or in chorus mode as it holds them at the read's effect count (R119). -/
def recordBytes (s : State) (t : Tree) (n : BitVec 4) (len : Nat) : List Byte :=
  let s1 := if t.cmode then s.foresee else s
  (List.range len).map fun i => s1.nowByte s.wave.core t.n ((s.wave.ra n.toNat).toNat % 0x400000 + i)

/-- No handle is asked for, or one is free (R274, R281). -/
def HandleMay (s : State) (h : BitVec 4) : Prop := h = 0 ∨ (s.freeHandle s.wave.core).isSome = true

/-- Whether a debug session holds a fault of tree `t` back (R249). -/
def held (s : State) (t : Tree) : Bool :=
  match s.desk? t.desk with
  | some d => d.stopOnFault && d.held == some t.id && !t.cmode
  | none => false

/-! ## Events of the device -/

/-- The step answers a next state in which `p` holds. -/
def Leads (o : Host.Outcome State Fault Refusal) (p : State → Prop) : Prop := ∃ s', o = .next s' ∧ p s'

/-- A fetched slot that starts now: of type `ty`, ready and with a good header (R373, R380). -/
def SlotMay (s : State) (d q i ty : Nat) (x : Slot) : Prop := s.slot? d q i = some x ∧ x.type = ty ∧ s.slotReady x = true ∧ x.badHead = false

/-- A debug command of a desk that allows it, on the tree of the desk that its session holds where the command needs one; for CLOSE (7) the tree may be
gone (R248, R249, R383). -/
def CommandMay (s : State) (d q i cmd : Nat) (free : Bool) (x : Slot) : Prop :=
  SlotMay s d q i 6 x ∧ x.command = cmd ∧ ∃ k, s.desk? d = some k ∧ k.debugOk = true ∧
    (free = true ∨ k.held = some x.dbgTree ∧ (cmd = 7 ∨ (s.served d q).deskTree d x.dbgTree = true))

/-- A management command is acted on: the device runs, or recovers and takes a firmware command, is not decommissioned, and performs no other request
(R402, R409, R410). -/
def ManagementMay (s : State) (code : Nat) : Prop :=
  (s.power = true ∨ s.recovery = true) ∧ (s.recovery = true → code = 0x28 ∨ code = 0x29) ∧ s.proctor.state ≠ 5 ∧ s.mailWaits = false

/-- The reply to a management command is the only thing that changes, with the status and body given (R409). -/
def Replies (i : Instr) (s : State) (code status : Nat) (tag : BitVec 16) (body : List Byte) : Prop :=
  exec i s = .next { s with proctor := { s.proctor with replies := s.proctor.replies ++
    [BitVec.ofNat 8 code :: BitVec.ofNat 8 status :: (leBytes 2 tag.toNat ++ leBytes 4 body.length ++ body)] } }

/-! ## Frames -/

/-- A register of a wave, by file and number. -/
inductive Dst where
  | v (n : Nat)
  | s (n : Nat)
  | a (n : Nat)
  | k (n : Nat)
  | m (n : Nat)
  | h (n : Nat)
  deriving DecidableEq, Repr

/-- Whether a result lands in a register. -/
def lands : Res → Dst → Bool
  | .vec r xs, .v n => xs.any fun x => (32 * r + x.1) / 32 == n
  | .sca r _, .s n => r == n
  | .adr r _, .a n => r == n
  | .kmod r _, .k n => r == n
  | .msk r _, .m n => r == n
  | .bits r _ _, .m n => r == n
  | .hnd r _, .h n => r == n
  | .two a b, d => lands a d || lands b d
  | _, _ => false

/-- A register reads the same in two waves. -/
def sameReg (w w' : Wave) : Dst → Prop
  | .v n => ∀ l < 32, w'.rv n l = w.rv n l
  | .s n => w'.rs n = w.rs n
  | .a n => w'.ra n = w.ra n
  | .k n => w'.rk n = w.rk n
  | .m n => w'.rm n = w.rm n
  | .h n => w'.rh n = w.rh n

/-- What no register-only instruction changes: every memory, the accumulators, the fault state, %fc and the pattern slots of the wave, the registers of
every other wave, and of every core the buffer and handle tables, the weight planes, the receive tags and the drain generator. -/
def Keeps (s s' : State) : Prop :=
  s'.mem = s.mem ∧ s'.slices = s.slices ∧ s'.slicesC = s.slicesC ∧ s'.accs = s.accs ∧
  s'.wave.fault = s.wave.fault ∧ s'.wave.faddr = s.wave.faddr ∧ s'.wave.epc = s.wave.epc ∧ s'.wave.etgt = s.wave.etgt ∧
  s'.wave.hpc = s.wave.hpc ∧ s'.wave.fdat = s.wave.fdat ∧ s'.wave.fc = s.wave.fc ∧ s'.wave.pats = s.wave.pats ∧
  (s'.waves.map fun w => (w.v, w.s, w.a, w.k, w.m, w.h)) = (s.waves.map fun w => (w.v, w.s, w.a, w.k, w.m, w.h)) ∧
  ∀ key, let c := s.core key
    let c' := s'.core key
    c'.bufs = c.bufs ∧ c'.handles = c.handles ∧ c'.plane0 = c.plane0 ∧ c'.plane1 = c.plane1 ∧ c'.active = c.active ∧ c'.tags = c.tags ∧ c'.dgen = c.dgen

/-- The delay slot that an instruction stands in, if any, ends in no split. -/
def noSplit (f : Frag) : Prop := f.after.any After.isSplit = false

/-- Control that neither ends lanes nor applies a split. -/
def Quiet : Ctl → Prop
  | .exit => False
  | .apply _ a => a.isSplit = false
  | _ => True

/-- The destination of an instruction whose only results are one register and flags. -/
def destOf : Instr → Option Dst
  | .add d _ _ | .sub d _ _ | .mul d _ _ | .mulh d _ _ | .mulhu d _ _ | .div d _ _ | .divu d _ _ | .rem d _ _ | .remu d _ _ | .and d _ _
  | .or d _ _ | .xor d _ _ | .andn d _ _ | .shl d _ _ | .shr d _ _ | .sra d _ _ | .shli d _ _ | .shri d _ _ | .srai d _ _ | .slt d _ _
  | .sltu d _ _ | .min d _ _ | .max d _ _ | .minu d _ _ | .maxu d _ _ | .clz d _ | .ctz d _ | .popc d _ | .bfx d _ _ _ _ | .bfi d _ _ _
  | .sel d _ _ _ | .addi d _ _ | .andi d _ _ | .ori d _ _ | .xori d _ _ | .lih d _ | .movsa d _ _ | .getk d _ | .mfs d _ | .getfmt d | .mmovs d _
  | .mpopc d _ | .ftest d _ | .chrd d | .chbase d => some (.s d.toNat)
  | .adda d _ _ | .mova d _ _ => some (.a d.toNat)
  | .setk d _ => some (.k d.toNat)
  | .vcmpS32 d _ _ _ _ | .vcmpU32 d _ _ _ _ | .vfcmpF32 d _ _ _ _ | .vballot d _ _ | .voteAll d _ _ | .voteAny d _ _ | .voteNone d _ _
  | .voteUni d _ _ | .mand d _ _ | .mor d _ _ | .mxor d _ _ | .mnot d _ | .mandn d _ _ | .mmovm d _ => some (.m d.toNat)
  | .fmov d _ => some (.h d.toNat)
  | .vmov d _ | .vaddI32x16 d _ | .vsubI32x16 d _ | .vmulI32x16 d _ | .vandx16 d _ | .vorx16 d _ | .vxorx16 d _ | .vshlI32x16 d _ | .vsraI32x16 d _
  | .vminS32x16 d _ | .vmaxS32x16 d _ | .vfaddF32x16 d _ | .vfsubF32x16 d _ | .vfmulF32x16 d _ | .vfminF32x16 d _ | .vfmaxF32x16 d _
  | .vaddI32 d _ _ _ | .vaddS32 d _ _ _ | .vaddU32 d _ _ _ | .vsubI32 d _ _ _ | .vsubS32 d _ _ _ | .vsubU32 d _ _ _ | .vmulI32 d _ _ _
  | .vmulhS32 d _ _ _ | .vmulhU32 d _ _ _ | .vmadI32 d _ _ _ | .vand d _ _ _ | .vor d _ _ _ | .vxor d _ _ _ | .vandn d _ _ _ | .vshlI32 d _ _ _
  | .vshrI32 d _ _ _ | .vsraI32 d _ _ _ | .vminS32 d _ _ _ | .vmaxS32 d _ _ _ | .vminU32 d _ _ _ | .vmaxU32 d _ _ _ | .vabsS32 d _ _
  | .vnegI32 d _ _ | .vsel d _ _ _ | .vpopc d _ _ | .vclz d _ _ | .vbfxU32 d _ _ _ | .vbfxS32 d _ _ _ | .vaddiI32 d _ _ _ | .vshli d _ _ _
  | .vshri d _ _ _ | .vsrai d _ _ _ | .vmovs d _ _ | .vlane d _ | .vmovi d _ _ | .vfaddF32 d _ _ _ | .vfaddF16X2 d _ _ _ | .vfsubF32 d _ _ _
  | .vfsubF16X2 d _ _ _ | .vfmulF32 d _ _ _ | .vfmulF16X2 d _ _ _ | .vfmaF32 d _ _ _ | .vfmaF16X2 d _ _ _ | .vfmsF32 d _ _ _ | .vfmsF16X2 d _ _ _
  | .vfnmaF32 d _ _ _ | .vfnmaF16X2 d _ _ _ | .vfminF32 d _ _ _ | .vfmaxF32 d _ _ _ | .vfminF16X2 d _ _ _ | .vfmaxF16X2 d _ _ _
  | .vfmaxlF16 d _ _ _ | .vfminlF16 d _ _ _ | .vfabsF32 d _ _ | .vfnegF32 d _ _ | .vfcopysignF32 d _ _ _ | .vfabsF16X2 d _ _ | .vfnegF16X2 d _ _
  | .vfcopysignF16X2 d _ _ _ | .vfrcpF32 d _ _ | .vfrsqF32 d _ _ | .vfrcpF16X2 d _ _ | .vfrsqF16X2 d _ _ | .vfdivF32 d _ _ _ | .vfsqrtF32 d _ _
  | .vcvt d _ _ _ _ | .vpackF16X2 d _ _ _ | .vpackBf16x2 d _ _ _ | .vpackE2M1X d _ _ | .vunpklF16 d _ _ | .vunpkhF16 d _ _ | .vunpklBf16 d _ _
  | .vunpkhBf16 d _ _ | .vfclassF32 d _ _ | .vfclassF16X2 d _ _ | .vshfl d _ _ _ | .vshfliXor d _ _ _ | .vshfliUp d _ _ _ | .vshfliDown d _ _ _
  | .vbc d _ _ _ | .vfirst d _ _ => some (.v d.toNat)
  | _ => none

/-- Whether an instruction may raise flags in %fflags (Table 5-5). -/
def flagging : Instr → Bool
  | .vfaddF32x16 _ _ | .vfsubF32x16 _ _ | .vfmulF32x16 _ _ | .vfminF32x16 _ _ | .vfmaxF32x16 _ _ | .vfaddF32 _ _ _ _ | .vfaddF16X2 _ _ _ _
  | .vfsubF32 _ _ _ _ | .vfsubF16X2 _ _ _ _ | .vfmulF32 _ _ _ _ | .vfmulF16X2 _ _ _ _ | .vfmaF32 _ _ _ _ | .vfmaF16X2 _ _ _ _ | .vfmsF32 _ _ _ _
  | .vfmsF16X2 _ _ _ _ | .vfnmaF32 _ _ _ _ | .vfnmaF16X2 _ _ _ _ | .vfminF32 _ _ _ _ | .vfmaxF32 _ _ _ _ | .vfminF16X2 _ _ _ _
  | .vfmaxF16X2 _ _ _ _ | .vfcmpF32 _ _ _ _ _ | .vfrcpF32 _ _ _ | .vfrsqF32 _ _ _ | .vfrcpF16X2 _ _ _ | .vfrsqF16X2 _ _ _ | .vfdivF32 _ _ _ _
  | .vfsqrtF32 _ _ _ | .vcvt _ _ _ _ _ | .vpackF16X2 _ _ _ _ | .vpackBf16x2 _ _ _ _ | .vpackE2M1X _ _ _ | .vunpklF16 _ _ _ | .vunpkhF16 _ _ _
  | .vunpklBf16 _ _ _ | .vunpkhBf16 _ _ _ => true
  | _ => false

/-- The rounding an instruction takes from FMT is not a reserved one (R93, R199). -/
def roundsWell (f : Frag) : Instr → Prop
  | .vcvt _ _ _ _ r => r.toNat < 5 ∨ (r.toNat = 5 ∧ f.fmt.toNat / 65536 % 8 < 5)
  | .vpackF16X2 _ _ _ _ | .vpackBf16x2 _ _ _ _ | .vpackE2M1X _ _ _ => f.fmt.toNat / 65536 % 8 < 5
  | _ => True

/-- A store: its bytes per lane, its lanes with their addresses, and the address register it increments; none when its address form faults. -/
def storeForm (w : Wave) (f : Frag) : Instr → Option (Nat × List (Nat × Nat) × Option Dst)
  | .vstc _ n k m _ _ => (w.mLanes (w.eff f m.toNat) n.toNat k.toNat 4).map fun ls => (4, ls, some (.a n.toNat))
  | .vstg _ n b m _ => some (4, w.xLanes (w.eff f m.toNat) n.toNat b.toNat, none)
  | .sst _ n z d => some (2 ^ z.toNat, [(noLane, w.sAddr n d)], none)
  | .spst _ k m => if (w.pats.get {} k.toNat).valid then some (4, (w.pats.get {} k.toNat).lanes (w.eff f m.toNat), none) else none
  | _ => none

/-- A slice byte that none of `size` bytes at the addresses listed is. -/
def Outside (s : State) (core n size : Nat) (vas : List Nat) (key : Nat) : Prop :=
  ∀ va ∈ vas, ∀ j < size, ∀ c o, s.locate core n (va + j) = .ok (.slice c o) → sliceKey c o ≠ key

/-- The memories are in their canonical form: device memory, the slices as they stand and as committed, the accumulators. -/
def Canonical (s : State) : Prop :=
  Memory.wf s.mem = true ∧ Store.canon emptyByte s.slices = true ∧ Store.canon emptyByte s.slicesC = true ∧ Store.canon 0 s.accs = true

end Sys2Proof.Stmt

open Sys2Proof Sys2Proof.Machine Sys2Proof.Stmt


/-! ## Scalar, address, modulo and state registers -/

/-- 11 R163 to R165: the two-source scalar instructions write sums, products, quotients, remainders, logic, shifts, comparisons and minima of their sources, each with its
latency; quotients round toward zero, a division by 0 gives −1 and the dividend, and −2^63 by −1 gives −2^63 and 0. -/
def Obligations.ScalarTwoSourceResults : Prop :=
  ∀ x ∈ scalarTwo, ∀ (d a b : BitVec 5) (s : State) (f : Frag) (t : Tree), Ready (x.1 d a b) s f t →
    Completes (x.1 d a b) s (s.result x.2.1 (.sca d.toNat (x.2.2 (s.wave.rs a.toNat) (s.wave.rs b.toNat)))) .seq

/-- 11 R165 to R169: shifts by an immediate, counts, bit fields, SEL and the immediate forms. -/
def Sys2Proof.Stmt.ScalarOneSourceResults : Prop :=
  ∀ (d a b c : BitVec 5) (n p w : BitVec 6) (i : BitVec 14) (h : BitVec 19) (s : State) (f : Frag) (t : Tree),
    let done := fun (k : Instr) (v : Dword) => Ready k s f t → Completes k s (s.result 1 (.sca d.toNat v)) .seq
    let y := s.wave.rs a.toNat
    done (.shli d a n) (y <<< n.toNat) ∧ done (.shri d a n) (y >>> n.toNat) ∧
    done (.srai d a n) (BitVec.ofInt 64 (y.toInt / 2 ^ n.toNat)) ∧
    done (.clz d a) (BitVec.ofNat 64 (leadingZeros y)) ∧ done (.ctz d a) (BitVec.ofNat 64 (trailingZeros y)) ∧
    done (.popc d a) (BitVec.ofNat 64 (onesCount y)) ∧
    done (.bfx d a p w 0) (BitVec.ofNat 64 (y.toNat / 2 ^ p.toNat % 2 ^ (w.toNat + 1))) ∧
    done (.bfx d a p w 1) ((BitVec.ofNat (w.toNat + 1) (y.toNat / 2 ^ p.toNat)).signExtend 64) ∧
    (∀ v : Dword, (∀ j < 64, v.getLsbD j =
        if p.toNat ≤ j ∧ j ≤ p.toNat + w.toNat then y.getLsbD (j - p.toNat) else (s.wave.rs d.toNat).getLsbD j) → done (.bfi d a p w) v) ∧
    done (.sel d a b c) (if s.wave.rs c.toNat ≠ 0 then y else s.wave.rs b.toNat) ∧
    done (.addi d a i) (y + i.signExtend 64) ∧ done (.andi d a i) (y &&& i.signExtend 64) ∧
    done (.ori d a i) (y ||| i.signExtend 64) ∧ done (.xori d a i) (y ^^^ i.signExtend 64) ∧
    done (.lih d h) (BitVec.ofInt 64 (h.toInt * 2 ^ 13))

/-- 11 R166: CLZ, CTZ and POPC write the counts of their source, and what these counts are. -/
def Obligations.BitCounts : Prop :=
  (∀ (d a : BitVec 5) (s : State) (f : Frag) (t : Tree),
    let x := s.wave.rs a.toNat
    let done := fun (i : Instr) (n : Nat) => Ready i s f t → Completes i s (s.result 1 (.sca d.toNat (BitVec.ofNat 64 n))) .seq
    done (.clz d a) (leadingZeros x) ∧ done (.ctz d a) (trailingZeros x) ∧ done (.popc d a) (onesCount x)) ∧
  ∀ x : Dword,
    (x = 0 → leadingZeros x = 64 ∧ trailingZeros x = 64) ∧
    (x ≠ 0 → leadingZeros x < 64 ∧ x.getLsbD (63 - leadingZeros x) = true ∧ trailingZeros x < 64 ∧ x.getLsbD (trailingZeros x) = true) ∧
    (∀ i < 64, 64 - leadingZeros x ≤ i → x.getLsbD i = false) ∧ (∀ i < trailingZeros x, x.getLsbD i = false) ∧
    onesCount x = ((List.range 64).map fun i => if x.getLsbD i then 1 else 0).sum

/-- 11 R170, R171: moves to and from address and modulo registers. -/
def Sys2Proof.Stmt.AddressAndModuloResults : Prop :=
  ∀ (d a : BitVec 5) (n n' : BitVec 4) (k : BitVec 3) (i : BitVec 14) (s : State) (f : Frag) (t : Tree),
    let done := fun (x : Instr) (r : Res) => Ready x s f t → Completes x s (s.result 1 r) .seq
    done (.adda n n' i) (.adr n.toNat (s.wave.ra n'.toNat + i.signExtend 64)) ∧
    done (.mova n a i) (.adr n.toNat (s.wave.rs a.toNat + i.signExtend 64)) ∧
    done (.movsa d n i) (.sca d.toNat (s.wave.ra n.toNat + i.signExtend 64)) ∧
    done (.setk k a) (.kmod k.toNat (s.wave.rs a.toNat)) ∧ done (.getk d k) (.sca d.toNat (s.wave.rk k.toNat))

/-- 11 R165 to R171: shifts by an immediate, counts, bit fields, SEL, the immediate forms, and the moves to and from address and modulo registers. -/
def Obligations.OneSourceAndMoveResults : Prop := ScalarOneSourceResults ∧ AddressAndModuloResults

/-- 09 R135, R30, R274: the registers that read as a constant and discard writes: s0, k0, m0, h0; every other register keeps what is
written, and a write leaves every other register as it was. -/
def Obligations.HardWiredRegisters : Prop :=
  ∀ (w : Wave) (r q : Nat) (x y : Dword) (m : Mask) (h : Option Nat),
    w.rs 0 = 0 ∧ w.rk 0 = 0 ∧ w.rm 0 = 0xFFFFFFFF ∧ w.rh 0 = none ∧
    w.ws 0 x = w ∧ w.wk 0 x = w ∧ w.wm 0 m = w ∧ w.wh 0 h = w ∧
    (r ≠ 0 → (w.ws r x).rs q = (if q = r then x else w.rs q) ∧ (w.wk r x).rk q = (if q = r then x else w.rk q) ∧
      (w.wm r m).rm q = (if q = r then m else w.rm q) ∧ (w.wh r h).rh q = (if q = r then h else w.rh q)) ∧
    (w.wa r y).ra q = if q = r then y else w.ra q

/-- 11 R172, R173, Table 11-7, Table 14-2: MFS reads each state register. -/
def Sys2Proof.Stmt.StateRegisterReads : Prop :=
  ∀ (d : BitVec 5) (n : BitVec 14) (s : State) (f : Frag) (t : Tree), Ready (.mfs d n) s f t →
    let w := s.wave
    let c := s.core w.core
    ∀ v : Dword, (n.toNat, v) ∈ [(0x000, BitVec.ofNat 64 (w.team * w.wpt + w.tw)), (0x001, BitVec.ofNat 64 w.team), (0x002, BitVec.ofNat 64 w.tw),
        (0x003, BitVec.ofNat 64 (w.core % 512)), (0x004, BitVec.ofNat 64 t.n), (0x005, w.tbase), (0x006, f.mask.setWidth 64),
        (0x007, if t.cmode then 0 else BitVec.ofNat 64 w.qnt), (0x008, w.fc), (0x009, w.lcnt), (0x010, w.fflags.setWidth 64),
        (0x011, BitVec.ofNat 64 (c.dgen.toNat * 2 ^ 32 + c.vgen.toNat)), (0x020, BitVec.ofNat 64 s.chc),
        (0x021, if t.cmode then BitVec.ofNat 64 t.base else 0), (0x022, s.drift), (0x040, w.fault), (0x041, w.faddr),
        (0x042, w.epc), (0x043, w.etgt), (0x044, w.hpc), (0x045, w.fdat)] →
      Completes (.mfs d n) s (s.result 1 (.sca d.toNat v)) .seq

/-- 11 R172, 05 R84, R92, 14 Table 14-2: MTS writes the writable state registers, with no latency. -/
def Sys2Proof.Stmt.StateRegisterWrites : Prop :=
  ∀ (a : BitVec 5) (s : State) (f : Frag) (t : Tree),
    let x := s.wave.rs a.toNat
    let lo := x.setWidth 32
    let hi := (x >>> 32).setWidth 32
    let done := fun (n : BitVec 14) (s' : State) => Ready (.mts a n) s f t → Completes (.mts a n) s s' .seq
    done 0x010 { s with wave := { s.wave with fflags := lo &&& 0x3F } } ∧
    done 0x011 (s.setCore s.wave.core { s.core s.wave.core with vgen := if lo = 0 then 1 else lo, dgen := if hi = 0 then 1 else hi }) ∧
    done 0x042 { s with wave := { s.wave with epc := x } } ∧ done 0x043 { s with wave := { s.wave with etgt := x } } ∧
    done 0x044 { s with wave := { s.wave with hpc := x &&& ~~~(1 : Dword) } }

/-- 11 R172, R173: MFS reads and MTS writes the state registers. -/
def Obligations.StateRegisters : Prop := StateRegisterReads ∧ StateRegisterWrites

/-! ## Control -/

/-- 09 R148, 11 R174 to R176: BC, J, JAL and JR pass control after their delay slot; the fall-through is the address after the delay slot. JR to an odd
address raises ALIGN at it. -/
def Obligations.BranchResults : Prop :=
  ∀ (a b : BitVec 5) (c : BitVec 3) (o : BitVec 11) (j : BitVec 24) (n : BitVec 4) (s : State) (f : Frag) (t : Tree),
    let x := s.wave.rs a.toNat
    let y := s.wave.rs b.toNat
    let next := f.pc + 4 + BitVec.ofNat 64 (s.lenAt t s.wave.core (f.pc + 4))
    let go := fun (i : Instr) (s' : State) (goal : Dword) => Ready i s f t → Completes i s s' (.delay (.goto goal))
    (∀ taken : Bool, (c.toNat, taken) ∈ [(0, decide (x = y)), (1, decide (x ≠ y)), (2, decide (x.toInt < y.toInt)), (3, decide (y.toInt ≤ x.toInt)),
        (4, decide (x.toNat < y.toNat)), (5, decide (y.toNat ≤ x.toNat))] →
      go (.bc a b c o) s (if taken then f.pc + 2 * o.signExtend 64 else next)) ∧
    go (.j j) s (f.pc + 2 * j.signExtend 64) ∧
    go (.jal j) (s.result 1 (.adr 15 next)) (f.pc + 2 * j.signExtend 64) ∧
    ((s.wave.ra n.toNat).toNat % 2 = 0 → go (.jr n) s (s.wave.ra n.toNat)) ∧
    ((s.wave.ra n.toNat).toNat % 2 = 1 → Ready (.jr n) s f t → Raises (.jr n) s { code := ALIGN, addr := s.wave.ra n.toNat })

/-- Split-stack entries that a split decided in the other slot, and still before its delay slot, will take (R56). -/
def Sys2Proof.Stmt.taken (w : Wave) : Nat :=
  match (w.getSlot (!w.cur)).bind (·.after) with
  | some (.split gs _) => splitNeed gs.length false
  | _ => 0

/-- 03 R56, 11 R177, 14 R240: BV divides the fragment into the lanes that go on and those that take the branch, the fall-through first; it needs room
on the split stack beside a split that the other slot has decided, and raises PERM in handler state. -/
def Sys2Proof.Stmt.VectorBranchSplits : Prop :=
  ∀ (m : BitVec 3) (tg : BitVec 10) (jo : BitVec 11) (s : State) (f : Frag) (t : Tree), Ready (.bv m tg jo) s f t →
    let c := s.wave.rm m.toNat
    let next := f.pc + 4 + BitVec.ofNat 64 (s.lenAt t s.wave.core (f.pc + 4))
    let gs := ((next, f.mask &&& ~~~c) :: [(f.pc + 2 * tg.signExtend 64, f.mask &&& c)]).filter fun g => g.2 ≠ 0
    let need := splitNeed gs.length (s.wave.getSlot (!s.wave.cur)).isNone
    let room := s.wave.depth + taken s.wave + need
    (s.wave.hnd = true → Raises (.bv m tg jo) s { code := PERM }) ∧
    (s.wave.hnd = false → need ≠ 0 → 64 < room → Raises (.bv m tg jo) s { code := SPLITOV }) ∧
    (s.wave.hnd = false → need = 0 ∨ room ≤ 64 → Completes (.bv m tg jo) s s (.delay (.split gs (f.pc + 2 * jo.signExtend 64))))

/-- 11 R178: JTV's groups: one per distinct target, in the order of the least index among its lanes, and together they hold every lane once. -/
def Obligations.TableGroups : Prop :=
  ∀ xs : List (Nat × Nat × Dword), (∀ x ∈ xs, x.1 < 32) → (xs.map (·.1)).Nodup →
    ((jtvGroups xs).map (·.1)).Nodup ∧
    (∀ l i g, (l, i, g) ∈ xs → ∃ m, (g, m) ∈ jtvGroups xs ∧ m.getLsbD l = true) ∧
    (∀ g m, (g, m) ∈ jtvGroups xs → ∀ l, m.getLsbD l = true → ∃ i, (l, i, g) ∈ xs) ∧
    (jtvGroups xs).Pairwise fun p q =>
      ∃ l i, (l, i, p.1) ∈ xs ∧ ∀ l' i', (l', i', q.1) ∈ xs → i ≤ i'

/-- 11 R178, R179, 14 R240: JTV out of range raises JTRANGE; with a table in the own slice outside chorus mode its lanes go to the code base plus
their table entries. -/
def Sys2Proof.Stmt.TableJump : Prop :=
  ∀ (v : BitVec 6) (n : BitVec 4) (b : BitVec 5) (jo : BitVec 9) (s : State) (f : Frag) (t : Tree), Ready (.jtv v n b jo) s f t →
    let w := s.wave
    let ix := (lanesOf f.mask).map fun l => (l, (w.rv v.toNat l).toNat)
    let bad := ix.filter fun x => decide ((w.rs b.toNat).toNat ≤ x.2)
    let ls := ix.map fun x => (x.1, (w.ra n.toNat + BitVec.ofNat 64 (4 * x.2)).toNat)
    let entry := fun (i : Nat) => readNat (s.nowByte w.core t.n) (w.ra n.toNat + BitVec.ofNat 64 (4 * i)).toNat 4
    let gs := (jtvGroups (ix.map fun x => (x.1, x.2, BitVec.ofNat 64 t.code.addr + BitVec.ofNat 64 (entry x.2)))).filter fun g => g.2 ≠ 0
    (w.hnd = true → Raises (.jtv v n b jo) s { code := PERM }) ∧
    (w.hnd = false → bad ≠ [] → Raises (.jtv v n b jo) s { code := JTRANGE, lanes := some (maskOf (bad.map (·.1))) }) ∧
    (w.hnd = false → bad = [] → t.cmode = false → MayAccess s t .read 4 ls → s.laneBad w.core t.n ls = none →
      s.allNear w.core t.n ls = true → (∀ x ∈ ix, entry x.2 % 2 = 0) →
      w.depth + taken w + splitNeed gs.length (w.getSlot (!w.cur)).isNone ≤ 64 →
      Completes (.jtv v n b jo) s s (.delay (.split gs (f.pc + 2 * jo.signExtend 64))))

/-- 03 R56, 11 R177 to R179: BV and JTV. -/
def Obligations.SplittingBranches : Prop := VectorBranchSplits ∧ TableJump

/-- 11 R180 to R182, 14 R240: the loop instructions: a count of 0 skips the body, another starts it at the next instruction; in handler state PERM,
inside a loop ILLOP; LOOPB runs in the conductor of a chorus grid only, and its core's loop buffer then holds the parcels of the body. When the buffer is filled, and the length of an instruction that is passed
over and cannot be fetched, are the model's choices (assumption logs 70, 69). -/
def Obligations.LoopStarts : Prop :=
  ∀ (a : BitVec 5) (o : BitVec 11) (s : State) (f : Frag) (t : Tree),
    let n : Word := (s.wave.rs a.toNat).setWidth 32
    let last := f.pc + 2 * o.signExtend 64
    let past := last + BitVec.ofNat 64 (s.lenAt t s.wave.core last)
    let loop := fun (s : State) => { s with wave := { s.wave with loopStart := f.pc + 4, loopEnd := last, lcnt := n.setWidth 64 } }
    let body := s.loopBody t f.pc last n
    let buf := s.updCore s.wave.core fun c => { c with loopBuf := some body }
    let fits := (last - (f.pc + 4)).toNat + s.lenAt t s.wave.core last ≤ 257
    (Ready (.loopl a o) s f t →
      (s.wave.lcnt ≠ 0 → Raises (.loopl a o) s { code := ILLOP }) ∧
      (s.wave.lcnt = 0 → s.wave.hnd = true → Raises (.loopl a o) s { code := PERM }) ∧
      (s.wave.lcnt = 0 → s.wave.hnd = false → n = 0 → Completes (.loopl a o) s s (.to past none)) ∧
      (s.wave.lcnt = 0 → s.wave.hnd = false → n ≠ 0 → Completes (.loopl a o) s (loop s) (.to (f.pc + 4) none))) ∧
    (body.wid = s.wave.wid ∧ body.start = f.pc + 4 ∧ body.last = last ∧ body.count = n.toNat ∧
      ∀ i < ((last - (f.pc + 4)).toNat + s.lenAt t s.wave.core last) / 2, ∀ p < 65536, s.memParcel t s.wave.core (f.pc.toNat + 4 + 2 * i) = .ok p →
        field body.bytes (2 * i) 2 = p) ∧
    (Ready (.loopb a o) s f t →
      (s.wave.lcnt ≠ 0 ∨ ¬ fits → Raises (.loopb a o) s { code := ILLOP }) ∧
      (s.wave.lcnt = 0 → fits → (t.cmode = false ∨ s.wave.tw ≠ 0 ∨ s.wave.hnd = true) → Raises (.loopb a o) s { code := PERM }) ∧
      (s.wave.lcnt = 0 → fits → t.cmode = true → s.wave.tw = 0 → s.wave.hnd = false → n = 0 → Completes (.loopb a o) s buf (.to past none)) ∧
      (s.wave.lcnt = 0 → fits → t.cmode = true → s.wave.tw = 0 → s.wave.hnd = false → n ≠ 0 →
        Completes (.loopb a o) s (loop buf) (.to (f.pc + 4) none)))

/-! ## Vector -/

/-- 12 R184 to R190: integer results of the lanes of E; VMOV of a register to itself changes nothing (09 R144). -/
def Sys2Proof.Stmt.VectorIntegerResults : Prop :=
  ∀ (d a b : BitVec 6) (m k : BitVec 3) (sc : BitVec 5) (n : BitVec 5) (i : BitVec 9) (s : State) (f : Frag) (t : Tree),
    let v := s.wave.rv
    let done := fun (x : Instr) (lat : Nat) (m : BitVec 3) (op : Nat → Word) =>
      Ready x s f t → Completes x s (s.result lat (.vec d.toNat (overE s f m op))) .seq
    (∀ x ∈ vectorTwo, done (x.1 d a b m) x.2.1 m fun l => x.2.2 (v a.toNat l) (v b.toNat l)) ∧
    (∀ x ∈ vectorOne, done (x.1 d a m) x.2.1 m fun l => x.2.2 (v a.toNat l)) ∧
    done (.vmadI32 d a b m) 4 m (fun l => v a.toNat l * v b.toNat l + v d.toNat l) ∧
    done (.vsel d a b k) 2 0 (fun l => if (s.wave.rm k.toNat).getLsbD l then v a.toNat l else v b.toNat l) ∧
    done (.vaddiI32 d a m i) 2 m (fun l => v a.toNat l + i.signExtend 32) ∧
    done (.vshli d a m n) 2 m (fun l => v a.toNat l <<< n.toNat) ∧ done (.vshri d a m n) 2 m (fun l => v a.toNat l >>> n.toNat) ∧
    done (.vsrai d a m n) 2 m (fun l => BitVec.ofInt 32 ((v a.toNat l).toInt / 2 ^ n.toNat)) ∧
    done (.vmovs d sc m) 2 m (fun _ => (s.wave.rs sc.toNat).setWidth 32) ∧
    done (.vlane d m) 2 m (fun l => BitVec.ofNat 32 l) ∧ done (.vmovi d m i) 2 m (fun _ => i.signExtend 32) ∧
    (∀ x ∈ shortTwo, ∀ b : BitVec 5, done (x.1 d b) x.2.1 0 fun l => x.2.2 (v d.toNat l) (v b.toNat l)) ∧
    (∀ b : BitVec 5, (d ≠ b.setWidth 6 → done (.vmov d b) 2 0 fun l => v b.toNat l) ∧
      (d = b.setWidth 6 → Ready (.vmov d b) s f t → Completes (.vmov d b) s s .seq))

/-- 12 R190: VBFX: field of width sb[9:5] + 1 at sb[4:0], of the source extended by zeros or by its sign. -/
def Sys2Proof.Stmt.VectorFieldResults : Prop :=
  ∀ (d a : BitVec 6) (sc : BitVec 5) (m : BitVec 3) (s : State) (f : Frag) (t : Tree) (op : Nat → Word) (sx : Bool),
    let p := (s.wave.rs sc.toNat).toNat % 32
    let w := (s.wave.rs sc.toNat).toNat / 32 % 32 + 1
    let x := fun l => s.wave.rv a.toNat l
    let src := fun l j => if j < 32 then (x l).getLsbD j else sx && (x l).getLsbD 31
    let i : Instr := if sx then .vbfxS32 d a sc m else .vbfxU32 d a sc m
    (∀ l, ∀ j < 32, (op l).getLsbD j = if j < w then src l (p + j) else sx && src l (p + w - 1)) →
    Ready i s f t → Completes i s (s.result 2 (.vec d.toNat (overE s f m op))) .seq

/-- 12 R184 to R190: the integer instructions and VBFX on the lanes of E. -/
def Obligations.VectorIntegerAndFieldResults : Prop := VectorIntegerResults ∧ VectorFieldResults

/-- 12 R184, R192, R196, R206, 09 Table 9-11: comparisons and VBALLOT write the bits of the lanes of E of a mask register; VFCMP.F32 raises NV as R196
says. -/
def Sys2Proof.Stmt.VectorCompareResults : Prop :=
  ∀ (d m c : BitVec 3) (a b : BitVec 6) (s : State) (f : Frag) (t : Tree),
    let e := f.mask &&& s.wave.rm m.toNat
    let ls := lanesOf e
    let x := fun l => s.wave.rv a.toNat l
    let y := fun l => s.wave.rv b.toNat l
    let done := fun (i : Instr) (s' : State) (lat : Nat) (p : Nat → Bool) =>
      Ready i s f t → Completes i s (s'.result lat (.bits d.toNat (maskOf (ls.filter p)) e)) .seq
    (∀ p, (c.toNat, p) ∈ [(0, fun l => x l == y l), (1, fun l => x l != y l), (2, fun l => decide ((x l).toInt < (y l).toInt)),
        (3, fun l => decide ((x l).toInt ≤ (y l).toInt)), (4, fun l => decide ((y l).toInt < (x l).toInt)), (5, fun l => decide ((y l).toInt ≤ (x l).toInt))] →
      done (.vcmpS32 d a b m c) s 2 p) ∧
    (∀ p, (c.toNat, p) ∈ [(0, fun l => x l == y l), (1, fun l => x l != y l), (2, fun l => decide ((x l).toNat < (y l).toNat)),
        (3, fun l => decide ((x l).toNat ≤ (y l).toNat)), (4, fun l => decide ((y l).toNat < (x l).toNat)), (5, fun l => decide ((y l).toNat ≤ (x l).toNat))] →
      done (.vcmpU32 d a b m c) s 2 p) ∧
    done (.vfcmpF32 d a b m c) (s.flag (ls.foldl (fun g l => g ||| (laneFcmp c.toNat (x l) (y l)).2) 0)) 4 (fun l => (laneFcmp c.toNat (x l) (y l)).1) ∧
    done (.vballot d a m) s 3 (fun l => x l != 0)

/-- 12 R184, R186, R193, R194, R197, R201, 05 R84: floating-point results of the lanes of E, with their flags. That %fflags gain
them as the instruction issues, and NX of the FP16 estimates, are the model's reading (assumption log 32). -/
def Obligations.VectorFloatResults : Prop :=
  ∀ (d a b : BitVec 6) (q : BitVec 5) (m : BitVec 3) (s : State) (f : Frag) (t : Tree),
    let v := s.wave.rv
    let one := fun (x : Instr) (m : BitVec 3) (lat : Nat) (op : Nat → Nat × Word) => Ready x s f t → Completes x s (flagged s f m lat d op) .seq
    let two := fun (x : Instr) (lat : Nat) (op : Nat → Bool → Nat × Word) => Ready x s f t → Completes x s (flaggedHalves s f m lat d op) .seq
    (∀ x ∈ floatTwo, one (x.1 d a b m) m x.2.1 fun l => x.2.2 (v a.toNat l).toNat (v b.toNat l).toNat) ∧
    (∀ x ∈ shortFloat, one (x.1 d q) 0 4 fun l => x.2 (v d.toNat l).toNat (v q.toNat l).toNat) ∧
    (∀ x ∈ floatHalves, two (x.1 d a b m) 4 fun l h => x.2 (half (v a.toNat l) h) (half (v b.toNat l) h)) ∧
    (∀ x ∈ floatFused, one (x.1 d a b m) m 4 (fun l => fp32.ffma x.2.2.1 x.2.2.2 (v a.toNat l).toNat (v b.toNat l).toNat (v d.toNat l).toNat) ∧
      two (x.2.1 d a b m) 4 fun l h => fp16.ffma x.2.2.1 x.2.2.2 (half (v a.toNat l) h) (half (v b.toNat l) h) (half (v d.toNat l) h)) ∧
    (∀ x ∈ floatOne, one (x.1 d a m) m x.2.1 fun l => x.2.2 (v a.toNat l)) ∧
    two (.vfrcpF16X2 d a m) 6 (fun l h => estimate16 rcpEst (half (v a.toNat l) h)) ∧
    two (.vfrsqF16X2 d a m) 6 (fun l h => estimate16 rsqEst (half (v a.toNat l) h))

/-- 05 R91, Table 5-4: the rounding of a lane: RNE, RZ, RD, RU, and SR, which takes the lane's random word when SREN is 1 and rounds RNE when it is 0. -/
def Obligations.RoundingOfALane : Prop :=
  ∀ (fmt g : Word) (l : Nat) (hi : Bool), l < 32 →
    rndFor fmt g 0 l hi = .rne ∧ rndFor fmt g 1 l hi = .rz ∧ rndFor fmt g 2 l hi = .rd ∧ rndFor fmt g 3 l hi = .ru ∧
    (fmt.getLsbD 19 = false → rndFor fmt g 4 l hi = .rne) ∧
    (fmt.getLsbD 19 = true → ∃ w : Word, rndFor fmt g 4 l hi = .sr w ∧
      ∀ i < 32, w.getLsbD ((i + 5 * l + if hi then 16 else 0) % 32) = g.getLsbD i)

/-- 05 R81, R90 to R93, 12 R199, R200, Table 12-5: VCVT under each rounding: its codes and flags; narrowing saturates with SAT; a reserved rounding in
FMT raises ILLOP; SR steps the vector generator once, and only when SREN is 1 and the pair is not exact. -/
def Sys2Proof.Stmt.ConversionResults : Prop :=
  ∀ (d a p : BitVec 6) (m r : BitVec 3) (s : State) (f : Frag) (t : Tree), Ready (.vcvt d a p m r) s f t →
    let code := if r.toNat = 5 then f.fmt.toNat / 65536 % 8 else r.toNat
    let exact := (4 ≤ p.toNat ∧ p.toNat ≤ 7) ∨ 12 ≤ p.toNat
    let g := (s.core s.wave.core).vgen
    let s' := if code = 4 ∧ f.fmt.getLsbD 19 = true ∧ ¬ exact then s.updCore s.wave.core fun c => { c with vgen := genStep c.vgen } else s
    let x := fun l => s.wave.rv a.toNat l
    let rnd := fun l => rndFor f.fmt g code l false
    let done := fun (op : Nat → Nat × Word) => Completes (.vcvt d a p m r) s (flagged s' f m 4 d op) .seq
    (5 ≤ code → Raises (.vcvt d a p m r) s { code := ILLOP }) ∧
    (code < 5 →
      (∀ src dst, (p.toNat, src, dst) ∈ [(0, fp32, fp16), (1, fp32, bf16), (2, fp32, e4m3), (3, fp32, e5m2), (4, fp16, fp32), (5, bf16, fp32),
          (6, e4m3, fp32), (7, e5m2, fp32)] → done fun l => dst.ofVal (rnd l) (src.decode (x l).toNat)) ∧
      (∀ lo hi, (p.toNat, lo, hi) ∈ [(8, -2147483648, 2147483647), (9, 0, 4294967295)] → done fun l =>
        let y := (fp32.decode (x l).toNat).toRange (rnd l) lo hi
        ((y.1 % 2 ^ 32).toNat, y.2)) ∧
      (p.toNat = 10 → done fun l => fp32.ofVal (rnd l) (Val.ofInt (x l).toInt)) ∧ (p.toNat = 11 → done fun l => fp32.ofVal (rnd l) (Val.ofInt (x l).toNat)) ∧
      (∀ lo hi bits (sx : Bool), (p.toNat, lo, hi, bits, sx) ∈
          [(12, -32768, 32767, 16, true), (13, -128, 127, 8, true), (14, 0, 65535, 16, false), (15, 0, 255, 8, false)] → done fun l =>
        let y : Int := if sx then (x l).toInt else (x l).toNat
        let z := max lo (min hi y)
        ((z % 2 ^ bits).toNat, if y = z then 0 else 32)))

/-- 12 R199 to R202, 05 R80, R91: the packing functions round by FMT.RND, and refuse a reserved code. -/
def Sys2Proof.Stmt.PackResults : Prop :=
  ∀ (d a b : BitVec 6) (m : BitVec 3) (s : State) (f : Frag) (t : Tree),
    let code := f.fmt.toNat / 65536 % 8
    let g := (s.core s.wave.core).vgen
    let v := s.wave.rv
    let pack := fun (dst : Fmt) (l : Nat) (hi : Bool) => dst.ofVal (rndFor f.fmt g code l hi) (fp32.decode (if hi then v b.toNat l else v a.toNat l).toNat)
    let two := fun (i : Instr) (dst : Fmt) => Ready i s f t →
      (5 ≤ code → Raises i s { code := ILLOP }) ∧
      (code < 5 → Completes i s (flaggedHalves (s.stepVgen f.fmt code) f m 4 d fun l h => pack dst l h) .seq)
    two (.vpackF16X2 d a b m) fp16 ∧ two (.vpackBf16x2 d a b m) bf16 ∧
    (Ready (.vpackE2M1X d a m) s f t →
      let e := f.mask &&& s.wave.rm m.toNat
      let xs := (List.range 32).map fun l => if e.getLsbD l then fp32.decode (v a.toNat l).toNat else .fin false 0 0
      let blk := encodeBlock xs fun j => rndFor f.fmt g code j false
      let bs := blockBytes blk
      (5 ≤ code → Raises (.vpackE2M1X d a m) s { code := ILLOP }) ∧
      (code < 5 → Completes (.vpackE2M1X d a m) s (((s.stepVgen f.fmt code).flag blk.2.2.2).result 4 (.vec d.toNat (overE s f m fun k =>
        BitVec.ofNat 32 (bs.getD (4 * k) 0 + bs.getD (4 * k + 1) 0 * 256 + bs.getD (4 * k + 2) 0 * 65536 + bs.getD (4 * k + 3) 0 * 16777216)))) .seq))

/-- 05 R93, 12 R203: SETFMT writes the fields of FMT and keeps its reserved bits 0; GETFMT reads it. -/
def Sys2Proof.Stmt.FormatRegister : Prop :=
  ∀ (a d : BitVec 5) (s : State) (f : Frag) (t : Tree),
    (Ready (.setfmt a) s f t →
      Completes (.setfmt a) s { s with wave := s.wave.setFrag { f with fmt := (s.wave.rs a.toNat).setWidth 32 &&& 0x000F3FFF } } .seq) ∧
    (Ready (.getfmt d) s f t → Completes (.getfmt d) s (s.result 1 (.sca d.toNat (f.fmt.setWidth 64))) .seq)

/-- 05 R90 to R93, 12 R199 to R203: conversions, packing and the format register. That %fflags gain their flags at issue is the model's reading (assumption
log 32). -/
def Obligations.ConversionAndPackResults : Prop := ConversionResults ∧ PackResults ∧ FormatRegister

/-- 12 R204, R205: shuffles read the named lane of the source, whether or not it is in E. -/
def Sys2Proof.Stmt.ShuffleResults : Prop :=
  ∀ (d a b : BitVec 6) (sc n : BitVec 5) (m : BitVec 3) (s : State) (f : Frag) (t : Tree),
    let v := s.wave.rv
    let done := fun (i : Instr) (src : Nat → Nat) =>
      Ready i s f t → Completes i s (s.result 3 (.vec d.toNat (overE s f m fun l => v a.toNat (src l)))) .seq
    done (.vshfl d a b m) (fun l => (v b.toNat l).toNat % 32) ∧ done (.vshfliXor d a m n) (fun l => (l ^^^ n.toNat) % 32) ∧
    done (.vshfliUp d a m n) (fun l => if n.toNat ≤ l then l - n.toNat else l) ∧
    done (.vshfliDown d a m n) (fun l => if l + n.toNat ≤ 31 then l + n.toNat else l) ∧
    done (.vbc d a sc m) (fun _ => (s.wave.rs sc.toNat).toNat % 32) ∧
    (∀ k, (f.mask &&& s.wave.rm m.toNat).getLsbD k = true → (∀ l < k, (f.mask &&& s.wave.rm m.toNat).getLsbD l = false) →
      done (.vfirst d a m) fun _ => k) ∧
    (f.mask &&& s.wave.rm m.toNat = 0 → done (.vfirst d a m) fun _ => 0)

/-- 12 R207 to R209: votes over the lanes of E write all 32 bits; mask logic and moves. -/
def Sys2Proof.Stmt.VoteAndMaskResults : Prop :=
  ∀ (d a b m : BitVec 3) (va : BitVec 6) (sd : BitVec 5) (s : State) (f : Frag) (t : Tree),
    let e := f.mask &&& s.wave.rm m.toNat
    let x := fun l => s.wave.rv va.toNat l
    let vote := fun (i : Instr) (p : Prop) => Ready i s f t →
      (p → Completes i s (s.result 3 (.msk d.toNat 0xFFFFFFFF)) .seq) ∧ (¬ p → Completes i s (s.result 3 (.msk d.toNat 0)) .seq)
    let done := fun (i : Instr) (r : Res) => Ready i s f t → Completes i s (s.result 1 r) .seq
    let p := s.wave.rm a.toNat
    let q := s.wave.rm b.toNat
    vote (.voteAll d va m) (∀ l < 32, e.getLsbD l = true → x l ≠ 0) ∧ vote (.voteAny d va m) (∃ l < 32, e.getLsbD l = true ∧ x l ≠ 0) ∧
    vote (.voteNone d va m) (∀ l < 32, e.getLsbD l = true → x l = 0) ∧
    vote (.voteUni d va m) (∀ l < 32, ∀ k < 32, e.getLsbD l = true → e.getLsbD k = true → x l = x k) ∧
    done (.mand d a b) (.msk d.toNat (p &&& q)) ∧ done (.mor d a b) (.msk d.toNat (p ||| q)) ∧ done (.mxor d a b) (.msk d.toNat (p ^^^ q)) ∧
    done (.mnot d a) (.msk d.toNat (~~~p)) ∧ done (.mandn d a b) (.msk d.toNat (p &&& ~~~q)) ∧
    done (.mmovs sd a) (.sca sd.toNat (p.setWidth 64)) ∧ done (.mmovm d sd) (.msk d.toNat ((s.wave.rs sd.toNat).setWidth 32)) ∧
    done (.mpopc sd a) (.sca sd.toNat (BitVec.ofNat 64 (onesCount p)))

/-- 12 R192, R196, R204 to R209: comparisons, ballot, shuffles, votes and mask logic. That %fflags gain NV at issue is the model's reading (assumption
log 32). -/
def Obligations.CompareShuffleAndVoteResults : Prop := VectorCompareResults ∧ ShuffleResults ∧ VoteAndMaskResults

/-! ## Loads, stores, patterns, atomics -/

/-- 13 R211, R217, R219 to R221: the loads: their addresses, results and post-increments; BTRY reads whether a phase has completed. -/
def Sys2Proof.Stmt.LoadResults : Prop :=
  ∀ (v b : BitVec 6) (n : BitVec 4) (k m : BitVec 3) (o inc : BitVec 4) (d q : BitVec 5) (z : BitVec 2) (x : BitVec 1) (disp : BitVec 11)
    (s : State) (f : Frag) (t : Tree),
    let w := s.wave
    let p := w.pats.get {} k.toNat
    (∀ va : Nat → Dword, (∀ l, wrap (w.ra n.toNat) (w.rk k.toNat) (BitVec.ofNat 64 (4 * l)) = some (va l)) →
      LoadsAs (.vldc v n k m o inc) s f t (lanesAt s f m va) (.lanes v.toNat) (incremented n k inc 128 s)) ∧
    (∀ a, wrap (w.ra n.toNat) (w.rk k.toNat) 0 = some a →
      LoadsAs (.vldb v n k m o inc) s f t (lanesAt s f m fun _ => a) (.lanes v.toNat) (incremented n k inc 4 s)) ∧
    (wrap (w.ra n.toNat) (w.rk k.toNat) 0 = none → Ready (.vldc v n k m o inc) s f t →
      Raises (.vldc v n k m o inc) s { code := ALIGN, lanes := if f.mask &&& w.rm m.toNat = 0 then none else some (f.mask &&& w.rm m.toNat), addr := w.ra n.toNat }) ∧
    LoadsAs (.vldg v n b m o) s f t (lanesAt s f m fun l => w.ra n.toNat + (w.rv b.toNat l).setWidth 64) (.lanes v.toNat) id ∧
    LoadsAs (.sld d n z x disp) s f t [(32, (w.ra n.toNat + disp.signExtend 64).toNat)] (.scalar d.toNat (2 ^ z.toNat) (x == 1)) id ∧
    (p.valid = false → Ready (.spld v k m) s f t → Raises (.spld v k m) s { code := HANDLE }) ∧
    (p.valid = true → LoadsAs (.spld v k m) s f t (lanesAt s f m fun l => p.cur + BitVec.ofNat 64 l * p.lstr.signExtend 64) (.lanes v.toNat)
      fun s => { s with wave := { s.wave with pats := s.wave.pats.put {} k.toNat p.advance } }) ∧
    (∀ key, OnSlice s t n 16 .read key →
      LoadsAs (.btry d n q) s f t [(32, (w.ra n.toNat).toNat)] (.btry d.toNat ((w.rs q.toNat).toNat % 4096)) id) ∧
    (∀ key, OnSlice s t n 16 .read key → Ready (.btry d n q) s f t → MayAccess s t .read 8 [(32, (w.ra n.toNat).toNat)] →
      s.laneBad s.wave.core t.n [(32, (w.ra n.toNat).toNat)] = none → ∃ s', Completes (.btry d n q) s s' .seq)

/-- 13 R211, R213, R214, R217, R219, R221: the stores: their addresses, bytes and post-increments; near outside chorus mode the bytes change at once, far a commit record
carries them; SPST through an empty pattern slot raises HANDLE. That lanes partly in the own slice make the access far is the model's
reading (assumption log 30). -/
def Obligations.StoreResults : Prop :=
  ∀ (v b : BitVec 6) (n : BitVec 4) (k m : BitVec 3) (o inc : BitVec 4) (d : BitVec 5) (z : BitVec 2) (disp : BitVec 11) (s : State) (f : Frag) (t : Tree),
    let w := s.wave
    let p := w.pats.get {} k.toNat
    let lane := fun l => (w.rv v.toNat l).toNat
    let rel := decide (o.toNat / 4 = 2)
    (∀ va : Nat → Dword, (∀ l, wrap (w.ra n.toNat) (w.rk k.toNat) (BitVec.ofNat 64 (4 * l)) = some (va l)) →
      StoresAs (.vstc v n k m o inc) s f t 4 (lanesAt s f m va) lane rel (incremented n k inc 128 s)) ∧
    StoresAs (.vstg v n b m o) s f t 4 (lanesAt s f m fun l => w.ra n.toNat + (w.rv b.toNat l).setWidth 64) lane rel id ∧
    StoresAs (.sst d n z disp) s f t (2 ^ z.toNat) [(32, (w.ra n.toNat + disp.signExtend 64).toNat)] (fun _ => (w.rs d.toNat).toNat) false id ∧
    (p.valid = false → Ready (.spst v k m) s f t → Raises (.spst v k m) s { code := HANDLE }) ∧
    (p.valid = true → StoresAs (.spst v k m) s f t 4 (lanesAt s f m fun l => p.cur + BitVec.ofNat 64 l * p.lstr.signExtend 64) lane false
      fun s => { s with wave := { s.wave with pats := s.wave.pats.put {} k.toNat p.advance } })

/-- 07 R107, R108, R212: an access that fails its check raises the highest-ranked fault of its lanes: XLATE before PERM before ALIGN; the
lane mask names the lanes that have it, and %faddr is the address of the first of them, which is the model's reading (assumption log 30). -/
def Obligations.AccessFaults : Prop :=
  ∀ (fs : List (Nat × Nat × Option (Nat × Bool))), (∀ x ∈ fs, x.1 < 32) → (∀ x ∈ fs, ∀ c b, x.2.2 = some (c, b) → c = XLATE ∨ c = PERM ∨ c = ALIGN) →
    (worst fs = none ↔ ∀ x ∈ fs, x.2.2 = none) ∧
    (∀ r, worst fs = some r →
      (∃ l va b xs ys, fs = xs ++ (l, va, some (r.code, b)) :: ys ∧ r.addr = BitVec.ofNat 64 va ∧ (∀ x ∈ xs, ∀ b, x.2.2 ≠ some (r.code, b))) ∧
      (∃ m, r.lanes = some m ∧ ∀ l < 32, m.getLsbD l = true ↔ ∃ va b, (l, va, some (r.code, b)) ∈ fs) ∧
      (∀ x ∈ fs, ∀ b, x.2.2 = some (XLATE, b) → r.code = XLATE) ∧ (∀ x ∈ fs, ∀ b, x.2.2 = some (PERM, b) → r.code = XLATE ∨ r.code = PERM))

/-- 13 R218, R220, R221: PRFC only increments its address register; SPREC loads a pattern slot from a record of the own slice; a pattern's next access. -/
def Sys2Proof.Stmt.PatternsAndPrefetch : Prop :=
  ∀ (n : BitVec 4) (k m : BitVec 3) (inc : BitVec 4) (s : State) (f : Frag) (t : Tree) (p : Pat),
    let a : Nat := (s.wave.ra n.toNat).toNat
    let w := fun j => readNat (s.nowByte s.wave.core t.n) (a + 8 * j) 8
    let slot : Pat := { base := BitVec.ofNat 64 (w 0), lstr := BitVec.ofNat 32 (w 1), astr := BitVec.ofNat 32 (w 1 / 2 ^ 32)
                        count := BitVec.ofNat 32 (w 2), i := 0, cur := BitVec.ofNat 64 (w 0), valid := true }
    let ls := [(32, a), (33, a + 8), (34, a + 16), (35, a + 24)]
    (Ready (.prfc n k m inc) s f t → Completes (.prfc n k m inc) s (incremented n k inc 128 s s) .seq) ∧
    (Ready (.sprec n k) s f t → MayAccess s t .read 8 ls → s.laneBad s.wave.core t.n ls = none → t.cmode = false → s.allNear s.wave.core t.n ls = true →
      Completes (.sprec n k) s { s with wave := { s.wave with pats := s.wave.pats.put {} k.toNat slot } } .seq) ∧
    (p.count ≠ 0 → p.i + 1 = p.count → p.advance = { p with i := 0, cur := p.base }) ∧
    (p.count = 0 ∨ p.i + 1 ≠ p.count → p.advance = { p with i := p.i + 1, cur := p.cur + p.astr.signExtend 64 })

/-- 13 R211 to R221: loads, BTRY, prefetch and pattern slots. That a wrapping pattern outside its region raises ALIGN with no lane enabled is the model's
reading (assumption log 30). -/
def Obligations.LoadAndPatternResults : Prop := LoadResults ∧ PatternsAndPrefetch

/-- 13 R222 to R225: each of the 28 atomics completes wherever its lanes may be accessed (R212) and no uncorrectable error stands in them (R216); a
release in chorus mode once every earlier effect has come (R215). -/
def Sys2Proof.Stmt.AtomicCompletions : Prop :=
  ∀ (o : BitVec 2) (v a : BitVec 6) (d q : BitVec 5) (n : BitVec 4) (sc : BitVec 3) (r : BitVec 1) (s : State) (f : Frag) (t : Tree),
    let lanes := (lanesOf f.mask).map fun l => (l, (s.wave.ra n.toNat + (s.wave.rv v.toNat l).setWidth 64).toNat)
    let one := [(32, (s.wave.ra n.toNat).toNat)]
    let may := fun (i : Instr) (size : Nat) (vas : List (Nat × Nat)) => Ready i s f t ∧ MayAccess s t .write size vas ∧
      s.laneBad s.wave.core t.n vas true = none ∧ (t.cmode = true → o.toNat < 2 ∨ s.lastEffect = none)
    (may (.atomvAddI32 o v a n sc r) 4 lanes → ∃ s', Completes (.atomvAddI32 o v a n sc r) s s' .seq) ∧
    (may (.atomvAddF32 o v a n sc r) 4 lanes → ∃ s', Completes (.atomvAddF32 o v a n sc r) s s' .seq) ∧
    (may (.atomvMinS32 o v a n sc r) 4 lanes → ∃ s', Completes (.atomvMinS32 o v a n sc r) s s' .seq) ∧
    (may (.atomvMaxS32 o v a n sc r) 4 lanes → ∃ s', Completes (.atomvMaxS32 o v a n sc r) s s' .seq) ∧
    (may (.atomvMinU32 o v a n sc r) 4 lanes → ∃ s', Completes (.atomvMinU32 o v a n sc r) s s' .seq) ∧
    (may (.atomvMaxU32 o v a n sc r) 4 lanes → ∃ s', Completes (.atomvMaxU32 o v a n sc r) s s' .seq) ∧
    (may (.atomvAnd o v a n sc r) 4 lanes → ∃ s', Completes (.atomvAnd o v a n sc r) s s' .seq) ∧
    (may (.atomvOr o v a n sc r) 4 lanes → ∃ s', Completes (.atomvOr o v a n sc r) s s' .seq) ∧
    (may (.atomvXor o v a n sc r) 4 lanes → ∃ s', Completes (.atomvXor o v a n sc r) s s' .seq) ∧
    (may (.atomvXchg o v a n sc r) 4 lanes → ∃ s', Completes (.atomvXchg o v a n sc r) s s' .seq) ∧
    (may (.atomvCas o v a n sc r) 4 lanes → ∃ s', Completes (.atomvCas o v a n sc r) s s' .seq) ∧
    (may (.atomvMaxlF16 o v a n sc r) 4 lanes → ∃ s', Completes (.atomvMaxlF16 o v a n sc r) s s' .seq) ∧
    (may (.atomvMinlF16 o v a n sc r) 4 lanes → ∃ s', Completes (.atomvMinlF16 o v a n sc r) s s' .seq) ∧
    (may (.atomvAddI64 o v a n sc r) 8 lanes → ∃ s', Completes (.atomvAddI64 o v a n sc r) s s' .seq) ∧
    (may (.atomsAddI32 o d q n sc r) 4 one → ∃ s', Completes (.atomsAddI32 o d q n sc r) s s' .seq) ∧
    (may (.atomsAddF32 o d q n sc r) 4 one → ∃ s', Completes (.atomsAddF32 o d q n sc r) s s' .seq) ∧
    (may (.atomsMinS32 o d q n sc r) 4 one → ∃ s', Completes (.atomsMinS32 o d q n sc r) s s' .seq) ∧
    (may (.atomsMaxS32 o d q n sc r) 4 one → ∃ s', Completes (.atomsMaxS32 o d q n sc r) s s' .seq) ∧
    (may (.atomsMinU32 o d q n sc r) 4 one → ∃ s', Completes (.atomsMinU32 o d q n sc r) s s' .seq) ∧
    (may (.atomsMaxU32 o d q n sc r) 4 one → ∃ s', Completes (.atomsMaxU32 o d q n sc r) s s' .seq) ∧
    (may (.atomsAnd o d q n sc r) 4 one → ∃ s', Completes (.atomsAnd o d q n sc r) s s' .seq) ∧
    (may (.atomsOr o d q n sc r) 4 one → ∃ s', Completes (.atomsOr o d q n sc r) s s' .seq) ∧
    (may (.atomsXor o d q n sc r) 4 one → ∃ s', Completes (.atomsXor o d q n sc r) s s' .seq) ∧
    (may (.atomsXchg o d q n sc r) 4 one → ∃ s', Completes (.atomsXchg o d q n sc r) s s' .seq) ∧
    (may (.atomsCas o d q n sc r) 4 one → ∃ s', Completes (.atomsCas o d q n sc r) s s' .seq) ∧
    (may (.atomsMaxlF16 o d q n sc r) 4 one → ∃ s', Completes (.atomsMaxlF16 o d q n sc r) s s' .seq) ∧
    (may (.atomsMinlF16 o d q n sc r) 4 one → ∃ s', Completes (.atomsMinlF16 o d q n sc r) s s' .seq) ∧
    (may (.atomsAddI64 o d q n sc r) 8 one → ∃ s', Completes (.atomsAddI64 o d q n sc r) s s' .seq)

/-- 13 R214, R222 to R225: every ATOMV acts on each lane of the fragment at an + ZeroExtend(vt), every ATOMS once at an, with the operands of their
operation; %fc rises; near outside chorus mode the lanes act at once and the old values land as their windows end (R125; the model's reading, assumption
log 65), in chorus mode 8 counts after the issue; far, a commit record carries the access. -/
def Sys2Proof.Stmt.AtomicEffects : Prop :=
  ∀ x ∈ atomics, ∀ (o : BitVec 2) (v a : BitVec 6) (d q : BitVec 5) (n : BitVec 4) (sc : BitVec 3) (r : BitVec 1) (s : State) (f : Frag) (t : Tree),
    let w := s.wave
    let lo := fun l => (w.rv a.toNat l).setWidth 64
    let hi := fun l => (w.rv (a.toNat + 1) l).setWidth 64
    ActsAtomically (x.1 o v a n sc r) s f t x.2.2 sc.toNat
      ((lanesOf f.mask).map fun l => (l, (w.ra n.toNat + (w.rv v.toNat l).setWidth 64).toNat,
        if x.2.2 = 13 then (hi l <<< 32) ||| lo l else lo l, if x.2.2 = 10 then hi l else 0))
      (if r = 0 then .nothing else if x.2.2 = 13 then .pairs v.toNat else .lanes v.toNat) (decide (2 ≤ o.toNat)) ∧
    ActsAtomically (x.2.1 o d q n sc r) s f t x.2.2 sc.toNat
      [(32, (w.ra n.toNat).toNat, w.rs q.toNat, if x.2.2 = 10 then w.rs (q.toNat + 1) else 0)]
      (if r = 0 then .nothing else .scalar d.toNat (if x.2.2 = 13 then 8 else 4) false) (decide (2 ≤ o.toNat))

/-- 13 R214, R222 to R225: the atomics: what they do to memory, %fc and their registers, and that each of them completes. Near outside chorus mode the
count at which the old values land is the model's reading of R125 (assumption log 65). -/
def Obligations.AtomicResults : Prop := AtomicEffects ∧ AtomicCompletions

/-- 13 R222, R224, Table 13-4: one lane of an atomic on a word of the own slice where no uncorrectable error stands (R216): the old value is answered, and
the word then holds the new one. -/
def Sys2Proof.Stmt.AtomicLane : Prop :=
  ∀ (s : State) (core n va l : Nat) (x c : Dword), va % 8 = 0 → va < 0x27C000 → s.badVa core n va true = false →
    let old := fun size => readNat (s.nowByte core n) va size
    (∀ p ∈ atomicWords, (s.atomicLanes core n p.1 [(l, va, x, c)]).2 = [(l, old 4)] ∧
      readNat ((s.atomicLanes core n p.1 [(l, va, x, c)]).1.nowByte core n) va 4 = (p.2 (BitVec.ofNat 32 (old 4)) (x.setWidth 32) (c.setWidth 32)).toNat) ∧
    (s.atomicLanes core n 13 [(l, va, x, c)]).2 = [(l, old 8)] ∧
    readNat ((s.atomicLanes core n 13 [(l, va, x, c)]).1.nowByte core n) va 8 = (BitVec.ofNat 64 (old 8) + x).toNat

/-- 13 R222 to R225, Table 13-4: each of the 28 atomics completes wherever its lanes may be accessed, and one lane of it on a word of the own slice
answers the old value and leaves the new one. -/
def Obligations.AtomicWord : Prop := AtomicCompletions ∧ AtomicLane

/-! ## Barriers, monitors, fences, scheduling -/

/-- 07 R122, Table 7-4: an update of a barrier object: arrivals leave PEND, bytes join BYTES, and at zero of both the phase completes: PHASE + 1 modulo
4096, PEND reloaded. -/
def Sys2Proof.Stmt.BarrierUpdates : Prop :=
  ∀ (w0 : Nat) (by' add : Dword) (n : Nat), w0 < 2 ^ 64 → n ≤ 1 → n ≤ barPend w0 →
    let bs := (barrierUpdate w0 by' n add).1
    let z := field bs 0 8
    bs.length = 16 ∧ barReload z = barReload w0 ∧ BitVec.ofNat 64 (field bs 8 8) = by' + add ∧
    (barPend w0 = n → by' + add = 0 → barPhase z = (barPhase w0 + 1) % 4096 ∧ barPend z = barReload w0) ∧
    (barPend w0 ≠ n ∨ by' + add ≠ 0 → barPhase z = barPhase w0 ∧ barPend z = barPend w0 - n)

/-- 13 R216, R228, R229: BINIT, BARX, BARV, BWAIT and WAITC on a word of a slice: their effects outside chorus mode, HANDLE for a bad reload or an
arrival at PEND zero, MEMERR where an uncorrectable error stands in a word they reach at once, what they wait for, and that they complete once it has
held. In chorus mode BINIT and BARX send their effect and complete. -/
def Obligations.BarrierAndMonitorResults : Prop :=
  ∀ (n : BitVec 4) (b : BitVec 5) (sc c : BitVec 3) (r wd : BitVec 1) (s : State) (f : Frag) (t : Tree) (key : Nat),
    let x := s.wave.rs b.toNat
    let near := s.nearKey key = true
    let good := s.nearKey key = true → s.badKey key = false
    let away := s.heldSlice (key / 0x400000) t.id
    let w0 := (s.barrierWords key).1
    let obj := (s.barrierWords key).2
    let v := fun size => if s.nearKey key = true ∨ t.cmode = true then s.monitorNat t.cmode s.wave.core key size
      else readNat (s.farByte t s.wave) (s.wave.ra n.toNat).toNat size
    let put := fun (bs : List Byte) => s.slicePutNear key bs
    (∀ bs, (put bs).slices = s.slices.puts emptyByte key bs ∧ (put bs).mem = s.mem) ∧
    (OnSlice s t n 16 .write key → good →
      (Ready (.binit n b sc) s f t →
        (x.toNat = 0 ∨ 2 ^ 20 ≤ x.toNat → Raises (.binit n b sc) s { code := HANDLE, fdat := BitVec.ofNat 64 (barPhase w0) }) ∧
        (0 < x.toNat → x.toNat < 2 ^ 20 →
          (t.cmode = false → near → Completes (.binit n b sc) s (put (binitBytes sc.toNat x.toNat)) .seq) ∧
          (t.cmode = false → ¬ near → ∃ e, Completes (.binit n b sc) s (s.addCommit t e) .seq) ∧ (t.cmode = true → ∃ s', Completes (.binit n b sc) s s' .seq))) ∧
      (Ready (.barx n b r) s f t → s.wave.ticket ≠ some .done →
        (t.cmode = false → near → barPend w0 = 0 → Raises (.barx n b r) s { code := HANDLE, fdat := BitVec.ofNat 64 (barPhase w0) }) ∧
        (t.cmode = false → near → barPend w0 ≠ 0 →
          let u := barrierUpdate w0 obj 1 x
          Completes (.barx n b r) s ((put u.1).underflow key s.waveEntry u.1 u.2) .seq) ∧
        (t.cmode = false → ¬ near → Completes (.barx n b r) s (s.addCommit t (.arrive key (some x)) r.toNat) .seq) ∧
        (t.cmode = true → r = 0 ∨ s.releaseBusy t (s.wave.ra n.toNat).toNat = false → ∃ s', Completes (.barx n b r) s s' .seq)) ∧
      (Ready (.barv n r) s f t → s.wave.ticket ≠ some .done → t.cmode = false → near →
        (barPend w0 = 0 → Raises (.barv n r) s { code := HANDLE, fdat := BitVec.ofNat 64 (barPhase w0) }) ∧
        (barPend w0 = 1 → obj = 0 → Completes (.barv n r) s (put (barrierUpdate w0 obj 1 0).1) .seq) ∧
        (barPend w0 ≠ 0 → barPend w0 ≠ 1 ∨ obj ≠ 0 → ∃ s' : State, exec (.barv n r) s = .next s' ∧ s'.wave.wait = .phase key (barPhase w0) ∧
          s'.slices = s.slices.puts emptyByte key (barrierUpdate w0 obj 1 0).1))) ∧
    (OnSlice s t n 16 .write key → near → s.badKey key = true →
      (Ready (.binit n b sc) s f t → MeetsError (.binit n b sc) s t n) ∧
      (s.wave.ticket ≠ some .done → (Ready (.barx n b r) s f t → MeetsError (.barx n b r) s t n) ∧ (Ready (.barv n r) s f t → MeetsError (.barv n r) s t n))) ∧
    (OnSlice s t n 16 .write key → good → Ready (.binit n b sc) s f t → 0 < x.toNat → x.toNat < 2 ^ 20 → ∃ s', Completes (.binit n b sc) s s' .seq) ∧
    (OnSlice s t n 16 .write key → good → Ready (.barx n b r) s f t → (t.cmode = false → near → barPend w0 ≠ 0) →
      (t.cmode = true → r = 0 ∨ s.releaseBusy t (s.wave.ra n.toNat).toNat = false) → ∃ s', Completes (.barx n b r) s s' .seq) ∧
    (Ready (.barv n r) s f t → s.wave.ticket = some .done → Completes (.barv n r) s s .seq) ∧
    (Ready (.bwait n b) s f t → (s.wave.ticket = some .done → Completes (.bwait n b) s s .seq) ∧
      (OnSlice s t n 16 .read key → s.wave.ticket ≠ some .done →
        let done := phaseDone (s.monitorNat t.cmode s.wave.core key 8 % 4096) (x.toNat % 4096)
        (away = true → exec (.bwait n b) s = .next s.stall) ∧
        (away = false → s.badKey key = true → MeetsError (.bwait n b) s t n) ∧
        (away = false → s.badKey key = false → done = true → Completes (.bwait n b) s s .seq) ∧
        (away = false → s.badKey key = false → done = false →
          ∃ s' : State, exec (.bwait n b) s = .next s' ∧ s'.wave.wait = .phase key (x.toNat % 4096)))) ∧
    (Ready (.waitc n b c wd) s f t → (s.wave.ticket = some .done → Completes (.waitc n b c wd) s s .seq) ∧
      (OnSlice s t n (if wd = 1 then 8 else 4) .read key → s.wave.ticket ≠ some .done →
        let met := if wd = 1 then scalarCond c.toNat (BitVec.ofNat 64 (v 8)) x else scalarCond c.toNat (BitVec.ofNat 32 (v 4)) (x.setWidth 32)
        (away = true → exec (.waitc n b c wd) s = .next s.stall) ∧
        (away = false → s.badKey key = true → MeetsError (.waitc n b c wd) s t n) ∧
        (away = false → s.badKey key = false → met = true → Completes (.waitc n b c wd) s s .seq) ∧
        (away = false → s.badKey key = false → met = false →
          ∃ s' : State, exec (.waitc n b c wd) s = .next s' ∧ s'.wave.wait = .word key c.toNat (wd == 1) x)))

/-- 13 R228: phase p has completed when PHASE has moved on from p by 1 to 2047 counts, modulo 4096. -/
def Sys2Proof.Stmt.PhaseComparison : Prop :=
  ∀ phase p : Nat, phase < 4096 → p < 4096 → (phaseDone phase p = true ↔ ∃ d, 1 ≤ d ∧ d ≤ 2047 ∧ phase = (p + d) % 4096)

/-- 07 R122, 13 R228: an update of a barrier object, and when a phase has completed. -/
def Obligations.BarrierObjects : Prop := BarrierUpdates ∧ PhaseComparison

/-- 13 R231, 14 R240: BARG raises PERM in a split wave and in handler state and BARGNE without co-residency or in a child grid; it waits for the next
generation of the grid's barrier, and completes once that has come. In chorus mode it first waits for every earlier effect (R215). -/
def Sys2Proof.Stmt.GridBarrier : Prop :=
  ∀ (s : State) (f : Frag) (t : Tree) (g : Grid), Ready .barg s f t → t.grid? s.wave.grid = some g →
    let whole := s.wave.hnd = false ∧ s.wave.getSlot (!s.wave.cur) = none ∧ s.wave.depth = 0
    (¬ whole → Raises .barg s { code := PERM }) ∧
    (whole → (s.wave.grid ≠ 0 ∨ (t.cmode = false ∧ t.coRes = false)) → Raises .barg s { code := BARGNE }) ∧
    (whole → s.wave.grid = 0 → (t.cmode = true ∨ t.coRes = true) →
      (s.wave.ticket = some .done → Completes .barg s s .seq) ∧
      (s.wave.ticket ≠ some .done → t.cmode = false → MayAccess s t .read 1 [] →
        exec .barg s = .next ((s.addCommit t .barg).waitFor false (.grid g.bargGen))) ∧
      (s.wave.ticket ≠ some .done → t.cmode = true → MayAccess s t .read 1 [] → s.lastEffect ≠ none → exec .barg s = .next s.stall) ∧
      (s.wave.ticket ≠ some .done → t.cmode = true → MayAccess s t .read 1 [] → s.lastEffect = none → ∃ s', exec .barg s = .next s'))

/-- 13 R226, R227, 07 R123: FENCE waits only in chorus mode, FENCE.SC ends the quantum, drains and waits for the tick and then acts as a FENCE at DOMAIN, FWAITC waits for %fc = 0
(with accesses of several quanta outstanding it stalls, the model's reading, assumption log 31); each completes when there is nothing to wait for. -/
def Sys2Proof.Stmt.FenceResults : Prop :=
  ∀ (sc : BitVec 3) (s : State) (f : Frag) (t : Tree),
    (Ready (.fence sc) s f t → (t.cmode = false ∨ sc = 0 ∨ s.effectsDue = false → Completes (.fence sc) s s .seq) ∧
      (t.cmode = true → sc ≠ 0 → s.effectsDue = true → exec (.fence sc) s = .next s.stall)) ∧
    (Ready .fenceSc s f t →
      (s.wave.ticket = some .done → t.cmode = false ∨ s.effectsDue = false → Completes .fenceSc s s .seq) ∧
      (s.wave.ticket = some .done → t.cmode = true → s.effectsDue = true → exec .fenceSc s = .next s.stall) ∧
      (s.wave.ticket = none → t.cmode = false → exec .fenceSc s = .next s.endQuantum) ∧
      (s.wave.ticket = some .ended ∨ (s.wave.ticket = none ∧ t.cmode = true) →
        ∃ s' : State, exec .fenceSc s = .next s' ∧ s'.wave.ticket = some .drain ∧ s'.wave.frag = some f)) ∧
    (Ready .fwaitc s f t → s.wave.farError = none →
      (s.wave.fc = 0 → Completes .fwaitc s s .seq) ∧
      (s.wave.fc ≠ 0 → t.cmode = false → (∀ x ∈ s.wave.far, x.quantum = some s.wave.qnt) → Completes .fwaitc s s .sync) ∧
      (s.wave.fc ≠ 0 → (t.cmode = true ∨ ∃ x ∈ s.wave.far, x.quantum ≠ some s.wave.qnt) → exec .fwaitc s = .next s.stall))

/-- 03 R44, R72, 13 R233, 03 Table 3-2: YIELD and QEND give way and end the quantum outside chorus mode and do nothing in it; DISPRE opens a window and
does not extend an open one; ENPRE closes it. -/
def Sys2Proof.Stmt.SchedulingResults : Prop :=
  ∀ (s : State) (f : Frag) (t : Tree),
    (Ready .yield s f t → Completes .yield s s (if t.cmode then .seq else .yield)) ∧
    (Ready .qend s f t → Completes .qend s s (if t.cmode then .seq else .quit)) ∧
    (Ready .dispre s f t → Completes .dispre s { s with wave := { s.wave with dispre := some (s.wave.dispre.getD 0) } } .seq) ∧
    (Ready .enpre s f t → Completes .enpre s { s with wave := { s.wave with dispre := none } } .seq)

/-- 03 R44, R72, 13 R226, R227, R231, R233: BARG, the fences, YIELD, QEND and the non-preemption window. -/
def Obligations.GridBarrierFenceAndScheduling : Prop := GridBarrier ∧ FenceResults ∧ SchedulingResults

/-- 13 R234, 03 R57, R68: EXIT ends the lanes of its fragment; the wave's last lanes wait for far accesses (R227) and matrix instructions (16 R265) and raise what
stands open: HANDLE for an open operator (17 R297), ACLEAK for owned banks (R68). Where both stand HANDLE comes first, which is the model's choice
(assumption log 66). -/
def Obligations.ExitResults : Prop :=
  ∀ (s : State) (f : Frag) (t : Tree), Ready .exit s f t →
    let w := s.wave
    let idle := w.farError = none ∧ w.fc = 0 ∧ w.engErrs = [] ∧ ∀ o ∈ (s.core w.core).ops, o.wid = w.wid → o.tree = w.tree → o.comp < s.chc
    let owns := ∃ m, s.team? w = some m ∧ ∃ x ∈ m.owners, x.2 = w.tw + 1
    (w.live &&& ~~~f.mask ≠ 0 → Completes .exit s s .exit) ∧
    (w.live &&& ~~~f.mask = 0 → idle → w.op ≠ none → Raises .exit s { code := HANDLE }) ∧
    (w.live &&& ~~~f.mask = 0 → idle → w.op = none → owns → Raises .exit s { code := ACLEAK }) ∧
    (w.live &&& ~~~f.mask = 0 → idle → w.op = none → ¬ owns → Completes .exit s (s.attribute fun o => o.wid == w.wid && o.tree == w.tree) .exit) ∧
    (w.live &&& ~~~f.mask = 0 → w.farError = none → w.fc ≠ 0 → (t.cmode = true ∨ ∀ x ∈ w.far, x.quantum ≠ some w.qnt) → exec .exit s = .next s.stall)

/-! ## Accumulators, weight planes, matrix operations -/

/-- 16 R257 to R259: ACQ answers the lowest run of free banks of the team's pool and gives them to the wave, or raises ACBANK; ACREL waits for the
matrix instructions on its banks, attributes their writes and frees the banks, or raises ACBANK. -/
def Sys2Proof.Stmt.BankAllocation : Prop :=
  ∀ (d a b : BitVec 5) (s : State) (f : Frag) (t : Tree) (m : Team), s.team? s.wave = some m →
    let c := (s.wave.rs a.toNat).toNat
    let n := (s.wave.rs b.toNat).toNat
    let free := fun x k => ∀ i < k, m.owners.get 0 (x + i) = 0
    (Ready (.acq d a) s f t →
      (c = 0 ∨ m.a < c → Raises (.acq d a) s { code := ACBANK }) ∧
      (0 < c → (∀ x, x + c ≤ m.a → ¬ free x c) → Raises (.acq d a) s { code := ACBANK }) ∧
      (∀ x, 0 < c → x + c ≤ m.a → free x c → (∀ y < x, ¬ free y c) →
        Completes (.acq d a) s ((s.updTeam s.wave fun m => m.setOwner (s.wave.tw + 1) x c).result 1 (.sca d.toNat (BitVec.ofNat 64 x))) .seq)) ∧
    (Ready (.acrel a b) s f t →
      let owned := 0 < n ∧ c + n ≤ m.a ∧ ∀ i < n, m.owners.get 0 (c + i) = s.wave.tw + 1
      let mine := fun o : MatOp => o.names (m.abase + c) n
      let busy := ∃ o ∈ (s.core s.wave.core).ops, mine o = true ∧ s.chc ≤ o.comp
      (¬ owned → Raises (.acrel a b) s { code := ACBANK }) ∧ (owned → busy → exec (.acrel a b) s = .next s.stall) ∧
      (owned → ¬ busy → Completes (.acrel a b) s ((s.attribute mine).updTeam s.wave fun m => m.setOwner 0 c n) .seq))

/-- 16 R257, R261, R264, R266 to R271, R274: each matrix and accumulator instruction, when its format is allowed, its tile is the wave's own, its operand
is good, the words it reads are without error and nothing holds it up, completes with a handle of its own in flight to its handle register; another format raises ILLOP, another tile ACBANK. -/
def Sys2Proof.Stmt.MatrixCompletions : Prop :=
  ∀ (h n : BitVec 4) (b : BitVec 5) (k m : BitVec 3) (tr ow e : BitVec 1) (s : State) (f : Frag) (t : Tree) (team : Team),
    let w := s.wave
    let bank := (w.rs b.toNat).toNat
    let a := w.ra n.toNat
    let kv := w.rk k.toNat
    let c := s.core w.core
    let done := fun (i : Instr) => ∃ (s' : State) (x : Nat), Completes i s s' .seq ∧ s'.wave.flight = w.flight ++ [{ slot := w.cur, left := 1, res := .hnd h.toNat (some x) }]
    let tile := fun (i : Instr) (kind : MKind) (len : Nat) (reads ok : Bool) => Ready i s f t →
      (ok = false → Raises i s { code := ILLOP }) ∧
      (ok = true → s.team? w = some team → team.owns w.tw bank 4 = false → Raises i s { code := ACBANK }) ∧
      (ok = true → OwnsTile s team bank → (len ≠ 0 → s.operandFault t a kv len 16 = none) →
        MatrixMay s t kind len reads (operandOffs a kv len) →
        (kind = .acrd ∨ kind = .accvt ∨ (kind = .mma ∧ ow = 0) → CleanTile s team bank (f.mask &&& w.rm m.toNat)) → done i)
    let rowLen := (accvtRow (fmtC f.fmt) (fmtA f.fmt)).getD 0
    let p := c.plane c.active
    tile (.aczero h b m) .aczero 0 false true ∧ tile (.acrd h b n k m) .acrd 8192 false true ∧ tile (.acwr h b n k m) .acwr 8192 true true ∧
    tile (.accvt h b n k m) .accvt (32 * rowLen) false (accvtOk f.fmt) ∧
    tile (.mma h b n k m tr ow e) .mma (operandLen (fmtA f.fmt) (fmtScale f.fmt) 32) true
      (mmaAllowed (fmtA f.fmt) p.bfmt (fmtScale f.fmt) (fmtC f.fmt) && decide (p.scale = fmtScale f.fmt) && !(tr == 1 && decide (fmtA f.fmt = E2M1XC))) ∧
    (Ready (.ldsw h n k tr e) s f t →
      let len := operandLen (fmtB f.fmt) (fmtScale f.fmt) 64
      (ldswOk f.fmt (tr == 1) = false → Raises (.ldsw h n k tr e) s { code := ILLOP }) ∧
      (ldswOk f.fmt (tr == 1) = true → s.operandFault t a kv len 16 = none → MatrixMay s t .ldsw len true (operandOffs a kv len) →
        (t.cmode = false ∨ c.drainEnd (!c.active) ≤ max (s.chc + 2) (c.busyEnd true)) → done (.ldsw h n k tr e))) ∧
    (Ready (.swapw h) s f t → MatrixMay s t .swapw 0 false [] → done (.swapw h))

/-- 16 R261, R264, R266 to R271, R274: the same form by form: ACZERO, ACRD, ACWR, ACCVT, MMA, LDSW and SWAPW each complete. -/
def Sys2Proof.Stmt.MatrixFormsComplete : Prop :=
  ∀ (h n : BitVec 4) (b : BitVec 5) (k m : BitVec 3) (tr ow e : BitVec 1) (s : State) (f : Frag) (t : Tree) (team : Team),
    let a := s.wave.ra n.toNat
    let kv := s.wave.rk k.toNat
    let c := s.core s.wave.core
    let p := c.plane c.active
    let own := OwnsTile s team (s.wave.rs b.toNat).toNat
    let clean := CleanTile s team (s.wave.rs b.toNat).toNat (f.mask &&& s.wave.rm m.toNat)
    let may := fun (kind : MKind) (len : Nat) (reads : Bool) => s.operandFault t a kv len 16 = none ∧ MatrixMay s t kind len reads (operandOffs a kv len)
    let left := operandLen (fmtA f.fmt) (fmtScale f.fmt) 32
    let right := operandLen (fmtB f.fmt) (fmtScale f.fmt) 64
    (Ready (.aczero h b m) s f t → own → MatrixMay s t .aczero 0 false (operandOffs a kv 0) → ∃ s', Completes (.aczero h b m) s s' .seq) ∧
    (Ready (.acrd h b n k m) s f t → own → clean → may .acrd 8192 false → ∃ s', Completes (.acrd h b n k m) s s' .seq) ∧
    (Ready (.acwr h b n k m) s f t → own → may .acwr 8192 true → ∃ s', Completes (.acwr h b n k m) s s' .seq) ∧
    (Ready (.accvt h b n k m) s f t → accvtOk f.fmt = true → own → clean → may .accvt (32 * (accvtRow (fmtC f.fmt) (fmtA f.fmt)).getD 0) false →
      ∃ s', Completes (.accvt h b n k m) s s' .seq) ∧
    (Ready (.mma h b n k m tr ow e) s f t → mmaAllowed (fmtA f.fmt) p.bfmt (fmtScale f.fmt) (fmtC f.fmt) = true → p.scale = fmtScale f.fmt →
      ¬ (tr = 1 ∧ fmtA f.fmt = E2M1XC) → own → (ow = 0 → clean) → may .mma left true → ∃ s', Completes (.mma h b n k m tr ow e) s s' .seq) ∧
    (Ready (.ldsw h n k tr e) s f t → ldswOk f.fmt (tr == 1) = true → may .ldsw right true →
      (t.cmode = false ∨ c.drainEnd (!c.active) ≤ max (s.chc + 2) (c.busyEnd true)) → ∃ s', Completes (.ldsw h n k tr e) s s' .seq) ∧
    (Ready (.swapw h) s f t → MatrixMay s t .swapw 0 false [] → ∃ s', Completes (.swapw h) s s' .seq)

/-- 16 R256 to R274: banks are acquired and released; each matrix instruction completes with a handle. That the times of Table 16-5 are counted in
L-mode too, when an entry of a queue frees, the code of an operand that no page maps, and what an uncorrectable error in an accumulator word does are the
model's choices (assumption logs 13, 46, 47, 78). -/
def Obligations.BanksAndMatrixCompletions : Prop := BankAllocation ∧ MatrixCompletions ∧ MatrixFormsComplete

/-- 16 R267: SWAPW exchanges the planes at once: the shadow plane is the active one for what issues next. -/
def Sys2Proof.Stmt.SwapChangesThePlane : Prop :=
  ∀ (h : BitVec 4) (s : State) (f : Frag) (t : Tree), Ready (.swapw h) s f t → MatrixMay s t .swapw 0 false [] →
    ∃ s' : State, Completes (.swapw h) s s' .seq ∧ (s'.core s.wave.core).active = !(s.core s.wave.core).active ∧
      (s'.core s.wave.core).plane0 = (s.core s.wave.core).plane0 ∧ (s'.core s.wave.core).plane1 = (s.core s.wave.core).plane1 ∧ s'.accs = s.accs

/-- 16 R256, R269: outside chorus mode ACZERO clears the rows of E of its tile and leaves every other word of the accumulators as it was. -/
def Sys2Proof.Stmt.ZeroClearsItsRows : Prop :=
  ∀ (h : BitVec 4) (b : BitVec 5) (m : BitVec 3) (s : State) (f : Frag) (t : Tree) (team : Team), Ready (.aczero h b m) s f t → t.cmode = false →
    s.wave.slot < 16 → OwnsTile s team (s.wave.rs b.toNat).toNat → MatrixMay s t .aczero 0 false [] →
    let cleared := fun key => ∃ r n, r < 32 ∧ n < 64 ∧ (f.mask &&& s.wave.rm m.toNat).getLsbD r = true ∧
      key = tileKey s.wave.core (team.abase + (s.wave.rs b.toNat).toNat) r n
    ∃ s' : State, Completes (.aczero h b m) s s' .seq ∧ s'.mem = s.mem ∧ s'.slices = s.slices ∧
      (∀ key, cleared key → s'.accs.get 0 key = 0) ∧ ∀ key, ¬ cleared key → s'.accs.get 0 key = s.accs.get 0 key

/-- 16 R267, R269: SWAPW exchanges the planes; ACZERO clears the rows of E. -/
def Obligations.MatrixStateEffects : Prop := SwapChangesThePlane ∧ ZeroClearsItsRows

/-! ## Futures -/

/-- 16 R275 to R278: FWAIT completes when every part of the handle is complete, giving way in L-mode where one is a child grid's (03 Table 3-2), and
raises FUTCAN on a cancelled one, with the number of the handle register in %fdat (the model's choice, assumption log 56); FTEST answers 1, 2 or 0; FCANCEL
marks the entry; FMOV copies; FBIND binds two handles under a free entry. -/
def Obligations.FutureResults : Prop :=
  ∀ (h d a : BitVec 4) (r : BitVec 5) (s : State) (f : Frag) (t : Tree),
    let c := s.core s.wave.core
    let x := s.wave.rh h.toNat
    let get := fun j => c.handles.get {} j
    let parts := fun i => c.leaves bindDepth i
    let done := fun j => (get j).complete s.chc = true
    (Ready (.fwait h) s f t →
      (x = none → Completes (.fwait h) s s .seq) ∧
      (∀ i, x = some i → c.cancelled bindDepth i = true → Raises (.fwait h) s { code := FUTCAN, fdat := h.setWidth 64 }) ∧
      (∀ i, x = some i → c.cancelled bindDepth i = false → s.wave.errorOn (parts i) = none → (∀ j ∈ parts i, done j) →
        (t.cmode = true ∨ ∀ j ∈ parts i, (get j).quantum ≠ s.wave.qnt ∨ ((get j).kind ≠ 4 ∧ (get j).kind ≠ 5 ∧ (get j).kind ≠ 6)) →
        Completes (.fwait h) s (s.finishWait (parts i))
          (if t.cmode = false ∧ s.wave.ticket ≠ some .done ∧ ∃ j ∈ parts i, (get j).kind = 6 then .choose else .seq)) ∧
      (∀ i, x = some i → c.cancelled bindDepth i = false → t.cmode = false → (∃ j ∈ parts i, (get j).kind ≠ 6 ∧ ¬ done j) →
        (∀ j ∈ parts i, (get j).quantum ≠ s.wave.qnt) → exec (.fwait h) s = .next s.stall)) ∧
    (Ready (.ftest r h) s f t → ∀ v : Dword,
      (x = none → v = 1) → (∀ i, x = some i → c.cancelled bindDepth i = true → v = 2) →
      (∀ i, x = some i → c.cancelled bindDepth i = false → v = if ∀ j ∈ parts i, (get j).complete s.chc = true then 1 else 0) →
      Completes (.ftest r h) s (s.result 1 (.sca r.toNat v)) .seq) ∧
    (Ready (.fcancel h) s f t → (x = none → Completes (.fcancel h) s s .seq) ∧
      (∀ i, x = some i → Completes (.fcancel h) s (s.updHandle s.wave.core i fun y => { y with state := 2, flags := 0 }) .seq)) ∧
    (Ready (.fmov d a) s f t → Completes (.fmov d a) s (s.result 1 (.hnd d.toNat (s.wave.rh a.toNat))) .seq) ∧
    (Ready (.fbind d a) s f t →
      (s.wave.rh d.toNat = none → Completes (.fbind d a) s (s.result 1 (.hnd d.toNat (s.wave.rh a.toNat))) .seq) ∧
      (∀ p, s.wave.rh d.toNat = some p → s.wave.rh a.toNat = none → Completes (.fbind d a) s s .seq) ∧
      (∀ p q i, s.wave.rh d.toNat = some p → s.wave.rh a.toNat = some q → s.freeHandle s.wave.core = some i →
        Completes (.fbind d a) s ((s.putHandle s.wave.core i { kind := 7, partA := p, partB := q, wid := s.wave.wid, tree := s.wave.tree }).result 1
          (.hnd d.toNat (some i))) .seq))

/-! ## Buffer table, engines, publication, operators, launches -/

/-- 07 R130, 17 R285, R290, R291: the buffer table: DHSET claims a free entry, DHWAIT and DHGET wait for it to fill, DHGET takes it, DHREL frees it; any
other state raises HANDLE. -/
def Sys2Proof.Stmt.BufferTable : Prop :=
  ∀ (a b d : BitVec 5) (s : State) (f : Frag) (t : Tree),
    let x := (s.wave.rs a.toNat).toNat
    let n := (s.wave.rs b.toNat).toNat
    let e := (s.core s.wave.core).bufs.get {} x
    let waited := if t.cmode then s.wave.ticket ≠ some .waiting ∨ e.since < s.chc else s.wave.ticket = some .ended
    let bad := fun (i : Instr) => Raises i s { code := HANDLE }
    (Ready (.dhset a b) s f t → (64 ≤ x ∨ e.state ≠ 0 ∨ n = 0 ∨ 2 ^ 24 ≤ n → bad (.dhset a b)) ∧
      (x < 64 → e.state = 0 → 0 < n → n < 2 ^ 24 → Completes (.dhset a b) s (s.setBuf x { state := 1, expect := n, tree := t.id }) .seq)) ∧
    (Ready (.dhwait a) s f t → (64 ≤ x → bad (.dhwait a)) ∧
      (x < 64 → t.cmode = false → s.wave.ticket ≠ some .ended → exec (.dhwait a) s = .next s.endQuantum) ∧
      (x < 64 → waited → e.state = 0 → bad (.dhwait a)) ∧ (x < 64 → waited → 2 ≤ e.state → Completes (.dhwait a) s s .seq)) ∧
    (Ready (.dhget d a) s f t → (64 ≤ x → bad (.dhget d a)) ∧ (x < 64 → waited → e.state = 0 ∨ 3 ≤ e.state → bad (.dhget d a)) ∧
      (x < 64 → waited → e.state = 2 →
        Completes (.dhget d a) s ((s.setBuf x { e with state := 3 }).result 1 (.sca d.toNat (BitVec.ofNat 64 e.target))) .seq)) ∧
    (Ready (.dhrel a) s f t → (64 ≤ x ∨ e.state ≠ 3 → bad (.dhrel a)) ∧ (x < 64 → e.state = 3 → Completes (.dhrel a) s (s.setBuf x {}) .seq))

/-- 17 R286 to R288, R292: CPYQ hands its packet, with START replaced, to the channel its selector names: a commit record outside chorus mode, a request
in the channel's queue in it; a refused packet raises HANDLE. WPTR answers the progress of a copy. -/
def Sys2Proof.Stmt.EngineCommands : Prop :=
  ∀ (h n : BitVec 4) (a b d : BitVec 5) (s : State) (f : Frag) (t : Tree),
    let w := s.wave
    let sel := (w.rs b.toNat).toNat
    let at_ := (w.rs a.toNat).toNat
    let p := (recordBytes s t n 64).take 4 ++ leBytes 4 at_ ++ (recordBytes s t n 64).drop 8
    let chan := chanKey t.desk (coreDie w.core) (sel % 16) (sel / 16)
    let ok := sel < 64 ∧ at_ < 2 ^ 32 ∧ pPhase p ≠ 1 ∧ s.packetRefused (some w.core) t.desk t.n t.code.stencils p = false
    let start := if at_ = 0 then s.chc + 16 else t.base + at_
    (Ready (.cpyq h n a b) s f t → RecordMay s t n 64 →
      (¬ ok → Raises (.cpyq h n a b) s { code := HANDLE }) ∧
      (ok → t.cmode = false → h = 0 → Completes (.cpyq h n a b) s (s.addCommit t (.engine p chan none at_)) .seq) ∧
      (ok → t.cmode = false → HandleMay s h → ∃ s', Completes (.cpyq h n a b) s s' .seq) ∧
      (ok → t.cmode = true → (start < s.chc + 16 ∨ 16 ≤ (s.chan chan).queue.length) → Raises (.cpyq h n a b) s { code := TLATE }) ∧
      (ok → t.cmode = true → s.chc + 16 ≤ start → (s.chan chan).queue.length < 16 → (s.chan chan).delayed = [] → h = 0 → ∃ s' : State, Completes (.cpyq h n a b) s s' .seq ∧
        ∃ r, (s'.chan chan).queue = (s.chan chan).queue ++ [r] ∧ r.packet = p ∧ r.start = some start) ∧
      (ok → t.cmode = true → s.chc + 16 ≤ start → (s.chan chan).queue.length < 16 → HandleMay s h → ∃ s', Completes (.cpyq h n a b) s s' .seq)) ∧
    (Ready (.wptr d h b) s f t → ∀ i, w.rh h.toNat = some i →
      let e := (s.core w.core).handles.get {} i
      let v := if t.cmode then e.wptr else min (w.rs b.toNat).toNat e.total
      (e.state = 2 → Raises (.wptr d h b) s { code := FUTCAN, fdat := h.setWidth 64 }) ∧
      (e.state ≠ 2 → e.kind ≠ 4 → Raises (.wptr d h b) s { code := HANDLE }) ∧
      (e.state ≠ 2 → e.kind = 4 → (t.cmode = true ∨ e.quantum ≠ w.qnt ∨ w.ticket = some .ended) → w.errorOn [i] = none →
        (v ≤ e.wptr → Completes (.wptr d h b) s (s.result 3 (.sca d.toNat (BitVec.ofNat 64 v))) .seq) ∧
        (e.wptr < v → e.state ≠ 3 → exec (.wptr d h b) s = .next s.stall) ∧
        (e.wptr < v → e.state = 3 → ∃ (s' : State) (x : Dword), Completes (.wptr d h b) s s' .seq ∧ s'.wave.flight = w.flight ++ [{ slot := w.cur, left := 3, res := .sca d.toNat x }])))

/-- 17 R285 to R292: the buffer table, CPYQ and WPTR; the number in %fdat of FUTCAN, and the free value of a WPTR issued again after its error, are the
model's (assumption logs 56, 28). -/
def Obligations.BufferTableAndEngineCommands : Prop := BufferTable ∧ EngineCommands

/-- 07 R112, 13 R215, 17 R289, 22 R359: PUB of publishable, writable pages that nothing holds and that every covered operation has reached is a commit
record outside chorus mode and an exchange 320 counts later in it, after it has waited for an acquire; a page that is not publishable raises PERM, and in
chorus mode so does a held one. -/
def Sys2Proof.Stmt.PublishIssue : Prop :=
  ∀ (n : BitVec 4) (b : BitVec 5) (s : State) (f : Frag) (t : Tree), Ready (.pub n b) s f t →
    let lo := (s.wave.ra n.toNat).toNat
    let len := max (s.wave.rs b.toNat).toNat 1
    let span := s.pubSpan s.wave.core t.n lo len
    let heldBack := s.rangeHeld s.wave.core t.n t.desk lo len
    let bad := s.pageFault t s.wave.core lo len fun x => x.pbl && x.allows .write
    (2 ^ 26 ≤ (s.wave.rs b.toNat).toNat → Raises (.pub n b) s { code := PERM }) ∧
    ((s.wave.rs b.toNat).toNat < 2 ^ 26 →
      (∀ e, bad = some e → Raises (.pub n b) s e) ∧
      (bad = none → t.cmode = true → s.acquireBusy = true → exec (.pub n b) s = .next s.acquireStall) ∧
      (bad = none → t.cmode = true → s.acquireBusy = false → heldBack = true → Raises (.pub n b) s { code := PERM }) ∧
      (bad = none → t.cmode = true → s.acquireBusy = false → heldBack = false →
        Completes (.pub n b) s (s.schedule (s.chc + 320) 2 s.wave.order (.pub t.desk lo len s.wave.wid s.chc)) .seq) ∧
      (bad = none → t.cmode = false → s.coveredQuantum t span.1 span.2 = none → s.coveredBusy s.wave.wid s.chc span.1 span.2 = false → heldBack = false →
        Completes (.pub n b) s (s.addCommit t (.pub lo len)) .seq) ∧
      (bad = none → t.cmode = false → s.coveredQuantum t span.1 span.2 = none → heldBack = true → exec (.pub n b) s = .next s.stall))

/-- 17 R293 to R299: OPBEG opens an operator of classes 1 to 5, OPARG adds an argument whose pages allow it, OPEND closes it and hands it on with its witness
record; LNCH hands on a launch record; each raises what its rule names. -/
def Sys2Proof.Stmt.OperatorAndLaunchIssue : Prop :=
  ∀ (h n : BitVec 4) (a b : BitVec 5) (s : State) (f : Frag) (t : Tree),
    let w := s.wave
    let x := (w.rs b.toNat).toNat
    let d := (w.rs a.toNat).toNat
    let lo := (w.ra n.toNat).toNat
    let with' := fun (o : Option OpenOp) => ({ s with wave := { w with op := o } } : State)
    (Ready (.opbeg b) s f t → (w.op ≠ none ∨ x = 0 ∨ 5 < x → Raises (.opbeg b) s { code := HANDLE }) ∧
      (w.op = none → 0 < x → x ≤ 5 → Completes (.opbeg b) s ((with' (some { cls := x })).operator t (.opbeg x)) .seq)) ∧
    (Ready (.oparg n a b) s f t → (w.op = none → Raises (.oparg n a b) s { code := HANDLE }) ∧
      ∀ o, w.op = some o →
        let bad := 16 ≤ o.args.length ∨ x = 0 ∨ 2 ^ 36 < x ∨ d % 16 = 0 ∨ 3 < d % 16 ∨ 7 < d / 16
        let fault := s.pageFault t (deskView t.desk) lo x fun p => if d % 16 = 1 then p.allows .read else p.pbl && p.rreq && p.allows .write
        let arg : OpArg := { role := d % 16, num := (o.args.filter fun y => y.role == d % 16).length, addr := lo, len := x, efmt := d / 16 }
        (bad → Raises (.oparg n a b) s { code := HANDLE }) ∧ (∀ e, ¬ bad → fault = some e → Raises (.oparg n a b) s e) ∧
        (¬ bad → fault = none → Completes (.oparg n a b) s ((with' (some { o with args := o.args ++ [arg] })).operator t (.oparg arg)) .seq)) ∧
    (Ready (.opend h n b) s f t → (w.op = none → Raises (.opend h n b) s { code := HANDLE }) ∧
      ∀ o, w.op = some o →
        let ok := 64 ≤ x ∧ x ≤ 4096 ∧ x % 64 = 0 ∧ ∃ y ∈ o.args, y.role = 2
        (¬ ok → Raises (.opend h n b) s { code := HANDLE }) ∧
        (ok → RecordMay s t n x → t.cmode = false → h = 0 → Completes (.opend h n b) s
          (State.addCommit ({ s with wave := { w with op := none, opSeq := w.opSeq + 1 } } : State) t (.opend o w.opSeq (recordBytes s t n x) none)) .seq) ∧
        (ok → RecordMay s t n x → HandleMay s h → ∃ s', Completes (.opend h n b) s s' .seq)) ∧
    (Ready (.lnch h n) s f t →
      let deep := match t.grid? w.grid with | some g => decide (10 ≤ g.depth) | none => false
      (w.tw ≠ 0 ∨ t.cmode = true → Raises (.lnch h n) s { code := PERM }) ∧
      (w.tw = 0 → t.cmode = false → deep = true → Raises (.lnch h n) s { code := DEPTH }) ∧
      (w.tw = 0 → t.cmode = false → deep = false → RecordMay s t n 64 →
        (launchRefused t (recordBytes s t n 64) = true → Raises (.lnch h n) s { code := HANDLE }) ∧
        (launchRefused t (recordBytes s t n 64) = false → h = 0 → Completes (.lnch h n) s (s.addCommit t (.lnch (recordBytes s t n 64) none)) .seq) ∧
        (launchRefused t (recordBytes s t n 64) = false → HandleMay s h → ∃ s', Completes (.lnch h n) s s' .seq)))

/-- 17 R289, R293 to R299: PUB, the operator instructions and LNCH. Which stores a PUB covers, and when it looks for held versions, are the model's reading
(assumption log 37). -/
def Obligations.PublicationOperatorsAndLaunches : Prop := PublishIssue ∧ OperatorAndLaunchIssue

/-! ## The chorus count, timed transfers, restart points -/

/-- 17 R300 to R302: CHRD, CHBASE, CHWAIT and CHSLIP; a count already passed raises TLATE, a slip asked for elsewhere or too near PERM. -/
def Sys2Proof.Stmt.ChorusCount : Prop :=
  ∀ (d a : BitVec 5) (s : State) (f : Frag) (t : Tree),
    let x := (s.wave.rs a.toNat).toNat
    let c := t.base + x
    let slip := fun (i : Instr) (hold : Bool) => Ready i s f t →
      (t.cmode = false ∨ s.wave.num ≠ 0 ∨ c < s.chc + 4096 → Raises i s { code := PERM }) ∧
      (t.cmode = true → s.wave.num = 0 → s.chc + 4096 ≤ c →
        (s.slip = some (c, hold) → Completes i s s .seq) ∧ (∀ p, s.slip = some p → p ≠ (c, hold) → Raises i s { code := PERM }) ∧
        (s.slip = none → Completes i s (State.scheduleFirst { s with slip := some (c, hold) } c .slip) .seq))
    (Ready (.chrd d) s f t → Completes (.chrd d) s (s.result 1 (.sca d.toNat (BitVec.ofNat 64 s.chc))) .seq) ∧
    (Ready (.chbase d) s f t → Completes (.chbase d) s (s.result 1 (.sca d.toNat (if t.cmode then BitVec.ofNat 64 t.base else 0))) .seq) ∧
    (Ready (.chwait a) s f t →
      (t.cmode = false → x ≤ s.chc → Completes (.chwait a) s s .seq) ∧ (t.cmode = false → s.chc < x → exec (.chwait a) s = .next s.stall) ∧
      (t.cmode = true → x = 0 → Completes (.chwait a) s s .seq) ∧ (t.cmode = true → x ≠ 0 → c ≤ s.chc → Raises (.chwait a) s { code := TLATE }) ∧
      (t.cmode = true → x ≠ 0 → s.chc < c → Completes (.chwait a) s { s with wave := { s.wave with issueAt := c } } .seq)) ∧
    slip (.chslipHold a) true ∧ slip (.chslipSkip a) false ∧
    (Ready (.chslipHold a) s f t → t.cmode = true → s.wave.num = 0 → s.chc + 4096 ≤ c → s.slip = none ∨ s.slip = some (c, true) →
      ∃ s', Completes (.chslipHold a) s s' .seq ∧ s'.slip = some (c, true)) ∧
    (Ready (.chslipSkip a) s f t → t.cmode = true → s.wave.num = 0 → s.chc + 4096 ≤ c → s.slip = none ∨ s.slip = some (c, false) →
      ∃ s', Completes (.chslipSkip a) s s' .seq ∧ s'.slip = some (c, false)) ∧ (Instr.chwait 4).encode = 0x000400F3

/-- 17 R303 to R305, Table 17-6: TSEND of an accepted descriptor takes its channel for LEN counts and sends its flits from its start on; TRECV takes LEN
flits of a tag at its count, and raises TLATE when they have not come. -/
def Sys2Proof.Stmt.TimedTransfers : Prop :=
  ∀ (h n : BitVec 4) (a b : BitVec 5) (s : State) (f : Frag) (t : Tree),
    let w := s.wave
    let dsc := (w.rs b.toNat).toNat
    let x := (w.rs a.toNat).toNat
    let start := if x = 0 then s.chc + 2 else t.base + x
    let r := if x = 0 then s.chc else t.base + x
    let have' := (s.core w.core).tags.get 0 (dTag dsc)
    let ok := t.cmode = true ∧ 1 ≤ dLen dsc ∧ dLen dsc ≤ 4096 ∧ dOff dsc = 0 ∧ dsc / 2 ^ 23 % 2 = 0 ∧ dCore dsc = 0 ∧ dDev dsc = 0
    let fresh := w.ticket ≠ some .done ∧ ∀ k, w.ticket ≠ some (.tick k)
    (Ready (.tsend h n a b) s f t →
      (s.sendRefused t (w.ra n.toNat) dsc = true → Raises (.tsend h n a b) s { code := PERM }) ∧
      (s.sendRefused t (w.ra n.toNat) dsc = false → (w.ra n.toNat).toNat % 64 ≠ 0 → Raises (.tsend h n a b) s { code := ALIGN, addr := w.ra n.toNat }) ∧
      (s.sendRefused t (w.ra n.toNat) dsc = false → (w.ra n.toNat).toNat % 64 = 0 →
        (start < s.chc + 2 ∨ start ≤ (s.core w.core).sendBusy → Raises (.tsend h n a b) s { code := TLATE }) ∧
        (s.chc + 2 ≤ start → (s.core w.core).sendBusy < start → HandleMay s h → ∃ s' : State, Completes (.tsend h n a b) s s' .seq ∧
          (s'.core w.core).sendBusy = start + dLen dsc - 1 ∧ ∃ y, s'.sends = s.sends ++ [y] ∧ y.start = start ∧ y.len = dLen dsc ∧ y.tag = dTag dsc))) ∧
    (Ready (.trecv a b) s f t → (¬ ok → Raises (.trecv a b) s { code := PERM }) ∧
      (ok → w.ticket = some .done → Completes (.trecv a b) s s .seq) ∧
      (ok → fresh → r < s.chc → Raises (.trecv a b) s { code := TLATE }) ∧
      (ok → fresh → r = s.chc → have' < dLen dsc → Raises (.trecv a b) s { code := TLATE }) ∧
      (ok → fresh → r = s.chc → dLen dsc ≤ have' →
        Completes (.trecv a b) s (s.updCore w.core fun c => { c with tags := c.tags.put 0 (dTag dsc) (have' - dLen dsc) }) .seq))

/-- 17 R307: RPT marks the next epoch of a wave that is not split; any other value, or a split wave, raises PERM. In chorus mode a restart record of the state
after it is kept. -/
def Sys2Proof.Stmt.RestartPoints : Prop :=
  ∀ (b : BitVec 5) (s : State) (f : Frag) (t : Tree), Ready (.rpt b) s f t →
    let e := (s.wave.rs b.toNat).toNat
    let whole := s.wave.getSlot (!s.wave.cur) = none ∧ s.wave.depth = 0
    let next := ({ s with wave := { s.wave with epoch := e } } : State).retire (Instr.rpt b).enc .seq
    (2 ^ 32 ≤ e ∨ e ≠ s.wave.epoch + 1 ∨ ¬ whole → Raises (.rpt b) s { code := PERM }) ∧
    (e < 2 ^ 32 → e = s.wave.epoch + 1 → whole → t.cmode = false → exec (.rpt b) s = .next next) ∧
    (e < 2 ^ 32 → e = s.wave.epoch + 1 → whole → t.cmode = true → ∃ s' : State, exec (.rpt b) s = .next s' ∧
      (next.wave.epoch = e → ∃ x rest, s'.wave.records = x :: rest ∧ rest.length ≤ 1 ∧ x.epoch = e ∧ x.off = s.chc - t.base))

/-- 17 R300 to R307: the chorus count, timed transfers and restart points. PERM for a TRECV descriptor with DOFF, PCORE or PDEV not 0 is the model's
reading (assumption log 38). -/
def Obligations.ChorusInstructions : Prop := ChorusCount ∧ TimedTransfers ∧ RestartPoints

/-! ## Traps, exceptions, refusals to issue -/

/-- Whether the fields, the formats and the place of an instruction let it issue (R142, R149, R181, R182, R199, R266, R268, R270). -/
def Sys2Proof.Stmt.legal (s : State) (f : Frag) (i : Instr) : Prop :=
  i.wellFormed = true ∧ (s.wave.lcnt ≠ 0 → f.pc = s.wave.loopEnd → i.site ≠ .branch ∧ f.after = none) ∧ (i.site ≠ .plain → f.after = none) ∧
  roundsWell f i ∧
  match i with
  | .loopl _ _ => s.wave.lcnt = 0
  | .loopb _ o => s.wave.lcnt = 0 ∧ s.bodyFits o = true
  | .accvt _ _ _ _ _ => accvtOk f.fmt = true
  | .ldsw _ _ _ tr _ => ldswOk f.fmt (tr == 1) = true
  | .mma _ _ _ _ _ tr _ _ =>
    let p := (s.core s.wave.core).plane (s.core s.wave.core).active
    mmaAllowed (fmtA f.fmt) p.bfmt (fmtScale f.fmt) (fmtC f.fmt) = true ∧ p.scale = fmtScale f.fmt ∧ ¬ (tr = 1 ∧ fmtA f.fmt = E2M1XC)
  | .udf => False
  | _ => True

/-- Whether its privilege forbids an instruction here (R54, R182, R231, R235, R240, R245). -/
def Sys2Proof.Stmt.forbidden (s : State) (t : Tree) : Instr → Prop
  | .bv _ _ _ | .jtv _ _ _ _ | .loopl _ _ => s.wave.hnd = true
  | .loopb _ _ => t.cmode = false ∨ s.wave.tw ≠ 0 ∨ s.wave.hnd = true
  | .barg => s.wave.hnd = true ∨ (s.wave.getSlot (!s.wave.cur)).isSome = true ∨ s.wave.depth ≠ 0
  | .eret => s.wave.hnd = false
  | _ => False

/-- 14 R237, 09 R142, R149, 11 R181, 26 R389: what comes before an instruction's own effect, in this order: an illegal field raises ILLOP, a control instruction at
the end of a loop body or any instruction there in a delay slot ILLOP, a control instruction in a delay slot DSLOT, a forbidden one PERM, whatever errors of earlier work wait
and whichever register is pending; then a failed join check raises SIGMIS, then a waiting barrier or engine error its fault. That these two stand where an
operation's own faults do is the model's reading (log entry 57), and so is which words of MAJ 0x6A are ill-formed (log entry 48). -/
def Obligations.ChecksBeforeIssue : Prop :=
  ∀ (i : Instr) (s : State) (f : Frag) (t : Tree), cis i = true → s.wave.frag = some f → s.tree? s.wave.tree = some t →
    (i.wellFormed = false → Raises i s { code := ILLOP }) ∧
    (s.wave.lcnt ≠ 0 → f.pc = s.wave.loopEnd → (i.site = .branch ∨ f.after.isSome = true) → Raises i s { code := ILLOP }) ∧
    (i.wellFormed = true → s.wave.lcnt = 0 → (∀ a o, i = .loopb a o → s.bodyFits o = true) → i.site ≠ .plain → f.after.isSome = true →
      Raises i s { code := DSLOT }) ∧
    (legal s f i → forbidden s t i → Raises i s { code := PERM }) ∧
    (legal s f i → ¬ forbidden s t i →
      (∀ j m, (s.wave.sigmis = some (none, j, m) ∨ s.wave.sigmis = some (some s.wave.cur, j, m)) →
        Raises i s { code := SIGMIS, lanes := some m, detail := 2 ^ 31, pc := some j }) ∧
      (∀ x rest, s.wave.sigmis = none → s.wave.ticket = none → s.wave.errs = x :: rest →
        exec i s = .next (State.raise { s with wave := { s.wave with errs := rest } } x)))

/-- 09 R147, 13 R216, R227: an instruction that names a pending register stalls; when the value returns only at the commit of the wave's quantum the quantum
ends first; when the access failed its fault is raised here, at the access's PC. That it waits also with no lane enabled is the model's choice (assumption
log 55). -/
def Obligations.PendingRegisterWaits : Prop :=
  ∀ (e : Enc) (site : Site) (touch : List Reg) (body : Frag → Tree → Act) (s : State) (f : Frag) (t : Tree) (p : Far) (ps : List Far),
    s.wave.frag = some f → s.tree? s.wave.tree = some t → s.wave.sigmis = none → s.wave.errs = [] → s.wave.lcnt = 0 → f.after = none →
    s.wave.pendingOn touch = p :: ps →
    ((∀ x ∈ p :: ps, x.err = none) → (t.cmode = true ∨ ∀ x ∈ p :: ps, x.quantum ≠ some s.wave.qnt) → s.issue e true site touch body = .next s.stall) ∧
    ((∀ x ∈ p :: ps, x.err = none) → t.cmode = false → (∃ x ∈ p :: ps, x.quantum = some s.wave.qnt) →
      s.issue e true site touch body = .next s.endQuantum) ∧
    (∀ c a, p.err = some (c, a) → s.issue e true site touch body = .next (s.raise { code := c, addr := a, pc := some p.pc }))

/-- 14 R236 to R241, Table 14-3: taking an exception: a fault of class H outside chorus mode, with a handler set and the wave not in handler state, saves the
fault, its address, the PC, the datum and the delay slot's target or split with the PC of its branch, sets HND, and goes on at the code base plus %hpc with the
same lanes; what the instruction had waited for is forgotten; nothing else changes. -/
def Obligations.TakingAnException : Prop :=
  ∀ (s : State) (f : Frag) (t : Tree) (x : Flt) (ret : Bool), s.wave.frag = some f → s.tree? s.wave.tree = some t → held s t = false →
    t.cmode = false → x.handleable = true → s.wave.hnd = false → s.wave.hpc ≠ 0 →
    let w := s.wave
    let m := x.lanes.getD f.mask
    let word := m.toNat * 2 ^ 32 + 2 ^ 15 + (if (f.after.any After.isSplit) = true then 2 ^ 14 else 0) + (if x.tcls then 2 ^ 13 else 0) + (if ret then 2 ^ 12 else 0) +
      (if f.after.isSome then 2 ^ 11 else 0) + (if w.cur then 2 ^ 10 else 0) + x.code
    let go := some { f with pc := BitVec.ofNat 64 t.code.addr + w.hpc, after := none, branch := none }
    let from' := f.branch.getD (f.pc - 4)
    ∀ tgt split, (f.after = none → tgt = w.etgt ∧ split = none) → (∀ g, f.after = some (.goto g) → tgt = g ∧ split = some (from', .goto g)) →
      (∀ g j, f.after = some (.split g j) → tgt = w.etgt ∧ split = some (from', .split g j)) →
      s.raise x ret = { s with wave := { w with
        fault := BitVec.ofNat 64 word, faddr := x.addr, epc := f.pc, fdat := x.fdat, etgt := tgt, psplit := split, stalled := false, ticket := none
        slotA := if w.cur then w.slotA else go, slotB := if w.cur then go else w.slotB } }

/-- 14 R236, R240, R242: a fault that no handler takes ends the wave's run and stops its tree at the fault's quantum, with a record of the fault; a second
fault of class H in handler state is recorded as a double fault under the first one's code. The code of a double fault's record is read as log entry 33 says. -/
def Sys2Proof.Stmt.StoppingFault : Prop :=
  ∀ (s : State) (f : Frag) (t : Tree) (x : Flt) (ret : Bool), s.wave.frag = some f → s.tree? s.wave.tree = some t → held s t = false →
    t.cmode = false → (x.handleable = false ∨ s.wave.hnd = true ∨ s.wave.hpc = 0) →
    let double := s.wave.hnd && x.handleable
    let s' := s.raise x ret
    s'.wave.status = .faulted ∧ s'.mem = s.mem ∧ s'.slices = s.slices ∧ s'.accs = s.accs ∧ s'.wave.v = s.wave.v ∧ s'.wave.s = s.wave.s ∧
    ∃ r t', r.q = s.wave.qnt ∧ r.wave = s.wave.num ∧ r.code = (if double then s.wave.fault.toNat % 256 else x.code) ∧
      s'.tree? s.wave.tree = some t' ∧ ∃ q rs, t'.stop = some (q, rs ++ [r]) ∧ q ≤ s.wave.qnt

/-- 17 R343, 14 R236, 20 R344: TLATE in chorus mode stops the grid at this count for its rewind: no wave of it issues in a later cycle, a pending slip is
dropped, and the abort falls due. -/
def Sys2Proof.Stmt.LateFaultRewinds : Prop :=
  ∀ (s : State) (f : Frag) (t : Tree) (ret : Bool), s.wave.frag = some f → s.tree? s.wave.tree = some t → t.cmode = true → t.stop = none →
    let s' := s.raise { code := TLATE } ret
    (∃ t', s'.tree? s.wave.tree = some t' ∧ t'.stop = some (s.chc, []) ∧
      ∀ (s2 : State) (w : Wave), s2.tree? w.tree = some t' → s.chc < s2.chc → s2.cmodeMay w = false) ∧ s'.slip = none ∧ (∃ d ∈ s'.agenda, d.at_ = s.chc ∧ d.ev = .abort t.ctask s.chc) ∧
    s'.mem = s.mem ∧ s'.slices = s.slices

/-- 14 R236, R240, R242, 17 R343: a fault that no handler takes stops its tree; TLATE in chorus mode falls to the rewind. -/
def Obligations.StoppingFaults : Prop := StoppingFault ∧ LateFaultRewinds

/-- 14 R239, R244: TRAP retires and then raises its code: with a handler set it enters it, %epc at the TRAP itself and RET set. -/
def Sys2Proof.Stmt.TrapEntersTheHandler : Prop :=
  ∀ (c : BitVec 7) (s : State) (f : Frag) (t : Tree), Ready (.trap c) s f t →
    (∃ s', exec (.trap c) s = .next s') ∧
    (f.after = none → t.cmode = false → held s t = false → s.wave.hnd = false → s.wave.hpc ≠ 0 → s.wave.dispre = none → s.wave.op = none → ∃ s' : State, exec (.trap c) s = .next s' ∧
      s'.wave.epc = f.pc ∧ s'.wave.hnd = true ∧ s'.wave.fault.toNat % 1024 = 128 + c.toNat ∧ s'.wave.fault.getLsbD 12 = true ∧
      s'.wave.fault.toNat / 2 ^ 32 = f.mask.toNat ∧ s'.wave.faddr = 0 ∧
      ∃ g, s'.wave.getSlot s.wave.cur = some g ∧ g.pc = BitVec.ofNat 64 t.code.addr + s.wave.hpc ∧ g.mask = f.mask ∧ g.after = none)

/-- 14 R245: ERET outside handler state raises PERM; in it it leaves handler state and goes on at %epc, or after the instruction there when RET is set; when the
fault stood in a delay slot, through that slot to the saved target or split, or past the slot at once when RET is set; the branch then stands where it stood when its slot faulted
(11 R181). That the pending split stays after it is the model's reading (assumption log 33). In a delay slot it raises DSLOT. -/
def Obligations.ReturnFromException : Prop :=
  (∀ (s : State) (f : Frag) (t : Tree), Ready .eret s f t →
    let w := s.wave
    let s' := { s with wave := { w with fault := w.fault &&& ~~~(0x8000 : Dword), psplit := none } }
    let len := s.lenAt t w.core w.epc
    (w.hnd = false → Raises .eret s { code := PERM }) ∧
    (w.hnd = true → w.fault.getLsbD 11 = false → w.fault.getLsbD 12 = false → Completes .eret s s' (.to w.epc none)) ∧
    (w.hnd = true → w.fault.getLsbD 11 = false → w.fault.getLsbD 12 = true → Completes .eret s s' (.to (w.epc + BitVec.ofNat 64 len) none)) ∧
    ∀ at_ back, (w.fault.getLsbD 14 = false → at_ = (w.psplit.map (·.1)).getD (w.epc - 4) ∧ back = .goto w.etgt) → (w.fault.getLsbD 14 = true → w.psplit = some (at_, back)) →
      (w.hnd = true → w.fault.getLsbD 11 = true → w.fault.getLsbD 12 = false → Completes .eret s s' (.to w.epc (some (at_, back)))) ∧
      (w.hnd = true → w.fault.getLsbD 11 = true → w.fault.getLsbD 12 = true → Completes .eret s s' (.apply at_ back))) ∧
  ∀ (s : State) (f : Frag) (t : Tree), s.wave.frag = some f → s.tree? s.wave.tree = some t → s.wave.lcnt = 0 → f.after.isSome = true →
    Raises .eret s { code := DSLOT }

/-- 14 R246, R247, R249, 09 R142: BRK stops an L-mode tree of a desk whose debug session a debugger holds and has no effect otherwise; SIGCK compares the signature, clears it and adds nothing
to it; the undefined major raises ILLOP. -/
def Sys2Proof.Stmt.BreakSignatureUndefined : Prop :=
  ∀ (a : BitVec 5) (s : State) (f : Frag) (t : Tree),
    let session := ∃ d, s.desk? t.desk = some d ∧ d.held ≠ none
    (Ready .brk s f t → (t.cmode = false → session → Completes .brk s (s.updTree t.id fun t => { t with debug := true }) .seq) ∧
      (t.cmode = true ∨ ¬ session → Completes .brk s s .seq)) ∧
    (Ready (.sigck a) s f t →
      (f.sig = (s.wave.rs a.toNat).setWidth 32 → exec (.sigck a) s =
        .next (State.retire { s with wave := s.wave.setFrag { f with sig := 0 } } ⟨(Instr.sigck a).bytes, []⟩ .seq)) ∧
      (f.sig ≠ (s.wave.rs a.toNat).setWidth 32 → Raises (.sigck a) s { code := SIGMIS })) ∧
    (s.wave.frag = some f → s.tree? s.wave.tree = some t → Raises .udf s { code := ILLOP })

/-- 14 R239, R244, R246, R247, 09 R142: TRAP, BRK, SIGCK and the undefined major. -/
def Obligations.TrapBreakSignatureUndefined : Prop := TrapEntersTheHandler ∧ BreakSignatureUndefined

/-! ## Events of waves, trees and cores -/

/-- 03 R62, 13 R213, R214, 07 R119, R123, 17 R305, 03 R72, 17 R297: the events of a wave, each when it is due: results land, a far value lands and %fc falls, or
its failure waits for the wave's next instruction where FWAITC has ended the quantum (13 R216, R227), an access takes effect, a tick lets FENCE.SC go on, a TRECV is judged, a window lapses.
Where FWAITC ends the quantum and where its failure is raised are the model's (assumption logs 31, 57). -/
def Obligations.WaveEvents : Prop :=
  ∀ (s : State) (acc wid : Nat) (w : Wave),
    ((∃ w ∈ s.allWaves, ∃ f ∈ w.flight, f.left = 0 ∧ f.acc = none) → exec .resultLand s = .next (s.mapWaves Wave.land)) ∧
    ((∃ w ∈ s.allWaves, ∃ x ∈ w.far, x.id = acc ∧ ∃ d, x.due = some d ∧ d ≤ s.chc) → exec (.farValueLand acc) s = .next (s.landFar acc)) ∧
    ((∃ w ∈ s.allWaves, ∃ x ∈ w.far, x.id = acc ∧ ∃ d, x.due = some d ∧ d ≤ s.chc) → Leads (exec (.farValueLand acc) s) fun s' =>
      ∀ v ∈ s.allWaves, v.status ≠ .idle → ∀ x, v.far.find? (fun y => y.id == acc) = some x →
        (x.err = none →
          let u : Wave := x.res.foldl Wave.land1 { v with fc := v.fc - 1 }
          ({ u with far := u.far.filter fun y => y.id != acc } : Wave) ∈ s'.allWaves) ∧
        (∀ c a, x.err = some (c, a) → ∃ u ∈ s'.allWaves, u.wid = v.wid ∧ u.fc = v.fc - 1 ∧
          u.errs = if v.fwaited then v.errs ++ [{ code := c, addr := a, pc := some x.pc }] else v.errs)) ∧
    (∀ a, s.accesses.find? (fun a => a.id == acc && decide (a.at_ ≤ s.chc)) = some a →
      let s1 : State := { s with accesses := s.accesses.filter (·.id != acc) }
      (∃ s', exec (.farAccessEffect acc) s = .next s') ∧
      (s.clashNow acc = none → ∀ bs, a.eff = some (.store bs) → (∀ x ∈ bs, s.badVa a.core (s.deskN (a.core / 512)) x.1 true = false) →
        exec (.farAccessEffect acc) s = .next (s1.putBytes a.core (s.deskN (a.core / 512)) bs).wakeAll) ∧
      (s.clashNow acc = none → a.eff = none → exec (.farAccessEffect acc) s = .next (s1.takeValues a (s.deskN (a.core / 512))))) ∧
    (s.wave? wid = some w → (∃ n, w.ticket = some (.tick n) ∧ n ≤ s.chc) →
      exec (.heartbeatTick wid) s = .next (s.updWave wid fun w => { w with ticket := some .done })) ∧
    (s.wave? wid = some w → ∀ r tag len rest, w.ticket = some (.tick r) → w.latch = (tag, len) :: rest → r ≤ s.chc →
      let n := (s.core w.core).tags.get 0 tag
      (len ≤ n → Leads (exec (.trecvCheck wid) s) fun s' => (s'.core w.core).tags.get 0 tag = n - len) ∧
      (n < len → Leads (exec (.trecvCheck wid) s) fun s' => s' = s.asWave wid fun s => s.raise { code := TLATE })) ∧
    (s.wave? wid = some w → (∃ n, w.dispre = some n ∧ 2 ^ 20 < n) → exec (.dispreWindowLapse wid) s = .next (s.asWave wid State.lapseDispre)) ∧
    (s.wave? wid = some w → (∃ o, w.op = some o ∧ 2 ^ 20 < o.retired) → exec (.operatorWindowLapse wid) s = .next (s.asWave wid State.lapseOperator))

/-- 03 R45, R46, 07 R117, 14 R255: a commit of a quantum that may commit applies the pending records of the quanta up to it, in their order; once none is left, the
next quantum is the tree's first uncommitted one. A tree that resumes applies the records it was saved with, and its own quantum stays, which is the model's reading
(log entry 36). -/
def Obligations.QuantumCommits : Prop :=
  ∀ (s : State) (tree : Nat) (t : Tree), s.tree? tree = some t → s.mayCommit t = true → s.attributeWaits t t.commitQ = false →
    let q := t.commitQ
    let s1 := State.applyRecords tree q t.pend.length
      ((if t.resuming then s else s.syncSlices t q).updTree tree fun t => { t with committing := true })
    (t.resuming = false → q = t.committed) ∧
    Leads (exec (.quantumCommit tree) s) fun s' =>
      ∀ u, s1.tree? tree = some u → (u.recordsOf q ≠ [] → s' = s1) ∧
        (u.recordsOf q = [] → s'.mem = s1.mem ∧ s'.slices = s1.slices ∧ s'.slicesC = s1.slicesC ∧
          ∃ v, s'.tree? tree = some v ∧ v.committed = if u.resuming then u.committed else q + 1)

/-- 07 R105, R111: PUB_EXCHANGE of one page: its current and shadow frames change places and VER advances by 1 modulo 65,536; every other byte of device memory
stays. -/
def Obligations.PublishExchange : Prop :=
  ∀ (desk lo len : Nat) (s : State), exec (.pubExchange desk lo len) s = .next (s.exchange desk lo len) ∧
    ∀ va x, s.pagesOf (deskView desk) (s.deskN desk) lo len = [(va, .ok x)] → x.pbl = true → x.raw < 2 ^ 64 →
      let s' := s.exchange desk lo len
      let e := s'.devNat x.pte 8
      let y := { x with raw := e }
      y.pbl = true ∧ y.cur = !x.cur ∧ y.ver = (x.ver + 1) % 65536 ∧ y.readFrame = x.writeFrame ∧ y.writeFrame = x.readFrame ∧
      (∀ pa, pa < x.pte ∨ x.pte + 8 ≤ pa → s'.devByte pa = s.devByte pa) ∧ s'.slices = s.slices

/-- 03 R34, R37, R42, R47, R69 to R71, R235, 14 R242, R251 to R255, 22 R362: the events of launch trees, each when it may happen: a team starts, a grid retires, a
time limit passes, a stopped tree ends, a tree is saved, or stops where its records are no longer held; after a second period nothing of a chorus tree issues
before its save. The codes of why a tree is saved, the first quantum of a team that was held back, and that a chorus save's epoch waits for no ended wave
are the model's choices (log entries 36, 62, 39). -/
def Obligations.TreeEvents : Prop :=
  ∀ (s : State) (tree grid core : Nat) (t : Tree) (g : Grid), s.tree? tree = some t →
    (∀ m q, t.grid? grid = some g → core / 512 = t.desk → s.readyTeam t g core = some (m, q) → Leads (exec (.teamStart tree grid core) s) fun s' =>
      ∃ u, (s.beginTree tree).tree? tree = some u ∧ s' = (s.beginTree tree).startTeam u g m q) ∧
    (t.grid? grid = some g → s.mayRetire t g = true → (g.ord = 0 → exec (.gridRetire tree grid) s = .next (s.endTree t 0 0)) ∧
      (g.ord ≠ 0 → Leads (exec (.gridRetire tree grid) s) fun s' => ∃ u h, s'.tree? tree = some u ∧ u.grid? grid = some h ∧ h.retired = true)) ∧
    (s.quantumStuck t = true → Leads (exec (.quantumTimeLimit tree) s) fun s' => s'.mem = s.mem ∧ s'.slices = s.slices ∧
      (held s t = false → ∀ w ∈ s'.allWaves, w.tree = tree → w.status = .live → w.wait = .none ∧ w.stalled = false)) ∧
    ((∃ m ∈ s.teams, m.tree = tree) → t.save = false → t.unsaved = false → t.stop = none → t.noStart = true →
      (∀ m ∈ s.teams, m.tree = tree → (s.core m.core).testDue = false) → exec (.preemptionTimeLimit tree) s = .next (s.askSave tree 1)) ∧
    (s.faultSettled t = true → Leads (exec (.treeFaultStop tree) s) fun s' =>
      s' = (if t.cmode then (s.faultEntries t).2.clearTree t else (s.faultEntries t).2).endTree t 2 (s.faultEntries t).1) ∧
    (s.maySave t = true → exec (.contextSave tree) s = .next (if t.cmode && !s.hasEpoch tree (s.commonEpoch tree) then s.epochLost t
      else s.saveTree t (if t.cmode then s.commonEpoch tree else 0))) ∧
    (t.cmode = true → t.save = true → t.stop = none → t.saveNow = false → s.saveExempt t = false →
      exec (.forcedSaveSecondPeriod tree) s = .next (s.updTree tree fun t => { t with saveNow := true }))

/-- 14 R255, 22 R362, 28 R404: a saved tree that the device holds resumes where its resources are free and its image's tag verifies; the replay of an
ended tree that is asked for starts, and the request is taken. How an image is kept is the model's choice (log entry 19), and so is the status 8 with which
the launch of a tree ends whose image fails (log entry 72). -/
def Sys2Proof.Stmt.ResumeAndReplay : Prop :=
  ∀ (s : State) (tree : Nat),
    (∀ sv, s.saved.find? (fun x => x.held && x.tree.id == tree && x.tree.saveWhy ≠ 2) = some sv → s.roomFor sv = true →
      (s.intact sv = true → exec (.autoResume tree) s = .next ((s.releaseImage sv).restoreTree sv)) ∧
      (s.intact sv = false → exec (.autoResume tree) s = .next (((s.releaseImage sv).keep sv.tree).endLaunch sv.tree 8 0))) ∧
    (∀ r t k, s.proctor.replays.find? (fun r => r.1 == tree) = some r → s.proctor.kept.find? (fun t => t.id == tree) = some t →
      t.code.kernels[t.launch.kidx]? = some k → s.mayReplay t r.2 = true → Leads (exec (.replayStart tree) s) fun s' => r ∉ s'.proctor.replays)

/-- 16 R266, R272: a matrix operation completes at its completion count: its handle is complete unless it was cancelled; a deferred LDSW fills its plane when the
plane has stopped draining. That their times are counted in L-mode too is the model's reading (log entry 13). -/
def Sys2Proof.Stmt.MatrixEvents : Prop :=
  ∀ (s : State) (core op : Nat) (o : MatOp),
    ((s.core core).ops.find? (fun o => o.id == op && decide (o.busy ≤ s.chc)) = some o → Leads (exec (.matrixOpComplete core op) s) fun s' =>
      ∀ h, o.handle = some h → o.comp ≤ s.chc → o.applied = true → ((s.core core).handles.get {} h).state = 0 → ((s'.core core).handles.get {} h).state = 1) ∧
    ((s.core core).ops.find? (fun o => o.id == op && o.kind == .ldsw && !o.applied && decide (o.start ≤ s.chc)) = some o →
      exec (.ldswLoadStart core op) s = .next ((s.loadPlane o).updOp core op fun o => { o with applied := true, src := [] }))

/-- 14 R255, 16 R266, R272, 22 R362: resuming, replaying, and the events of matrix operations. -/
def Obligations.ResumeReplayAndMatrixEvents : Prop := ResumeAndReplay ∧ MatrixEvents

/-! ## Engines, links, domains -/

/-- 17 R309 to R312, 19 R314 to R326, 20 R319: a channel starts the packet at its head, COPY, LEVEL, COLL or FILL, when it may, and then runs it; a sector is delivered when it is due; a
shared queue's next packet is consumed when its phase says so and the channel has room; a LEVEL of a queue bound to the desk's chorus task has its tree's
tables (R321). That an L-mode operation runs whole at its start is the model's reading (log entry 15). -/
def Obligations.EngineEvents : Prop :=
  ∀ (s : State) (chan desk descr : Nat) (r : EngReq) (rest : List EngReq) (op : EngOp),
    let start := fun (i : Instr) (ty : Nat) => (s.chan chan).queue = r :: rest → s.headReady chan = true → pType r.packet = ty → exec i s = .next (s.startHead chan)
    let q : EngReq := { packet := [], desk := desk }
    let rd := fun a n => readNat (s.engByte q) a n
    let begins := fun (ty : Nat) => (s.chan chan).queue = r :: rest ∧ (s.chan chan).delayed = [] ∧ (s.chan chan).op = none ∧ r.start = none ∧ s.behind r = false ∧
      pType r.packet = ty
    let runs := fun s' : State => (s'.chan chan).queue = rest ∧ ∃ o, (s'.chan chan).op = some o ∧ o.req = r ∧ o.items = planItems r.core r.packet ∧ s'.mem = s.mem
    let ridx := rd (descr + 8) 8
    let slots := max 1 (rd (descr + 24) 4)
    let p := (List.range 64).map fun i => s.engByte q (rd (descr + 16) 8 + ridx % slots * 64 + i)
    start (.copy chan) 0 ∧ start (.level chan) 1 ∧ start (.coll chan) 2 ∧ start (.fill chan) 3 ∧
    (begins 0 → ∃ s', exec (.copy chan) s = .next s' ∧ runs s') ∧ (begins 1 → ∃ s', exec (.level chan) s = .next s' ∧ runs s') ∧
    (begins 2 → ∃ s', exec (.coll chan) s = .next s' ∧ runs s') ∧ (begins 3 → ∃ s', exec (.fill chan) s = .next s' ∧ runs s') ∧
    ((s.chan chan).op = some op →
      (s.engC op.req = false → s.canAdvance chan op = true → exec (.sectorDelivery chan) s = .next (s.advance chan op)) ∧
      (s.engC op.req = true → s.engStopped op.req = true → exec (.sectorDelivery chan) s = .next (s.dropEng chan)) ∧
      (s.engC op.req = true → s.engStopped op.req = false → (∀ x out, op.out = x :: out → x.due ≤ s.chc) → (op.out = [] → op.items = [] ∧ op.waiting = []) →
        exec (.sectorDelivery chan) s = .next (s.landSector chan op))) ∧
    ((desk, descr) ∈ (s.chan chan).shared → pPhase p = 1 - ridx / slots % 2 → (s.chan chan).queue.length < 16 →
      let s1 := (leBytes 8 ((ridx + 1) % 2 ^ 64)).zipIdx.foldl (fun s x => s.engPut q (descr + 8 + x.2) x.1) s
      (∃ s', exec (.sharedQueueConsume chan desk descr) s = .next s') ∧
      let joins := fun tree : Nat => exec (.sharedQueueConsume chan desk descr) s =
        .next (s1.updChan chan fun c => { c with queue := c.queue ++ [{ packet := p, desk := desk, tree := tree }] })
      (rd (descr + 29) 1 ≠ 1 → s1.packetRefused none desk (s1.deskN desk) [] p = false → pStart p = 0 → joins 0) ∧
      (∀ t, rd (descr + 29) 1 = 1 → ((s1.tasks.find? fun k => k.desk == desk && k.dispatched).bind fun k => s1.tree? k.tree) = some t →
        s1.packetRefused none desk (s1.deskN desk) t.code.stencils p = false → pStart p = 0 → joins (if pType p = 1 then t.id else 0)))

/-- 17 R302 to R304, R306, 20 R332: a timed flit leaves without a change to device memory or a slice: one for a core of this device carries the 64 bytes of its source to the
place and tag that the send names, and the last one completes the handle; the effect of a flit of the running attempt writes its bytes into the
slice and counts its tag; a slip passes and moves %drift inside a locked domain. -/
def Obligations.TimedEvents : Prop :=
  ∀ (s : State) (send idx flit : Nat) (x : Send) (y : Flit) (c : Nat) (hold : Bool),
    (s.sends.find? (fun x => x.id == send && decide (idx < x.len) && decide (x.start + idx ≤ s.chc)) = some x →
      Leads (exec (.tsendFlitSend send idx) s) fun s' => s'.mem = s.mem ∧
        (s.stoppedBefore x.tree = true ∨ s.clashNow (x.accs + 2 * idx) = none → s'.slices = s.slices) ∧
        (s.stoppedBefore x.tree = false → s.clashNow (x.accs + 2 * idx) = none →
          (x.pdev = s.devNo → ∃ fl ∈ s'.flits, fl.bytes = s.sliceBytes x.core (x.src + 64 * idx) 64 ∧ fl.core = x.core / 512 * 512 + x.pcore ∧ fl.off = x.doff + 64 * idx ∧
            fl.tag = x.tag ∧ fl.at_ = s.chc + flitLat x.core fl.core) ∧
          (∀ h, idx + 1 = x.len → x.handle = some h → ((s.core x.core).handles.get {} h).state = 0 → ((s'.core x.core).handles.get {} h).state = 1))) ∧
    (s.flits.find? (fun x => x.id == flit && decide (x.at_ ≤ s.chc)) = some y → Leads (exec (.flitEffect flit) s) fun s' =>
      y.va = none → s.clashNow y.id = none → (∃ t, s.tree? y.task = some t ∧ t.attempt % 256 = y.attempt % 256) → s.stoppedBefore y.task = false →
        s'.slices = s.slices.puts emptyByte (sliceKey y.core y.off) y.bytes ∧
        ((s.core y.core).tags.get 0 y.tag < 65535 → (s'.core y.core).tags.get 0 y.tag = (s.core y.core).tags.get 0 y.tag + 1)) ∧
    (s.slip = some (c, hold) → c ≤ s.chc → Leads (exec .slip s) fun s' => s'.slip = none ∧ s'.slipAt = some c ∧
      s'.drift = if (s.domain.any (·.locked)) = true then (if hold then s.drift - 64 else s.drift + 64) else s.drift)

/-- 20 R330 to R334, R343 to R349, 21 R376, R417: the events of a chorus domain and its task: a drift beyond 128, measured 2^22 cycles or more after the last, loses the lock and another is stored; the parent port changes
over once; abort, epoch reports, the restart deadline and token act on the running task, an abort token as one of the free device it comes from; a task is
dispatched with a base that is a multiple of 4,096, unless two members lie too far apart, or times out and ends. The members of a task of several devices and
the count at which the last slot started are free (log entry 39); a task that has waited for its cores past its base takes one from then on, which is the
model's choice (log entry 74); loss of lock is read as log entry 39 says. -/
def Obligations.DomainEvents : Prop :=
  ∀ (s : State) (v : BitVec 64) (att count dev epoch ctask : Nat) (k : CTask) (t : Tree) (d : Domain),
    (s.domain = some d → d.measured + 2 ^ 22 ≤ s.chc → (128 < v.toInt.natAbs → exec (.driftMeasurement v) s = .next s.loseLock) ∧
      (v.toInt.natAbs ≤ 128 → Leads (exec (.driftMeasurement v) s) fun s' => s'.drift = v ∧ s'.domain = some { d with measured := s.chc })) ∧
    (s.loseLock.domain = none ∧ s.loseLock.drift = 0x8000000000000000) ∧
    (s.domain = some d → (d.inUse = d.primary → d.primary ≠ d.secondary → Leads (exec .parentPortFailure s) fun s' => s'.domain = some { d with inUse := d.secondary }) ∧
      (d.inUse ≠ d.primary ∨ d.primary = d.secondary → exec .parentPortFailure s = .next s.loseLock)) ∧
    (s.running? = some k →
      (att % 256 = k.att % 256 → exec (.abortToken att count) s = .next (s.draw.2.abortTask k (s.draw.1.toNat % 512) count)) ∧
      ((∃ m ∈ k.members, m.1 = dev) → exec (.epochReport dev epoch count) s = .next (s.noteReport k dev epoch count)) ∧
      (∀ a, k.abort = some a → k.lead = s.devNo → k.failed = false → a ≠ allOnes → k.deadline ≠ 0 → k.deadline ≤ s.chc →
        exec .restartDeadline s = .next (s.rewindOn k a)) ∧
      (k.abort ≠ none → k.failed = false → exec (.restartToken att epoch count) s = .next (s.restartToken k k.lead att epoch count))) ∧
    (s.task? ctask = some k → s.tree? k.tree = some t →
      (s.mayDispatch k = true →
        let d := s.drawMembers (k.nmem - 1)
        let all := k.members.filter (·.1 == s.devNo) ++ d.1
        let base := (d.2.taskBase k).1
        (d.2.tooFar all = true → exec (.chorusTaskDispatch ctask) s = .next ((d.2.dropTree t.id).endLaunch t 1 0)) ∧
        (d.2.tooFar all = false → exec (.chorusTaskDispatch ctask) s = .next ((d.2.taskBase k).2.startChorus k t base all)) ∧
        base % 4096 = 0 ∧ s.chc < base ∧ (k.nmem ≤ 1 → k.since + 2 ^ 20 ≤ base ∧ (s.chc < k.since + 2 ^ 20 → base < k.since + 2 ^ 20 + 4096))) ∧
      (k.dispatched = false → 1 < k.nmem → exec (.chorusMemberTimeout ctask) s = .next ((s.dropTree t.id).endLaunch t 1 0)))

/-- 20 R335, R336, R340 to R342, 26 R395: a flit is read by its check: data, control, or dropped; a run from another device that was not received before and lies in the
window is applied, whichever its operation, and one that was received before, or lies beyond the window, changes no memory and no slice; replies and acknowledgements are taken; a flow without progress resends what it keeps, up to eight times. Group 256 stands for none (the model's choice, log entry 37), and what a run's header
does not carry is drawn (log entry 14), as is the lane of a dropped flit (log entry 10). -/
def Obligations.LinkEvents : Prop :=
  ∀ (s : State) (port src chan seq dest group att exp dev : Nat) (flit : BitVec 512) (check : BitVec 32) (payload : List Byte) (v : BitVec 64),
    let b := leBytes 64 flit.toNat
    let f := s.flowsIn.get {} (flowKey chan src)
    let ahead := (seq + 2 ^ 32 - f.low) % 2 ^ 32
    let known := f.got.contains seq = true
    let coll := if group < 256 then some (group, markStep s.draw.1) else none
    let applied := fun op => State.applyRun src chan seq op dest att exp coll s.draw.1 payload s.draw.2
    let added := State.applyRun src chan seq 0x10 dest 0 0 none s.draw.1 (leBytes 8 v.toNat) s.draw.2
    let refused := fun (i : Instr) => f.cut ≠ some (seq, dest) →
      (known ∨ 2 ^ 31 ≤ ahead → Leads (exec i s) fun s' => s'.mem = s.mem ∧ s'.slices = s.slices ∧ s'.flowsIn = s.flowsIn) ∧
      (¬ known → 1024 ≤ ahead → ahead < 2 ^ 31 → exec i s = .next s.draw.2)
    let fresh := f.cut ≠ some (seq, dest) ∧ ¬ known ∧ ahead < 1024
    let took := fun (t s' : State) => s'.mem = t.mem ∧ s'.slices = t.slices ∧
      (seq = f.low → f.got = [] → (s'.flowsIn.get {} (flowKey chan src)).low = (seq + 1) % 2 ^ 32)
    let out := s.flowsOut.get {} (flowKey chan dev)
    (check = crcExtend 0 b → exec (.flitArrival port flit check) s = .next (s.dataFlit port (some b))) ∧
    (check = ~~~ (crcExtend 0 b) → check ≠ crcExtend 0 b → exec (.flitArrival port flit check) s = .next (s.controlFlit port b)) ∧
    (check ≠ crcExtend 0 b → check ≠ ~~~ (crcExtend 0 b) → exec (.flitArrival port flit check) s = .next ((s.dropFlit port).dataFlit port none)) ∧
    refused (.runWrite src chan seq dest group att exp payload) ∧ refused (.runSumF32 src chan seq dest group att exp payload) ∧
    refused (.runSumI32 src chan seq dest group att exp payload) ∧ refused (.runMaxS32 src chan seq dest group att exp payload) ∧
    refused (.runAddI64 src chan seq dest v) ∧
    (fresh → ∃ s', exec (.runWrite src chan seq dest group att exp payload) s = .next s' ∧ took (applied 0) s') ∧
    (fresh → ∃ s', exec (.runSumF32 src chan seq dest group att exp payload) s = .next s' ∧ took (applied 1) s') ∧
    (fresh → ∃ s', exec (.runSumI32 src chan seq dest group att exp payload) s = .next s' ∧ took (applied 2) s') ∧
    (fresh → ∃ s', exec (.runMaxS32 src chan seq dest group att exp payload) s = .next s' ∧ took (applied 3) s') ∧
    (fresh → ∃ s', exec (.runAddI64 src chan seq dest v) s = .next s' ∧ took added s') ∧
    exec (.atomreply src chan seq v) s = .next (s.takeReply src chan seq v) ∧ exec (.ack dev chan seq) s = .next (s.takeAck dev chan seq) ∧
    (out.kept ≠ [] → out.deadline ≤ s.chc → Leads (exec (.flowResendTimeout chan dev) s) fun s' =>
      out.resends < 8 → (s'.flowsOut.get {} (flowKey chan dev)).kept = out.kept ∧ (s'.flowsOut.get {} (flowKey chan dev)).resends = out.resends + 1)

/-- 22 R350 to R359, R361, R366: operators are accepted when due, graded once their inputs are decided, deferred at the deadline; a release notice frees the export it names and settles
release, and a revoke notice revokes the versions that depend on the export it names, and is kept for those whose bytes come later. When a grade is given is left to the environment (log entry 11). -/
def Obligations.GradingEvents : Prop :=
  ∀ (s : State) (op src exp : Nat) (o : Oper),
    (s.oper? op = some o → (o.grade = none → s.waitsForInputs o = false → exec (.grade op) s = .next (s.giveGrade o (s.judge o))) ∧
      (o.grade = none → exec (.gradeDeadline op) s = .next ((s.updOper op fun x => { x with grade := some 3 }).postGrades o.desk))) ∧
    (∀ n ord core w e seq rec h, s.agenda.find? (fun d => decide (d.at_ ≤ s.chc) && match d.ev with | .opAccept _ w (.opend _ _ _ _) => w == op | _ => false)
        = some { at_ := n, ord := ord, ev := .opAccept core op (.opend e seq rec h) } → s.wave? op = some w → Leads (exec (.operatorAccept op) s) fun s' =>
      s' = State.acceptOper { s with agenda := s.agenda.filter fun x => x ≠ { at_ := n, ord := ord, ev := .opAccept core op (.opend e seq rec h) } } w.tree w.grid w.num core e seq rec h) ∧
    exec (.releaseNotice src exp) s =
      .next (State.release { s with proctor := { s.proctor with freed := if (src, exp) ∈ s.proctor.freed then s.proctor.freed else s.proctor.freed ++ [(src, exp)] } }) ∧
    (let s1 : State := { s with proctor := { s.proctor with
        struck := if (src, exp) ∈ s.proctor.struck then s.proctor.struck else s.proctor.struck ++ [(src, exp)] } };
      exec (.revokeNotice src exp) s = .next ((s1.revokeAll none ((s.proctor.deps.filter fun d => d.2.1 == src && d.2.2 == exp).map (·.1))).classifyRevoked))

/-! ## Queues, slots, debug sessions, harts -/

/-- 24 R370 to R372, R379, R381, R382, R384, 22 R365: the queues: a request with its phase set is fetched, at once or when it is looked for again; a sweep and a kick read the queue's
table entry, which makes a queue live or idle; a kick moves K forward or counts as stale; GRADECONS lets waiting grades out; a host read takes the bytes that may leave, a host
write reaches the pages the desk may write, and an access to any other is a violation. That an address from 2^63 names the control window, and what may always leave, are the model's choices (log entries 23, 27), as is what a host write to a publishable page does (log entry 40). -/
def Obligations.QueueEvents : Prop :=
  ∀ (s : State) (desk queue port va len : Nat) (value : BitVec 64) (data b : List Byte) (d : Desk),
    let x := s.queue desk queue
    (s.request desk queue = some b → exec (.slotFetch desk queue) s = .next (s.fetchSlot desk queue b) ∧
      let y : Slot := { desk := desk, queue := queue, index := x.cons, bytes := b }
      (y.malformed = false → (s.fetchSlot desk queue b).slots = s.slots ++ [y]) ∧ (y.malformed = true → y ∉ (s.fetchSlot desk queue b).slots)) ∧
    (x.live = true → (x.k + 2 ^ 32 - x.cons) % 2 ^ 32 < 2 ^ 31 → x.k ≠ x.cons →
      (s.request desk queue = some b → exec (.slotRecheck desk queue) s = .next (s.fetchSlot desk queue b)) ∧
      (s.request desk queue = none → exec (.slotRecheck desk queue) s = .next s)) ∧
    (s.desk? desk = some d →
      let e := s.deskRead desk (d.qbase + 16 * queue) 16
      let ring := field e 0 8; let slots := field e 8 4
      (byteAt e 12 = 0 → ((s.readEntry desk queue).queue desk queue).live = false) ∧
      (byteAt e 12 = 1 → ring % 256 = 0 → powerIn slots 16 65536 = true → ring + 256 * slots ≤ 2 ^ 47 → s.deskOk desk .read ring (256 * slots) = true →
        x.live = false → (s.readEntry desk queue).queue desk queue = { live := true, ring := ring, nslot := slots })) ∧
    (s.desks = [(desk, some d)] → exec .queueSweep s = .next (((List.range d.queues).foldl (fun (s : State) q => s.readEntry desk q) s).signal .sweep none)) ∧
    (s.desk? desk = some d → queue < d.queues → Leads (exec (.kick desk queue value) s) fun s' => s'.mem = s.mem ∧ s'.slices = s.slices ∧ s'.waves = s.waves ∧
      let y := (s.readEntry desk queue).queue desk queue
      let ahead := (value.toNat % 2 ^ 32 + 2 ^ 32 - y.k) % 2 ^ 32
      (y.live = true → 1 ≤ ahead → ahead < 2 ^ 31 → (s'.queue desk queue).k = value.toNat % 2 ^ 32) ∧
      (y.live = false ∨ ahead = 0 ∨ 2 ^ 31 ≤ ahead → s'.queue desk queue = y ∧ ∀ k k', s'.desk? desk = some k → (s.readEntry desk queue).desk? desk = some k' → k.stale = (k'.stale + 1) % 2 ^ 64)) ∧
    (s.desk? desk = some d → exec (.gradecons desk value) s =
      .next (State.flushGrades desk d.gradeWait.length (s.updDesk desk fun d => { d with gradecons := value.toNat }))) ∧
    (s.desk? desk = some d → va < windowBase →
      (va + len ≤ 2 ^ 47 → s.deskOk desk .read va len = true → (∀ p ∈ s.pagesOf (deskView desk) (s.deskN desk) va len, ∃ y, p.2 = .ok y ∧ s.mayLeave desk va (va + len) p.1 y = true) →
        s.deskBad? desk va len = none → exec (.hostRdmaRead desk port va len) s = .next { s with nak := false, rdma := s.deskRead desk va len }) ∧
      (s.deskOk desk .read va len = false → exec (.hostRdmaRead desk port va len) s = .next (s.violation desk port va)) ∧
      (va + data.length ≤ 2 ^ 47 → s.deskOk desk .write va data.length = true →
        exec (.hostRdmaWrite desk port va data) s = .next { s.deskWrite desk va data with nak := false }) ∧
      (s.deskOk desk .write va data.length = false → exec (.hostRdmaWrite desk port va data) s = .next (s.violation desk port va))) ∧
    (s.desk? desk = some d → exec (.hostRdmaRead desk port windowBase 8) s = .next { s with nak := false, rdma := leBytes 8 desk })

/-- 24 R373 to R378, R380, 14 R254: the fetched slots, by type: NOP completes with status 0, a malformed one with status 6; LAUNCH launches its body; an indirect launch does what its
prologue asks, once or a number of times; ENGINE queues its packet; SQREG adds or removes the descriptor it names, if the descriptor is good; REGRADE waits for a deferred grade;
RESUME takes up the tree of an image that is there and has no live tree, and otherwise completes with status 8. The engine that ENGINE and SQREG name and the prologue's encodings are the model's choices (log entries 20, 21), as is what is read of unlisted bytes (log entry 34)
and how an image is kept (log entry 19). -/
def Obligations.SlotEvents : Prop :=
  ∀ (s : State) (d q i : Nat) (x : Slot),
    let s1 := s.served d q
    let p := (x.bytes.drop 64).take 64
    (SlotMay s d q i 0 x → exec (.slotNop d q i) s = .next (s1.complete d q i 0 0 0)) ∧
    (s.slot? d q i = some x → x.type = 0 → s.slotReady x = true → x.badHead = true → exec (.slotNop d q i) s = .next (s1.complete d q i 6 0 0)) ∧
    (SlotMay s d q i 1 x →
      (x.f 152 16 ≠ 0 ∨ bodyMalformed x.launchBody = true → exec (.slotLaunch d q i) s = .next (s1.complete d q i 6 0 0)) ∧
      (x.f 152 16 = 0 → bodyMalformed x.launchBody = false →
        (s1.launch d (launchOf x.launchBody) (some (d, q, i)) = none → exec (.slotLaunch d q i) s = .next (s1.complete d q i 1 0 0)) ∧
        ∀ id s2, s1.launch d (launchOf x.launchBody) (some (d, q, i)) = some (id, s2) →
          exec (.slotLaunch d q i) s = .next (s2.updSlot d q i fun y => { y with started := true, tree := some id, left := 1, body := x.launchBody }))) ∧
    (SlotMay s d q i 2 x → (bodyMalformed x.launchBody = true → exec (.slotLaunchInd d q i) s = .next (s1.complete d q i 6 0 0)) ∧
      (bodyMalformed x.launchBody = false →
        (s1.prologue d (x.f 152 8) (x.f 160 8) x.launchBody = .budget → exec (.slotLaunchInd d q i) s = .next (s1.complete d q i 4 0 0)) ∧
        (s1.prologue d (x.f 152 8) (x.f 160 8) x.launchBody = .bad → exec (.slotLaunchInd d q i) s = .next (s1.complete d q i 5 0 0)) ∧
        ∀ a0 a1 body, s1.prologue d (x.f 152 8) (x.f 160 8) x.launchBody = .call a0 a1 body →
          (a0 = 0 → exec (.slotLaunchInd d q i) s = .next (s1.launchBody x body 1 false)) ∧
          (a0 = 1 → exec (.slotLaunchInd d q i) s = .next (s1.complete d q i 3 0 0)) ∧
          (a0 = 2 → 1 ≤ a1.toNat → a1.toNat ≤ 65535 → exec (.slotLaunchInd d q i) s = .next (s1.launchBody x body a1.toNat true)) ∧
          (2 < a0.toNat ∨ a0 = 2 ∧ (a1 = 0 ∨ 65535 < a1.toNat) → exec (.slotLaunchInd d q i) s = .next (s1.complete d q i 5 0 0)))) ∧
    (SlotMay s d q i 3 x → (pPhase p = 1 ∨ pStart p ≠ 0 ∨ s1.packetRefused none d (s1.deskN d) [] p = true → exec (.slotEngine d q i) s = .next (s1.complete d q i 6 0 0)) ∧
      (pPhase p ≠ 1 → pStart p = 0 → s1.packetRefused none d (s1.deskN d) [] p = false → (s.chan (chanKey d 0 0 0)).delayed = [] → Leads (exec (.slotEngine d q i) s) fun s' =>
        ∃ r, (s'.chan (chanKey d 0 0 0)).queue = (s.chan (chanKey d 0 0 0)).queue ++ [r] ∧ r.packet = p ∧ r.slot = some (d, q, i))) ∧
    (SlotMay s d q i 4 x →
      let a := x.f 24 8
      let b := s1.deskRead d a 64
      let c := chanKey d 0 (byteAt b 28 % 16) (byteAt b 28 / 16 % 4)
      let good := x.f 32 1 ≤ 1 ∧ a % 64 = 0 ∧ s1.deskOk d .read a 64 = true ∧ s1.deskOk d .write a 64 = true ∧ descriptorOk b = true
      (¬ good → exec (.slotSqreg d q i) s = .next (s1.complete d q i 6 0 0)) ∧
      (good → Leads (exec (.slotSqreg d q i) s) fun s' => ∃ l, s' = (s1.updChan c fun c => { c with shared := l }).complete d q i 0 0 0 ∧
        ((d, a) ∈ l ↔ x.f 32 1 = 1) ∧ ∀ y, y ≠ (d, a) → (y ∈ l ↔ y ∈ (s1.chan c).shared))) ∧
    (SlotMay s d q i 5 x →
      let known := ∃ o ∈ s1.proctor.ops, o.desk = d ∧ o.opid = (x.bytes.drop 24).take 26 ∧ o.grade = some 3
      (known → exec (.slotRegrade d q i) s = .next (s1.updSlot d q i fun y => { y with started := true })) ∧
      (¬ known → exec (.slotRegrade d q i) s = .next (s1.complete d q i 6 0 0))) ∧
    (SlotMay s d q i 7 x →
      (s1.imageAt true d (x.f 24 8) (x.f 32 8) = none → exec (.slotResume d q i) s = .next (s1.complete d q i 8 0 0)) ∧
      ∀ sv, s1.imageAt true d (x.f 24 8) (x.f 32 8) = some sv →
        ((s1.tree? sv.tree.id).isSome = true → exec (.slotResume d q i) s = .next (s1.complete d q i 8 0 0)) ∧
        (s1.tree? sv.tree.id = none → Leads (exec (.slotResume d q i) s) fun s' =>
          (∃ y ∈ s'.saved, y.held = true ∧ y.tree.id = sv.tree.id ∧ y.tree.slot = some (d, q, i)) ∧ ∃ z, s'.slot? d q i = some z ∧ z.started = true ∧ z.tree = some sv.tree.id))

/-- 14 R248 to R252, R254, 24 R383, 26 R390: the debug commands, in a desk that allows debugging and on the tree its session holds: HALT stops the tree or saves a chorus one, its slot completing
when that has come about, CONTINUE lets it
go on, and CLOSE every tree of the desk in a debug stop; OPEN opens the session, STEP starts a step of the wave it names, DELIVER delivers the oldest fault that holds the tree, READCTX
writes the image of a tree that stands where it stopped or was saved for the stop, WRITECTX gives it the context of one, FAULTS writes the desk's fault records; CONTINUE without a session completes with status 6. The layout of a STEP report, how an image is kept, the codes of a save and what the HALT of a tree being
saved answers are the model's choices (log entries 19, 22, 36, 76), and so are which wave STEP names, what OPEN takes and CLOSE lets go on, and status 6
without permission (log entries 60, 40). -/
def Obligations.DebugCommands : Prop :=
  ∀ (s : State) (d q i : Nat) (x : Slot) (t : Tree),
    let s1 := s.served d q
    let a := x.f 48 8
    let len := field (s1.deskRead d (a + 24) 8) 0 8
    let mine := s1.proctor.ring.filter (·.desk == d)
    let report := leBytes 8 mine.length ++ leBytes 8 (match mine with | e :: _ => e.seq | [] => 0) ++ mine.flatMap Entry.bytes
    (CommandMay s d q i 0 false x → s1.tree? x.dbgTree = some t →
      (t.cmode = false → exec (.dbgHalt d q i) s = .next ((s1.updTree t.id fun t => { t with debug := true }).acted x)) ∧
      (t.cmode = true → t.save = true ∨ t.savable = true →
        exec (.dbgHalt d q i) s = .next ((s1.askSave t.id 2).updSlot d q i fun y => { y with started := true })) ∧
      (t.cmode = true → t.save = false → t.savable = false → exec (.dbgHalt d q i) s = .next (s1.unacted x))) ∧
    (CommandMay s d q i 0 false x → s1.tree? x.dbgTree = none → exec (.dbgHalt d q i) s = .next (State.acted { s1 with
      saved := s1.saved.map fun v => if v.held && v.tree.id == x.dbgTree then { v with tree := { v.tree with saveWhy := 2 } } else v } x)) ∧
    (x.type = 6 → x.command = 0 → x.started = true → s.tree? x.dbgTree = none → s.haltOver x = true) ∧
    (CommandMay s d q i 1 false x → exec (.dbgContinue d q i) s = .next ((s1.continueTree x.dbgTree).acted x)) ∧
    (CommandMay s d q i 7 false x →
      let ids := [x.dbgTree].filter (s1.deskTree d) ++ ((s1.trees.filter fun t => t.desk == d && t.debug).map (·.id)).filter (· ≠ x.dbgTree)
      exec (.dbgClose d q i) s = .next ((ids.foldl State.continueTree (s1.updDesk d fun d => { d with held := none, stopOnFault := false })).acted x)) ∧
    (∀ w, CommandMay s d q i 2 false x → s1.tree? x.dbgTree = some t → s1.stepWave x.dbgTree (x.f 40 8) = some w → t.cmode = false → t.debug = true →
      s1.deskOk d .write a reportBytes = true → Leads (exec (.dbgStep d q i) s) fun s' => ∃ k p, s'.desk? d = some k ∧ k.step = some p ∧ p.wid = w.wid ∧ p.buf = a ∧
        p.queue = q ∧ p.index = i ∧ (w.status = .live → ∀ b, b ∈ p.todo ↔ (w.getSlot b).isSome = true)) ∧
    (CommandMay s d q i 3 false x → s1.tree? x.dbgTree = some t →
      (t.held = [] → exec (.dbgDeliver d q i) s = .next (s1.unacted x)) ∧
      (∀ h rest, t.held = h :: rest → exec (.dbgDeliver d q i) s =
        .next (((s1.deliverHeld t.id h).updTree t.id fun t => { t with debug := t.debug && t.stop.isNone }).acted x))) ∧
    ((s1.tree? x.dbgTree = some t → t.debug = true → s1.debugForm x.dbgTree = some (s1.savedForm t 0)) ∧
      (s1.tree? x.dbgTree = none → s1.debugForm x.dbgTree = s1.debugSaved x.dbgTree)) ∧
    (∀ k v key, CommandMay s d q i 4 false x → s1.debugForm x.dbgTree = some v → s1.desk? d = some k → k.key = some key → s1.deskOk d .write a v.size = true →
      let w := { s1.takeNonce.2.stamp v a s1.takeNonce.1 with held := false }
      exec (.dbgReadctx d q i) s = .next ((State.deskWrite { s1.takeNonce.2 with saved := s1.takeNonce.2.saved ++ [w] } d a (w.sealed key)).acted x)) ∧
    (∀ sv, CommandMay s d q i 5 false x → s1.deskOk d .read a len = true → s1.imageAt false d a len = some sv → sv.tree.id = x.dbgTree →
      (s1.tree? x.dbgTree = some t → t.debug = true → exec (.dbgWritectx d q i) s = .next ((s1.writeContext t sv).acted x)) ∧
      (∀ old k key, s1.tree? x.dbgTree = none → s1.debugSaved x.dbgTree = some old → s1.desk? d = some k → k.key = some key →
        ({ sv with tree := { sv.tree with slot := old.tree.slot, replayOf := old.tree.replayOf, saveWhy := 2 }, held := true, task := old.task } : Saved).size
          ≤ old.image.2 → Leads (exec (.dbgWritectx d q i) s) fun s' =>
        ∃ y ∈ s'.saved, y.held = true ∧ y.teams = sv.teams ∧ y.waves = sv.waves ∧ y.cores = sv.cores ∧ y.slices = sv.slices ∧ y.accs = sv.accs)) ∧
    (CommandMay s d q i 6 true x → s1.tree? x.dbgTree = some t → t.desk = d → (∀ k, s1.desk? d = some k → k.held = none ∨ k.held = some x.dbgTree) → x.f 56 1 ≤ 1 →
      exec (.dbgOpen d q i) s = .next ((s1.updDesk d fun d => { d with held := some x.dbgTree, stopOnFault := x.f 56 1 = 1 }).acted x)) ∧
    (CommandMay s d q i 8 true x → exec (.dbgFaults d q i) s =
      .next (if s1.deskOk d .write a report.length = true then (s1.deskWrite d a report).acted x else s1.unacted x)) ∧
    (∀ k, SlotMay s d q i 6 x → x.command = 1 → s1.desk? d = some k → (k.debugOk = false ∨ k.held ≠ some x.dbgTree ∨ s1.deskTree d x.dbgTree = false) →
      exec (.dbgContinue d q i) s = .next (s1.complete d q i 6 0 0))

/-- 24 R385: the five instructions of a Registrar hart: their results, and the traps with cause 24 to 27. The trap registers and the bound of local memory are presumed (log entry 24). -/
def Obligations.HartInstructions : Prop :=
  ∀ (s : State) (d a b : BitVec 5),
    let h := s.theHart
    let x := h.get a.toNat
    let y := h.get b.toNat
    let pos := y.toNat % 64
    let n := y.toNat / 64 % 64 + 1
    ((∀ k ∈ h.queues, k.1 ≠ x.toNat) → exec (.qfetch d a b) s = .next (s.hartTrap 24 x)) ∧
    (∀ k, h.queues.find? (fun k => k.1 == x.toNat) = some k → x.toNat ≤ 131071 →
      (s.request (k.2 / 4096) (k.2 % 4096) = none → exec (.qfetch d a b) s = .next (s.hartDone d (-1))) ∧
      (∀ bs, s.request (k.2 / 4096) (k.2 % 4096) = some bs → Leads (exec (.qfetch d a b) s) fun s' =>
        (d ≠ 0 → s'.theHart.get d.toNat = BitVec.ofNat 64 (s.queue (k.2 / 4096) (k.2 % 4096)).cons) ∧ s'.theHart.mem = h.mem.puts 0 y.toNat bs ∧ s'.theHart.pc = h.pc + 4)) ∧
    (pos + n ≤ 64 → exec (.xaedqBfx d a b) s = .next (s.hartDone d (BitVec.ofNat 64 (x.toNat / 2 ^ pos % 2 ^ n)))) ∧
    (pos + n ≤ 64 → exec (.xaedqBfxS d a b) s = .next (s.hartDone d ((BitVec.ofNat n (x.toNat / 2 ^ pos)).signExtend 64))) ∧
    (64 < pos + n → exec (.xaedqBfx d a b) s = .next (s.hartTrap 25 x) ∧ exec (.xaedqBfxS d a b) s = .next (s.hartTrap 25 x)) ∧
    (x = 0 ∨ x &&& ~~~h.lines ≠ 0 ∨ b ≠ 0 → exec (.sigwait d a b) s = .next (s.hartTrap 26 x)) ∧
    (x ≠ 0 → x &&& ~~~h.lines = 0 → b = 0 → (h.pending &&& x = 0 → exec (.sigwait d a b) s = .next (s.setHart { h with waiting := true })) ∧
      (h.pending &&& x ≠ 0 → exec (.sigwait d a b) s = .next ((s.setHart { h with pending := h.pending &&& ~~~x }).hartDone d (h.pending &&& x)))) ∧
    (x.toNat % 128 ≠ 0 ∨ hartLocal < x.toNat + 128 ∨ y.toNat ∉ h.desks → exec (.dispatch d a b) s = .next (s.hartTrap 27 x)) ∧
    (x.toNat % 128 = 0 → x.toNat + 128 ≤ hartLocal → y.toNat ∈ h.desks →
      let body := h.mem.gets 0 x.toNat 128
      (bodyMalformed body = true ∨ s.shutdown.isSome = true ∨ s.launch y.toNat (launchOf body) none = none → exec (.dispatch d a b) s = .next (s.hartDone d (-1))) ∧
      (∀ id s2, bodyMalformed body = false → s.shutdown = none → s.launch y.toNat (launchOf body) none = some (id, s2) →
        exec (.dispatch d a b) s = .next (s2.hartDone d (BitVec.ofNat 64 id))))

/-! ## Management, power, tests -/

/-- 01 R28, 20 R328, 24 R369, R386, 26 R390, R392, 28 R400, R403, R404, R406, R409, R411: the management commands: each answers a next state when the device may act on it; a body of the wrong length is answered with status 3 and a command
that the state does not allow with status 1, for the commands named; a frame is served as its code says, and a code that is not listed is answered with status 3; each command that is well-formed and allowed does
and answers what its rule says (the layouts of bodies are the model's choice, log entries 25, 59; what a decommissioned or unprovisioned device answers, log entry 41; a desk's layout on the
dies is free, log entry 10). -/
def Obligations.ManagementCommands : Prop :=
  ∀ (s : State) (tag : BitVec 16) (body : List Byte),
    let may := ManagementMay s
    let answers := fun (i : Instr) (code : Nat) => may code → ∃ s', exec i s = .next s'
    let p := s.proctor
    let unlockable := body.length = tokenBytes ∧ field body 52 12 = 0 ∧ byteAt body 17 < 32 ∧ s.tokenNames body = true ∧ byteAt body 16 = p.state ∧ (p.state = 2 ∨ p.state = 3) ∧
      0 < field body 18 2 ∧ field body 18 2 ≤ 3600 ∧ ∀ u, p.unonce = some u → s.powered - u.2 ≤ 1000 * field body 18 2
    let fusable := body.length = tokenBytes ∧ field body 52 12 = 0 ∧ field body 18 2 = 0 ∧ s.tokenNames body = true ∧ byteAt body 16 = p.state ∧
      (byteAt body 17 = 2 ∧ p.state = 1 ∧ p.keys = true ∨ byteAt body 17 = 5 ∧ 1 ≤ p.state ∧ p.state ≤ 4)
    let image := (List.range (field body 0 8)).map (chunkByte p.chunks)
    answers (.quote tag body) 1 ∧ answers (.nonce tag body) 2 ∧ answers (.unlock tag body) 3 ∧ answers (.provision tag body) 4 ∧ answers (.lifecycle tag body) 5 ∧
    answers (.desknew tag body) 0x10 ∧ answers (.deskset tag body) 0x11 ∧ answers (.deskdel tag body) 0x12 ∧ answers (.domjoin tag body) 0x18 ∧
    answers (.domleave tag body) 0x19 ∧ answers (.shutdown tag body) 0x20 ∧ answers (.faultrd tag body) 0x21 ∧ answers (.logrd tag body) 0x22 ∧
    answers (.fwchunk tag body) 0x28 ∧ answers (.fwcommit tag body) 0x29 ∧ answers (.receipt tag body) 0x2A ∧
    (may 1 → body.length ≠ 40 → Replies (.quote tag body) s 1 3 tag []) ∧ (may 1 → body.length = 40 → p.keys = false → Replies (.quote tag body) s 1 1 tag []) ∧
    (may 1 → body.length = 40 → p.keys = true →
      let q := s.quoteBody (body.take 32) (field body 32 8)
      Replies (.quote tag body) s 1 0 tag (q ++ (Config.signPss q).toList ++ (Config.signSlh q).toList)) ∧
    (may 2 → body = [] → Leads (exec (.nonce tag body) s) fun s' => ∃ u, s'.proctor.unonce = some (u, s.powered)) ∧
    (may 4 → body.length = 112 → p.state = 0 → Leads (exec (.provision tag body) s) fun s' =>
      s'.proctor.lcs = 1 ∧ s'.proctor.keys = true ∧ s'.proctor.devid = body.take 16 ∧ s'.mem = s.mem) ∧
    (may 3 → unlockable → Leads (exec (.unlock tag body) s) fun s' =>
      let t := State.destroyDesks { s.spend with desks := s.desks.map fun x => (x.1, x.2.map Desk.keyless) }
      (s.tokenSigned body = true → s'.proctor.scope = byteAt body 17 ∧ s'.proctor.state = (if bit (byteAt body 17) 4 = true then 4 else 3) ∧ s'.desks = t.desks ∧ s'.trees = t.trees) ∧
      (s.tokenSigned body = false → s' = s.spend.reply 3 2 tag [])) ∧
    (may 5 → body.length = tokenBytes → field body 52 12 = 0 → field body 18 2 = 0 → p.state = 0 → byteAt body 17 = 5 → Leads (exec (.lifecycle tag body) s) fun s' =>
      s'.proctor.lcs = 5 ∧ s'.proctor.keys = false) ∧
    (may 5 → fusable → Leads (exec (.lifecycle tag body) s) fun s' =>
      (s.tokenSigned body = true → s'.proctor.lcs = byteAt body 17 ∧ s'.proctor.state = byteAt body 17) ∧
      (s.tokenSigned body = false → s' = s.spend.reply 5 2 tag [])) ∧
    (∀ ps d n, may 0x10 → wrappedBytes ≤ body.length → items body.length (body.take (body.length - wrappedBytes)) = some ps → ({ : Desk }).withItems ps = some d →
      s.freeDesk = some n → s.desksAllowed = true → p.keys = true → 0 < d.memLen →
      (s.laidOut d ≠ [] → s.deskFits n d = true → Leads (exec (.desknew tag body) s) fun s' =>
        (∀ k, Config.unwrap (body.drop (body.length - wrappedBytes)) = some k → ∃ r, ∃ e ∈ s.laidOut d,
          s'.desk? n = some { e with key := some k, rkey := r, root := d.memLo, roots := List.replicate (d.asids - 1) d.memLo, qbase := queueTableAt }) ∧
        (Config.unwrap (body.drop (body.length - wrappedBytes)) = none → s' = s.reply 0x10 1 tag [])) ∧
      (s.laidOut d = [] ∨ s.deskFits n d = false → exec (.desknew tag body) s = .next (s.reply 0x10 1 tag []))) ∧
    (∀ ps d d', may 0x11 → 8 ≤ body.length → items body.length (body.drop 8) = some ps → s.desk? (field body 0 8) = some d → s.desksAllowed = true →
      (∀ t ∈ s.trees, t.desk ≠ field body 0 8) → (∀ x ∈ s.saved, x.held = true → x.tree.desk ≠ field body 0 8) → d.withItems ps = some d' →
      let n := field body 0 8
      let t := s.changeDesk n d d'
      (s.deskStays n d' = true → exec (.deskset tag body) s = .next (t.reply 0x11 0 tag []) ∧
        (d'.memLo = d.memLo → d'.memLen = d.memLen → t.desk? n = some d' ∧ t.mem = s.mem) ∧ ∀ x ∈ t.queues, x.1 / 4096 = n → x.1 % 4096 < d'.queues) ∧
      (s.deskStays n d' = false → exec (.deskset tag body) s = .next (s.reply 0x11 1 tag []))) ∧
    (∀ ps d, may 0x11 → 8 ≤ body.length → items body.length (body.drop 8) = some ps → s.desk? (field body 0 8) = some d →
      (∃ t ∈ s.trees, t.desk = field body 0 8) → (∃ x ∈ ps, x.1 ∈ [4, 5, 8, 10, 17]) → exec (.deskset tag body) s = .next (s.reply 0x11 1 tag [])) ∧
    (may 0x12 → body.length = 8 → s.desksAllowed = true → (s.desk? (field body 0 8)).isSome = true →
      Leads (exec (.deskdel tag body) s) fun s' => s' = (s.destroyDesk (field body 0 8)).reply 0x12 0 tag [] ∧ s'.desk? (field body 0 8) = none) ∧
    (may 0x18 → body.length = 522 → field body 0 2 ≤ 511 → field body 2 2 ≤ 511 → byteAt body 4 ≤ 17 → byteAt body 5 ≤ 17 → field body 6 4 < 2 ^ 18 →
      (∀ b ∈ body.drop 10, b.toNat ≤ 17 ∨ b.toNat = 31) → (∀ t ∈ s.trees, t.cmode = false ∨ t.started = false) → Leads (exec (.domjoin tag body) s) fun s' => s'.drift = 0 ∧
        (field body 0 2 = field body 2 2 → s'.chc = s.chc) ∧
        ∃ d, s'.domain = some d ∧ d.dev = field body 0 2 ∧ d.root = field body 2 2 ∧ d.primary = byteAt body 4 ∧ d.secondary = byteAt body 5 ∧ d.inUse = byteAt body 4 ∧ d.measured = s'.chc ∧
          ∀ i, i ∈ d.ports ↔ i < 18 ∧ bit (field body 6 4) i = true) ∧
    (may 0x19 → body = [] → s.domain.isSome = true → (∀ t ∈ s.trees, t.cmode = false ∨ t.started = false) → Leads (exec (.domleave tag body) s) fun s' => s'.domain = none ∧ s'.drift = 0) ∧
    (may 0x20 → body ≠ [] → bit (byteAt body 0) 0 = false →
      exec (.shutdown tag body) s = .next { s with shutdown := some (false, tag.toNat), trees := s.trees.map fun t => { t with noStart := true } }) ∧
    (may 0x20 → body ≠ [] → bit (byteAt body 0) 0 = true → Leads (exec (.shutdown tag body) s) fun s' => s'.shutdown = some (true, tag.toNat)) ∧
    (may 0x28 → 8 ≤ body.length → body.length ≤ 65544 → Leads (exec (.fwchunk tag body) s) fun s' => s'.proctor.chunks = p.chunks ++ [(field body 0 8, body.drop 8)]) ∧
    (may 0x29 → body.length = 8 → Leads (exec (.fwcommit tag body) s) fun s' => s'.proctor.chunks = [] ∧ s'.proctor.image = (if imageSigned image = true then image else p.image)) ∧
    (∀ x key, may 0x2A → body.length = 18 → s.walk (field body 0 8) (field body 8 8) = some x → (s.desk? (field body 0 8)).bind (·.key) = some key →
      p.version (field body 0 8) (field body 8 8) (field body 16 2) ∈ p.released → x.ver = field body 16 2 → x.off = 0 →
      let page := Store.gets emptyByte s.mem x.readFrame x.size
      let aad := p.devid ++ leBytes 2 (field body 0 8) ++ leBytes 8 (field body 8 8) ++ leBytes 2 (field body 16 2) ++ sha page
      exec (.receipt tag body) s = .next (s.takeNonce.2.reply 0x2A 0 tag (Config.gcmTag key (leBytes 12 s.takeNonce.1) aad []).toList)) ∧
    (may 4 → body.length = 112 → p.state ≠ 0 → Replies (.provision tag body) s 4 1 tag []) ∧
    (may 0x12 → body.length ≠ 8 → Replies (.deskdel tag body) s 0x12 3 tag []) ∧
    (may 0x19 → body = [] → s.domain = none → Replies (.domleave tag body) s 0x19 1 tag []) ∧
    (may 0x19 → body ≠ [] → Replies (.domleave tag body) s 0x19 3 tag []) ∧
    (may 0x20 → body = [] → Replies (.shutdown tag body) s 0x20 3 tag []) ∧
    (may 0x21 → body.length = 12 → field body 8 4 ≤ 256 →
      Replies (.faultrd tag body) s 0x21 0 tag (((p.ring.filter fun e => decide (field body 0 8 ≤ e.seq)).take (field body 8 4)).flatMap Entry.bytes)) ∧
    (may 0x22 → body.length = 12 → field body 8 4 ≤ 65536 → Replies (.logrd tag body) s 0x22 0 tag ((p.logBytes.drop (field body 0 8)).take (field body 8 4))) ∧
    (may 0x2A → body.length ≠ 18 → Replies (.receipt tag body) s 0x2A 3 tag []) ∧
    (p.state = 5 → s.power = true → s.recovery = false → s.mailWaits = false → Replies (.quote tag body) s 1 1 tag [5]) ∧
    (s.power = true → s.mailWaits = true → exec (.quote tag body) s = .next { s with mail := s.mail ++ [mgmtFrame 1 0 tag body] }) ∧
    (∀ code, may code → code ∉ [0x01, 0x02, 0x03, 0x04, 0x05, 0x10, 0x11, 0x12, 0x18, 0x19, 0x20, 0x21, 0x22, 0x28, 0x29, 0x2A] →
      State.manageAs code tag body s = .next (s.reply code 3 tag [])) ∧
    (∀ code, code < 256 → let f := leBytes 1 code ++ leBytes 1 0 ++ leBytes 2 tag.toNat ++ leBytes 4 body.length ++ body
      body.length < 2 ^ 32 → s.serveFrame f = State.manageAs code tag body (s.signal .mailbox none)) ∧
    (∀ code status, code < 256 → status < 256 → 0 < status → may code → let f := leBytes 1 code ++ leBytes 1 status ++ leBytes 2 tag.toNat ++ leBytes 4 body.length ++ body
      Leads (s.serveFrame f) fun s' => s' = (if code = 3 ∨ code = 5 then (s.signal .mailbox none).spend else s.signal .mailbox none).reply code 3 tag [])

/-- 01 R23 to R29, 26 R392, R393: power and the in-field tests: power-on boots; a removal, an undervoltage or a trip ends everything but what the logbook's store and the fuses
keep (what else a loss of supply leaves is log entry 73); a droop counts; a measurement gates issue above the budget; units throttle and recover; the logbook is stored; tests begin 10 minutes of powered time after the last, end, and are 50 minutes overdue. The keys of counters and the passing of powered time are the model's choices (log entries 41, 42); places are free (log entry 10). -/
def Obligations.PowerEvents : Prop :=
  ∀ (s : State) (mw unit die place block : Nat) (failed : Bool) (x : Nat × Nat × Option Nat),
    (s.power = false → s.recovery = false → exec .powerOn s = .next s.boot) ∧
    exec .powerRemoval s = .next s.turnOff ∧ exec .undervoltageTurnoff s = .next s.turnOff ∧ exec (.tripPoint unit) s = .next s.turnOff ∧
    (s.turnOff.power = false ∧ s.turnOff.mem = [] ∧ s.turnOff.trees = [] ∧ s.turnOff.waves = [] ∧ s.turnOff.proctor.counters = s.proctor.stored ∧
      s.turnOff.proctor.charges = s.proctor.storedCharges ∧ s.turnOff.proctor.retired = s.proctor.retired ∧ s.turnOff.proctor.spares = s.proctor.spares ∧
      s.turnOff.seconds = s.proctor.storedSecs ∧ s.turnOff.proctor.retireNext = s.proctor.retireNext ∧ s.turnOff.proctor.devid = s.proctor.devid ∧ s.turnOff.proctor.lcs = s.proctor.lcs ∧ s.turnOff.proctor.unlocked = false) ∧
    (s.power = true → exec .supplyDroop s = .next (s.count (counterKey 1 0) 32)) ∧
    (s.power = true → Leads (exec (.powerMeasurement mw) s) fun s' => s'.gated = decide (2200000 < mw)) ∧
    (s.power = true → unit ∉ s.throttled → Leads (exec (.throttlePoint unit) s) fun s' => s'.throttled = s.throttled ++ [unit] ∧
      ∀ die t, hotDie unit = some die → s.chorusTree = some t → (∃ m ∈ s.teams, m.tree = t.id ∧ s.place m.core / 96 = die) → t.savable = true →
        ∃ s1 : State, s' = s1.askSave t.id 3) ∧
    (unit ∈ s.throttled → exec (.throttleRecovery unit) s = .next { s with throttled := s.throttled.filter fun u => u ≠ unit }) ∧
    (s.power = true → exec .logbookWrite s =
      .next { s with proctor := { s.proctor with stored := s.proctor.counters, storedLog := s.proctor.logbook, storedCharges := s.proctor.charges, storedSecs := s.seconds, storedCorr := s.proctor.corrected, storedUncorr := s.proctor.uncorr } }) ∧
    (s.power = true → die ≤ 3 → place ≤ 95 → s.test? die place = none → (s.proctor.enabledOn die).contains (die * 96 + place) = true →
      s.proctor.tested.get s.proctor.onAt (die * 96 + place) + 600 ≤ s.seconds →
      Leads (exec (.infieldTestDue die place) s) fun s' => s'.tests = s.tests ++ [(die, place, s.lentAs (die * 96 + place))] ∧
        ∀ c, s.lentAs (die * 96 + place) = some c → (s'.core c).testDue = true) ∧
    (s.test? die place = some x → (∀ c, x.2.2 = some c → s.drainedCore c = true) →
      (failed = false → Leads (exec (.infieldTestComplete die place failed block) s) fun s' => s'.tests = (s.tests.filter fun y => y ≠ x) ∧
        ∀ c, x.2.2 = some c → (s'.core c).testDue = false ∧ (s'.core c).overdue = false) ∧
      (∃ s', exec (.infieldTestComplete die place failed block) s = .next s') ∧
      (failed = true → x.2.2 = none → (∀ v ∈ s.saved, v.stoodOn (die * 96 + place) = false) → Leads (exec (.infieldTestComplete die place failed block) s) fun s' => s'.tests = (s.tests.filter fun y => y ≠ x) ∧
        s'.proctor.retireNext = s.proctor.retireNext ++ [die * 96 + place])) ∧
    (s.test? die place = some x → s.proctor.tested.get s.proctor.onAt (die * 96 + place) + 3600 ≤ s.seconds → Leads (exec (.testOverdue die place) s) fun s' => ∀ c, x.2.2 = some c → (s'.core c).overdue = true)

/-! ## Frames -/

/-- 05 R84, 09 R145, 03 R62: the frame of an instruction that completes: its retirement changes no memory, no accumulator, no fault register, no flag, and no
register that no result in flight names. For each instruction whose only results are one register and flags, the same from the state it issues in, but for its
destination; %fflags only gains flags, and only where the instruction may raise them; that it gains them at issue is the model's reading (assumption log 32). -/
def Obligations.RegisterFrame : Prop :=
  (∀ (s : State) (e : Enc) (c : Ctl) (f : Frag) (t : Tree), s.wave.frag = some f → s.tree? s.wave.tree = some t → noSplit f → Quiet c →
    Keeps s (s.retire e c) ∧ (s.retire e c).wave.fflags = s.wave.fflags ∧
    ∀ r, (∀ x ∈ s.wave.flight, lands x.res r = false) → sameReg s.wave (s.retire e c).wave r) ∧
  (∀ (i : Instr) (d : Dst) (s s' : State) (f : Frag) (t : Tree), destOf i = some d → Ready i s f t → noSplit f → roundsWell f i → exec i s = .next s' →
    Keeps s s' ∧ s.wave.fflags &&& s'.wave.fflags = s.wave.fflags ∧ (flagging i = false → s'.wave.fflags = s.wave.fflags) ∧
    ∀ r, r ≠ d → (∀ x ∈ s.wave.flight, lands x.res r = false) → sameReg s.wave s'.wave r)

/-- 07 R117, 13 R213, R217, R219: the frame of the stores outside chorus mode: a near store changes no byte of any slice but the stored ones, and no byte of device
memory; a far store changes none until its commit. SST's bytes read back as the register's low bytes. The lanes of an atomic on the own slice change
only the bytes they act on. That lanes partly in the own slice make the access far is the model's reading (assumption log 30). -/
def Obligations.StoreFrame : Prop :=
  (∀ (i : Instr) (s s' : State) (f : Frag) (t : Tree) (size : Nat) (ls : List (Nat × Nat)) (d : Option Dst),
    storeForm s.wave f i = some (size, ls, d) → Ready i s f t → noSplit f → t.cmode = false → MayAccess s t .write size ls →
    (s.allNear s.wave.core t.n ls = true → s.laneBad s.wave.core t.n ls true = none) → exec i s = .next s' →
    s'.mem = s.mem ∧ s'.slicesC = s.slicesC ∧ s'.accs = s.accs ∧ s'.wave.fflags = s.wave.fflags ∧ s'.wave.fault = s.wave.fault ∧ s'.wave.epc = s.wave.epc ∧
    (s.allNear s.wave.core t.n ls = false → s'.slices = s.slices) ∧
    (∀ key, Outside s s.wave.core t.n size (ls.map (·.2)) key → s'.slices.get emptyByte key = s.slices.get emptyByte key) ∧
    (∀ r, some r ≠ d → (∀ x ∈ s.wave.flight, lands x.res r = false) → sameReg s.wave s'.wave r)) ∧
  (∀ (v : BitVec 5) (n : BitVec 4) (z : BitVec 2) (disp : BitVec 11) (s s' : State) (f : Frag) (t : Tree),
    let va := s.wave.sAddr n disp
    Ready (.sst v n z disp) s f t → noSplit f → t.cmode = false → MayAccess s t .write (2 ^ z.toNat) [(noLane, va)] → va < 0x27C000 →
    s.laneBad s.wave.core t.n [(noLane, va)] true = none → exec (.sst v n z disp) s = .next s' → readNat (s'.nowByte s.wave.core t.n) va (2 ^ z.toNat) = (s.wave.rs v.toNat).toNat % 256 ^ 2 ^ z.toNat) ∧
  (∀ (s : State) (core n aop : Nat) (ls : List (Nat × Nat × Dword × Dword)), (∀ x ∈ ls, x.2.1 < 0x27C000 ∧ x.2.1 % atomicSize aop = 0) →
    let s' := (s.atomicLanes core n aop ls).1
    s'.mem = s.mem ∧ s'.wave = s.wave ∧ ∀ key, Outside s core n (atomicSize aop) (ls.map fun x => x.2.1) key → s'.slices.get emptyByte key = s.slices.get emptyByte key)

/-! ## Retirement -/

/-- 03 R44, R62, 09 R148, 11 R180, 26 R387: retiring an instruction outside a delay slot, at which no fragment arrives at its join: the PC goes to the next instruction, to the
start of a loop body whose count is not spent, or to the delay slot of a branch; the signature takes in the instruction's bytes; the quantum counts it; a result lands after
as many issue slots as its latency says. In a delay slot control goes to the branch's target. -/
def Obligations.Retirement : Prop :=
  ∀ (s : State) (e : Enc) (f : Frag) (t : Tree), s.wave.frag = some f → s.tree? s.wave.tree = some t → s.wave.status = .live →
    (∀ g, s.wave.getSlot (!s.wave.cur) = some g → g.atJoin = false) →
    let w := s.wave
    let n := f.pc + BitVec.ofNat 64 e.bytes.length
    let sig := crcExtend f.sig e.sig
    let last := w.lcnt ≠ 0 ∧ f.pc = w.loopEnd
    let slot := fun (c : Ctl) => (s.retire e c).wave.getSlot w.cur
    (f.after = none → ¬ last → f.join ≠ some n → slot .seq = some { f with pc := n, sig := sig } ∧
      (s.retire e .seq).wave.lcnt = w.lcnt ∧
      (t.cmode = true ∨ w.retired + 1 ≠ t.q → (s.retire e .seq).wave.retired = w.retired + 1 ∧ (s.retire e .seq).wave.qnt = w.qnt) ∧
      (t.cmode = false → w.retired + 1 = t.q → (s.retire e .seq).wave.retired = 0 ∧ (s.retire e .seq).wave.qnt = w.qnt + 1) ∧
      ∀ r x lat, w.flight = [{ slot := w.cur, left := lat, res := .sca r x }] →
        (lat ≤ 1 → (s.retire e .seq).wave.flight = [] ∧ (r ≠ 0 → (s.retire e .seq).wave.rs r = x)) ∧
        (1 < lat → (s.retire e .seq).wave.flight = [{ slot := w.cur, left := lat - 1, res := .sca r x }] ∧ (s.retire e .seq).wave.rs r = w.rs r)) ∧
    (f.after = none → last → 1 < w.lcnt.toNat → f.join ≠ some w.loopStart →
      slot .seq = some { f with pc := w.loopStart, sig := sig } ∧ (s.retire e .seq).wave.lcnt = w.lcnt - 1) ∧
    (f.after = none → last → w.lcnt = 1 → f.join ≠ some n → slot .seq = some { f with pc := n, sig := sig } ∧ (s.retire e .seq).wave.lcnt = 0) ∧
    (f.after = none → ∀ a, slot (.delay a) = some { f with pc := n, after := some a, sig := sig }) ∧
    (∀ g, f.after = some (.goto g) → f.join ≠ some g → slot .seq = some { f with pc := g, after := none, sig := sig })

/-! ## Reset, step, decoding, the canonical form -/

/-- 01 R15, R29, 03 R32, 05 R84, 07 R130, 16 R260, 17 R306, 26 R390, 28 R405, R408: what the spec says of the machine after reset: no power to the dies; chorus count 0; an empty fault
record; blank fuses; the measurements zero; every register of the wave that stands idle 0 (R32 gives a wave that starts the same; assumption log 5); on every core free buffer-table entries, empty receive tags and zero weight planes with plane 0 active. -/
def Obligations.ResetState : Prop :=
  let s := State.reset
  let p := s.proctor
  let w := s.wave
  s.power = false ∧ s.chc = 0 ∧ s.drift = 0 ∧ s.domain = none ∧ s.trees = [] ∧ s.seconds = 0 ∧ p.ring = [] ∧ p.seq = 0 ∧ p.lcs = 0 ∧ p.keys = false ∧ p.unlocked = false ∧
  p.devid = [] ∧ p.meas = List.replicate 4 (List.replicate 48 0) ∧
  (∀ r, w.rs r = 0 ∧ w.ra r = 0 ∧ w.rk r = 0 ∧ w.rh r = none ∧ (r ≠ 0 → w.rm r = 0) ∧ ∀ l, w.rv r l = 0) ∧
  w.fflags = 0 ∧ w.fc = 0 ∧ w.qnt = 0 ∧ w.lcnt = 0 ∧ w.fault = 0 ∧ w.faddr = 0 ∧ w.epc = 0 ∧ w.etgt = 0 ∧ w.hpc = 0 ∧ w.fdat = 0 ∧
  ∀ key, let c := s.core key
    (∀ i, (c.bufs.get {} i).state = 0 ∧ (c.bufs.get {} i).count = 0) ∧ (∀ i, c.tags.get 0 i = 0) ∧ c.active = false ∧ c.plane0.bytes = [] ∧ c.plane1.bytes = [] ∧
    c.plane0.bfmt = 6 ∧ c.plane1.bfmt = 6 ∧ c.plane0.scale = 0 ∧ c.plane1.scale = 0

/-- 09 R131, R142, 03 R41, 28 R410: a step performs the input that waits first, and serves the management frame that waits first unless a request is being performed; with neither, no event due and no act called for, the wave chosen to issue fetches at its fragment's PC, and
when those bytes decode to an instruction the step is that instruction's `exec`; an encoding that is none runs as the undefined major; a fetch that fails raises its fault. A
Registrar hart's word runs the Xaedq instruction it decodes to. With no wave to issue the count goes on. That an input comes before
anything else, and the order of the cores within a count, are the model's choices (log entries 11, 7). -/
def Obligations.StepRunsTheDecodedInstruction : Prop :=
  ∀ s : State,
    (∀ i rest, s.inbox = i :: rest → step s = exec i { s with inbox := rest }) ∧
    (∀ f rest, s.inbox = [] → s.mailWaits = false → s.mail = f :: rest → step s = ({ s with mail := rest } : State).serveFrame f) ∧
    (s.inbox = [] → s.mail = [] ∨ s.mailWaits = true → s.power = true →
      (∀ w i, s.hartWord = some w → s.hartReady w = true → decodeXaedq w = some i → step s = exec i s) ∧
      (s.hartWord = none → (∀ d rest, s.agenda = d :: rest → s.chc < d.at_) → s.act = none →
        (s.nextIssue = none → step s = .next s.nextCount) ∧
        ∀ c w f t, s.nextIssue = some (c, w) →
          let r := s.take c w
          r.wave.frag = some f → r.tree? r.wave.tree = some t →
          (∀ word len, r.fetch t r.wave.core f.pc = .ok (word, len) →
            (∀ i, decode (leBytes len word) = .ok (i, []) → step s = exec i r) ∧
            (∀ maj, decode (leBytes len word) = .error (.illegal maj) → step s = exec .udf r)) ∧
          (∀ e, r.fetch t r.wave.core f.pc = .error e → e.code ≠ MEMERR → step s = .next (r.raise e))))

/-- 09 Tables 9-1 to 9-10: words written out from the encoding tables, one or more of each format. -/
def Obligations.DecodedWords : Prop :=
  decodeTableWord 32 0x00082301 = some (.add 3 1 2) ∧
  decodeTableWord 32 0x9F80A40B = some (.shli 4 5 63) ∧
  decodeTableWord 32 0xFFFC4117 = some (.addi 1 2 16383) ∧
  decodeTableWord 32 0x4F204111 = some (.bfx 1 2 8 15 1) ∧
  decodeTableWord 32 0xFFFF691F = some (.lih 9 524283) ∧
  decodeTableWord 32 0x0023EF23 = some (.mova 15 31 8) ∧
  decodeTableWord 32 0x0080072B = some (.mfs 7 32) ∧
  decodeTableWord 32 0xFFB44131 = some (.bc 1 2 5 2045) ∧
  decodeTableWord 32 0xFFFFFC33 = some (.j 16777212) ∧
  decodeTableWord 32 0x01202B39 = some (.bv 3 5 9) ∧
  decodeTableWord 32 0x0310A13B = some (.jtv 33 2 4 6) ∧
  decodeTableWord 32 0x0140063D = some (.loopl 6 10) ∧
  decodeTableWord 16 0xFFE0 = some (.vmov 63 31) ∧
  decodeTableWord 16 0x103E = some (.vfmaxF32x16 1 2) ∧
  decodeTableWord 32 0x361F8141 = some (.vaddS32 1 62 33 5) ∧
  decodeTableWord 32 0x0230815B = some (.vshli 1 2 3 4) ∧
  decodeTableWord 32 0x0290085D = some (.vmovs 8 9 1) ∧
  decodeTableWord 32 0x34881A53 = some (.vcmpU32 2 3 4 1 5) ∧
  decodeTableWord 32 0x20C2CA67 = some (.vfmaF16X2 10 11 12 0) ∧
  decodeTableWord 32 0x803D8591 = some (.vldc 5 6 7 1 0 8) ∧
  decodeTableWord 32 0x02A18597 = some (.vstg 5 6 40 2 0) ∧
  decodeTableWord 32 0xFF18839B = some (.sld 3 4 2 1 2040) ∧
  decodeTableWord 32 0xD11102A9 = some (.atomvCas 0 2 4 1 1 1) ∧
  decodeTableWord 32 0x011060BB = some (.barx 3 4 0) ∧
  decodeTableWord 32 0x020000C7 = some (.exit) ∧
  decodeTableWord 32 0x358621D7 = some (.mma 1 2 3 4 5 0 1 1) ∧
  decodeTableWord 32 0x008041DF = some (.fbind 1 2) ∧
  decodeTableWord 32 0x008321E9 = some (.cpyq 1 2 3 4) ∧
  decodeTableWord 32 0x008321F7 = some (.tsend 1 2 3 4) ∧
  decodeTableWord 32 0x019000F9 = some (.trap 100) ∧
  decodeTableWord 32 0x000000FB = some (.eret)

/-- 09 R131 to R144: decoding an encoded instruction of CIS gives it back, whatever follows it; and bytes that decode to an instruction other than the
undefined major begin with that instruction's own bytes. -/
def Obligations.DecodeOfEncode : Prop :=
  (∀ (i : Instr) (rest : List Byte), cis i = true → i.wellFormed = true → decode (i.bytes ++ rest) = .ok (i, rest)) ∧
  (∀ (bs rest : List Byte) (i : Instr), decode bs = .ok (i, rest) → i ≠ .udf → cis i = true ∧ i.wellFormed = true ∧ bs = i.bytes ++ rest)

/-- The canonical form of the memories at reset. It is the model's own form of memory (assumption log 1 names what an unlisted byte reads as). -/
def Obligations.CanonicalAtReset : Prop := Canonical State.reset

/-- Every step keeps the memories in their canonical form: equal memories are equal data. The form is the model's own (assumption log 1). -/
def Obligations.CanonicalKept : Prop := ∀ s s' : State, Canonical s → step s = .next s' → Canonical s'
end

