-- ==== Sys2Proof/Laws/Store.lean ====
section
/-! SUPPORT. Laws of sparse storage and of the memories: a read after a write, writes elsewhere, and the canonical form, which every operation on a
memory keeps. -/

namespace Sys2Proof.Machine

/-! ## Read after write -/

theorem Store.get_insert_self {α : Type} (d x : α) (k : Nat) : ∀ st : Store α, (st.insert k x).get d k = x
  | [] => by simp [Store.insert, Store.get]
  | (j, y) :: r => by
    unfold Store.insert
    split
    · simp [Store.get]
    · split
      · simp [Store.get]
      · next h => simp [Store.get, Ne.symm h, Store.get_insert_self d x k r]

theorem Store.get_insert_ne {α : Type} (d x : α) {k i : Nat} (h : i ≠ k) : ∀ st : Store α, (st.insert k x).get d i = st.get d i
  | [] => by simp [Store.insert, Store.get, Ne.symm h]
  | (j, y) :: r => by
    unfold Store.insert
    split
    · simp [Store.get, Ne.symm h]
    · split
      · next e => subst e; simp [Store.get, Ne.symm h]
      · simp [Store.get, Store.get_insert_ne d x h r]

theorem Store.get_erase_self {α : Type} (d : α) (k : Nat) : ∀ st : Store α, (st.erase k).get d k = d
  | [] => rfl
  | (j, y) :: r => by
    unfold Store.erase
    split
    · exact Store.get_erase_self d k r
    · next h => simp [Store.get, h, Store.get_erase_self d k r]

theorem Store.get_erase_ne {α : Type} (d : α) {k i : Nat} (h : i ≠ k) : ∀ st : Store α, (st.erase k).get d i = st.get d i
  | [] => rfl
  | (j, y) :: r => by
    unfold Store.erase
    split
    · next e => subst e; simp [Store.get, Ne.symm h, Store.get_erase_ne d h r]
    · simp [Store.get, Store.get_erase_ne d h r]

/-- A key reads as what was last written there. -/
@[simp] theorem Store.get_put_self {α : Type} [DecidableEq α] (d : α) (st : Store α) (k : Nat) (x : α) : (st.put d k x).get d k = x := by
  unfold Store.put
  split
  · next h => rw [h, Store.get_erase_self]
  · exact Store.get_insert_self d x k st

/-- A write leaves every other key alone. -/
theorem Store.get_put_ne {α : Type} [DecidableEq α] (d : α) (st : Store α) {k i : Nat} (x : α) (h : i ≠ k) :
    (st.put d k x).get d i = st.get d i := by
  unfold Store.put
  split
  · exact Store.get_erase_ne d h st
  · exact Store.get_insert_ne d x h st

/-- What any key reads after one write. -/
theorem Store.get_put {α : Type} [DecidableEq α] (d : α) (st : Store α) (k i : Nat) (x : α) :
    (st.put d k x).get d i = if i = k then x else st.get d i := by
  split
  · next h => rw [h, Store.get_put_self]
  · next h => exact Store.get_put_ne d st x h

/-- What any key reads after a run of writes. -/
theorem Store.get_puts {α : Type} [DecidableEq α] (d : α) (i : Nat) : ∀ (xs : List α) (st : Store α) (k : Nat),
    (st.puts d k xs).get d i = if k ≤ i ∧ i < k + xs.length then xs.getD (i - k) d else st.get d i
  | [], st, k => by simp [Store.puts] <;> omega
  | x :: xs, st, k => by
    rw [Store.puts, Store.get_puts d i xs, Store.get_put]
    by_cases h : i = k
    · subst h
      rw [if_neg (by omega), if_pos rfl, if_pos (by simp), Nat.sub_self]; rfl
    · by_cases h2 : k + 1 ≤ i ∧ i < k + 1 + xs.length
      · have e : i - k = (i - (k + 1)) + 1 := by omega
        rw [if_pos h2, if_pos (by simp; omega), e]; rfl
      · rw [if_neg h2, if_neg h, if_neg (by simp; omega)]

/-- A run of reads gives one key at each place. -/
theorem Store.getD_gets {α : Type} (d : α) (st : Store α) (j : Nat) : ∀ (n k : Nat), j < n → (st.gets d k n).getD j d = st.get d (k + j)
  | 0, _, h => absurd h (Nat.not_lt_zero j)
  | n + 1, k, h => by
    cases j with
    | zero => rfl
    | succ j =>
      have e : k + (j + 1) = k + 1 + j := by omega
      rw [e, ← Store.getD_gets d st j n (k + 1) (by omega)]; rfl

/-! ## The canonical form -/

/-- Keys above `lo`, strictly rising, and no default value. -/
def Store.Above {α : Type} (d : α) : Nat → Store α → Prop
  | _, [] => True
  | lo, (k, x) :: r => lo < k ∧ x ≠ d ∧ Store.Above d k r

theorem Store.Above.weaken {α : Type} {d : α} {a b : Nat} (h : a ≤ b) : ∀ {st : Store α}, Store.Above d b st → Store.Above d a st
  | [], _ => trivial
  | (_, _) :: _, ⟨h1, h2, h3⟩ => ⟨Nat.lt_of_le_of_lt h h1, h2, h3⟩

theorem Store.canon_cons {α : Type} [DecidableEq α] (d x : α) (k : Nat) : ∀ r : Store α,
    Store.canon d ((k, x) :: r) = true ↔ x ≠ d ∧ Store.Above d k r
  | [] => by simp [Store.canon, Store.Above]
  | (j, y) :: r => by
    have h := Store.canon_cons d y j r
    simp only [Store.canon, Bool.and_eq_true, decide_eq_true_eq, Store.Above, h, and_assoc]

theorem Store.above_erase {α : Type} {d : α} (k : Nat) : ∀ {lo : Nat} {st : Store α}, Store.Above d lo st → Store.Above d lo (st.erase k)
  | _, [], _ => trivial
  | lo, (j, y) :: r, ⟨h1, h2, h3⟩ => by
    unfold Store.erase
    split
    · exact Store.above_erase k (h3.weaken (Nat.le_of_lt h1))
    · exact ⟨h1, h2, Store.above_erase k h3⟩

theorem Store.above_insert {α : Type} {d x : α} {k : Nat} (hx : x ≠ d) : ∀ {lo : Nat} {st : Store α}, lo < k → Store.Above d lo st →
    Store.Above d lo (st.insert k x)
  | _, [], h, _ => ⟨h, hx, trivial⟩
  | lo, (j, y) :: r, h, ⟨h1, h2, h3⟩ => by
    unfold Store.insert
    split
    · next e => exact ⟨h, hx, e, h2, h3⟩
    · split
      · next e => exact ⟨h, hx, e ▸ h3⟩
      · next e1 e2 => exact ⟨h1, h2, Store.above_insert hx (by omega) h3⟩

theorem Store.canon_erase {α : Type} [DecidableEq α] {d : α} (k : Nat) : ∀ {st : Store α}, st.canon d = true → (st.erase k).canon d = true
  | [], h => h
  | (j, y) :: r, h => by
    obtain ⟨h1, h2⟩ := (Store.canon_cons d y j r).mp h
    have h3 := Store.above_erase k h2
    unfold Store.erase
    split
    · cases e : Store.erase k r with
      | nil => rfl
      | cons z t => rw [e] at h3; exact (Store.canon_cons d z.2 z.1 t).mpr ⟨h3.2.1, h3.2.2⟩
    · exact (Store.canon_cons d y j _).mpr ⟨h1, h3⟩

theorem Store.canon_insert {α : Type} [DecidableEq α] {d x : α} {k : Nat} (hx : x ≠ d) : ∀ {st : Store α}, st.canon d = true →
    (st.insert k x).canon d = true
  | [], _ => by simp [Store.insert, Store.canon, hx]
  | (j, y) :: r, h => by
    obtain ⟨h1, h2⟩ := (Store.canon_cons d y j r).mp h
    unfold Store.insert
    split
    · next e => exact (Store.canon_cons d x k _).mpr ⟨hx, e, h1, h2⟩
    · split
      · next e => exact (Store.canon_cons d x k r).mpr ⟨hx, e ▸ h2⟩
      · next e1 e2 => exact (Store.canon_cons d y j _).mpr ⟨h1, Store.above_insert hx (by omega) h2⟩

/-- One write keeps the canonical form. -/
theorem Store.canon_put {α : Type} [DecidableEq α] {d : α} {st : Store α} (k : Nat) (x : α) (h : st.canon d = true) :
    (st.put d k x).canon d = true := by
  unfold Store.put
  split
  · exact Store.canon_erase k h
  · next hx => exact Store.canon_insert hx h

/-- A run of writes keeps it. -/
theorem Store.canon_puts {α : Type} [DecidableEq α] {d : α} : ∀ (xs : List α) {st : Store α} (k : Nat), st.canon d = true →
    (st.puts d k xs).canon d = true
  | [], _, _, h => h
  | x :: xs, _, k, h => Store.canon_puts xs (k + 1) (Store.canon_put k x h)

/-- Writes at scattered keys keep it. -/
theorem Store.canon_foldl_put {α β : Type} [DecidableEq α] {d : α} (key : β → Nat) (val : β → α) : ∀ (xs : List β) {st : Store α}, st.canon d = true →
    Store.canon d (xs.foldl (fun (m : Store α) x => m.put d (key x) (val x)) st) = true
  | [], _, h => h
  | x :: xs, _, h => Store.canon_foldl_put key val xs (Store.canon_put (key x) (val x) h)

theorem Store.above_filter {α : Type} {d : α} (p : Nat × α → Bool) : ∀ {lo : Nat} {st : Store α}, Store.Above d lo st → Store.Above d lo (st.filter p)
  | _, [], _ => trivial
  | lo, (j, y) :: r, ⟨h1, h2, h3⟩ => by
    rw [List.filter_cons]
    split
    · exact ⟨h1, h2, Store.above_filter p h3⟩
    · exact Store.above_filter p (h3.weaken (Nat.le_of_lt h1))

/-- Dropping entries keeps it. -/
theorem Store.canon_filter {α : Type} [DecidableEq α] {d : α} (p : Nat × α → Bool) : ∀ {st : Store α}, st.canon d = true →
    Store.canon d (st.filter p) = true
  | [], h => h
  | (j, y) :: r, h => by
    obtain ⟨h1, h2⟩ := (Store.canon_cons d y j r).mp h
    have h3 := Store.above_filter p h2
    rw [List.filter_cons]
    split
    · exact (Store.canon_cons d y j _).mpr ⟨h1, h3⟩
    · cases e : List.filter p r with
      | nil => rfl
      | cons z t => rw [e] at h3; exact (Store.canon_cons d z.2 z.1 t).mpr ⟨h3.2.1, h3.2.2⟩

/-! ## Operations on the memories -/

/-- A store to device memory keeps its canonical form. -/
theorem State.devPut_wf {s : State} (pa : Nat) (bs : List Byte) (h : Memory.wf s.mem = true) : Memory.wf (s.devPut pa bs).mem = true :=
  Store.canon_puts bs pa h

/-- Writing bytes into a slice keeps the slices' canonical form. -/
theorem State.slicePut_canon {s : State} (core off : Nat) (bs : List Byte) (h : s.slices.canon emptyByte = true) :
    (s.slicePut core off bs).slices.canon emptyByte = true :=
  Store.canon_puts bs _ h

/-- What a store of one byte can do: nothing, a byte of a slice, or a byte of device memory. -/
theorem State.storeByte_cases (s : State) (core n va : Nat) (b : Byte) :
    (∃ e, s.locate core n va = .error e ∧ s.storeByte core n va b = s) ∨
    (∃ c o, s.locate core n va = .ok (.slice c o) ∧ s.storeByte core n va b = { s with slices := s.slices.put emptyByte (sliceKey c o) b }) ∨
    (∃ x, s.locate core n va = .ok (.page x) ∧ s.storeByte core n va b = { s with mem := Store.put emptyByte s.mem (x.writeFrame + x.off) b }) := by
  unfold State.storeByte
  split
  · next e h => exact .inl ⟨e, h, rfl⟩
  · next c o h => exact .inr (.inl ⟨c, o, h, rfl⟩)
  · next x h => exact .inr (.inr ⟨x, h, rfl⟩)

/-- A store of bytes changes the slices and device memory at most, and keeps their canonical form. -/
theorem State.storeBytes_frame (core n : Nat) : ∀ (bs : List (Nat × Byte)) (s : State), ∃ sl m, s.storeBytes core n bs = { s with slices := sl, mem := m } ∧
    (s.slices.canon emptyByte = true → sl.canon emptyByte = true) ∧ (Memory.wf s.mem = true → Memory.wf m = true)
  | [], s => ⟨s.slices, s.mem, rfl, id, id⟩
  | (va, b) :: r, s => by
    rcases State.storeByte_cases s core n va b with ⟨e, _, h⟩ | ⟨c, o, _, h⟩ | ⟨x, _, h⟩
    · obtain ⟨sl, m, h1, h2, h3⟩ := State.storeBytes_frame core n r s
      exact ⟨sl, m, by rw [State.storeBytes, h, h1], h2, h3⟩
    · obtain ⟨sl, m, h1, h2, h3⟩ := State.storeBytes_frame core n r { s with slices := s.slices.put emptyByte (sliceKey c o) b }
      exact ⟨sl, m, by rw [State.storeBytes, h, h1], fun hs => h2 (Store.canon_put _ _ hs), h3⟩
    · obtain ⟨sl, m, h1, h2, h3⟩ := State.storeBytes_frame core n r { s with mem := Store.put emptyByte s.mem (x.writeFrame + x.off) b }
      exact ⟨sl, m, by rw [State.storeBytes, h, h1], h2, fun hm => h3 (Store.canon_put _ _ hm)⟩

/-- The memory after reset is canonical. -/
theorem reset_memory_canonical : Memory.wf State.reset.mem = true := rfl

end Sys2Proof.Machine
end

