-- ==== Sys2Proof/Laws/State.lean ====
section
/-! SUPPORT. The fields of the state after each shared update of it: one lemma per field that the update leaves alone, and the value of the field
it writes. -/

namespace Sys2Proof.Machine

/-! ## State.upd -/

@[simp] theorem State.upd_waves (s : State) (f : Wave → Wave) : (s.upd f).waves = s.waves := rfl
@[simp] theorem State.upd_teams (s : State) (f : Wave → Wave) : (s.upd f).teams = s.teams := rfl
@[simp] theorem State.upd_trees (s : State) (f : Wave → Wave) : (s.upd f).trees = s.trees := rfl
@[simp] theorem State.upd_cores (s : State) (f : Wave → Wave) : (s.upd f).cores = s.cores := rfl
@[simp] theorem State.upd_slices (s : State) (f : Wave → Wave) : (s.upd f).slices = s.slices := rfl
@[simp] theorem State.upd_slicesC (s : State) (f : Wave → Wave) : (s.upd f).slicesC = s.slicesC := rfl
@[simp] theorem State.upd_accs (s : State) (f : Wave → Wave) : (s.upd f).accs = s.accs := rfl
@[simp] theorem State.upd_mem (s : State) (f : Wave → Wave) : (s.upd f).mem = s.mem := rfl
@[simp] theorem State.upd_chc (s : State) (f : Wave → Wave) : (s.upd f).chc = s.chc := rfl
@[simp] theorem State.upd_slip (s : State) (f : Wave → Wave) : (s.upd f).slip = s.slip := rfl
@[simp] theorem State.upd_slipAt (s : State) (f : Wave → Wave) : (s.upd f).slipAt = s.slipAt := rfl
@[simp] theorem State.upd_drift (s : State) (f : Wave → Wave) : (s.upd f).drift = s.drift := rfl
@[simp] theorem State.upd_agenda (s : State) (f : Wave → Wave) : (s.upd f).agenda = s.agenda := rfl
@[simp] theorem State.upd_desks (s : State) (f : Wave → Wave) : (s.upd f).desks = s.desks := rfl
@[simp] theorem State.upd_chans (s : State) (f : Wave → Wave) : (s.upd f).chans = s.chans := rfl
@[simp] theorem State.upd_accesses (s : State) (f : Wave → Wave) : (s.upd f).accesses = s.accesses := rfl
@[simp] theorem State.upd_held (s : State) (f : Wave → Wave) : (s.upd f).held = s.held := rfl
@[simp] theorem State.upd_clashes (s : State) (f : Wave → Wave) : (s.upd f).clashes = s.clashes := rfl
@[simp] theorem State.upd_tasks (s : State) (f : Wave → Wave) : (s.upd f).tasks = s.tasks := rfl
@[simp] theorem State.upd_domain (s : State) (f : Wave → Wave) : (s.upd f).domain = s.domain := rfl
@[simp] theorem State.upd_runsIn (s : State) (f : Wave → Wave) : (s.upd f).runsIn = s.runsIn := rfl
@[simp] theorem State.upd_flowsOut (s : State) (f : Wave → Wave) : (s.upd f).flowsOut = s.flowsOut := rfl
@[simp] theorem State.upd_flowsIn (s : State) (f : Wave → Wave) : (s.upd f).flowsIn = s.flowsIn := rfl
@[simp] theorem State.upd_links (s : State) (f : Wave → Wave) : (s.upd f).links = s.links := rfl
@[simp] theorem State.upd_linkFree (s : State) (f : Wave → Wave) : (s.upd f).linkFree = s.linkFree := rfl
@[simp] theorem State.upd_relayed (s : State) (f : Wave → Wave) : (s.upd f).relayed = s.relayed := rfl
@[simp] theorem State.upd_wire (s : State) (f : Wave → Wave) : (s.upd f).wire = s.wire := rfl
@[simp] theorem State.upd_proctor (s : State) (f : Wave → Wave) : (s.upd f).proctor = s.proctor := rfl
@[simp] theorem State.upd_saved (s : State) (f : Wave → Wave) : (s.upd f).saved = s.saved := rfl
@[simp] theorem State.upd_nextAcc (s : State) (f : Wave → Wave) : (s.upd f).nextAcc = s.nextAcc := rfl
@[simp] theorem State.upd_free (s : State) (f : Wave → Wave) : (s.upd f).free = s.free := rfl
@[simp] theorem State.upd_undo (s : State) (f : Wave → Wave) : (s.upd f).undo = s.undo := rfl
@[simp] theorem State.upd_badLines (s : State) (f : Wave → Wave) : (s.upd f).badLines = s.badLines := rfl
@[simp] theorem State.upd_badWords (s : State) (f : Wave → Wave) : (s.upd f).badWords = s.badWords := rfl
@[simp] theorem State.upd_badBanks (s : State) (f : Wave → Wave) : (s.upd f).badBanks = s.badBanks := rfl
@[simp] theorem State.upd_tests (s : State) (f : Wave → Wave) : (s.upd f).tests = s.tests := rfl
@[simp] theorem State.upd_deferrals (s : State) (f : Wave → Wave) : (s.upd f).deferrals = s.deferrals := rfl
@[simp] theorem State.upd_lastDesk (s : State) (f : Wave → Wave) : (s.upd f).lastDesk = s.lastDesk := rfl

/-! ## State.result -/

@[simp] theorem State.result_waves (s : State) (lat : Nat) (r : Res) : (s.result lat r).waves = s.waves := rfl
@[simp] theorem State.result_teams (s : State) (lat : Nat) (r : Res) : (s.result lat r).teams = s.teams := rfl
@[simp] theorem State.result_trees (s : State) (lat : Nat) (r : Res) : (s.result lat r).trees = s.trees := rfl
@[simp] theorem State.result_cores (s : State) (lat : Nat) (r : Res) : (s.result lat r).cores = s.cores := rfl
@[simp] theorem State.result_slices (s : State) (lat : Nat) (r : Res) : (s.result lat r).slices = s.slices := rfl
@[simp] theorem State.result_slicesC (s : State) (lat : Nat) (r : Res) : (s.result lat r).slicesC = s.slicesC := rfl
@[simp] theorem State.result_accs (s : State) (lat : Nat) (r : Res) : (s.result lat r).accs = s.accs := rfl
@[simp] theorem State.result_mem (s : State) (lat : Nat) (r : Res) : (s.result lat r).mem = s.mem := rfl
@[simp] theorem State.result_chc (s : State) (lat : Nat) (r : Res) : (s.result lat r).chc = s.chc := rfl
@[simp] theorem State.result_slip (s : State) (lat : Nat) (r : Res) : (s.result lat r).slip = s.slip := rfl
@[simp] theorem State.result_slipAt (s : State) (lat : Nat) (r : Res) : (s.result lat r).slipAt = s.slipAt := rfl
@[simp] theorem State.result_drift (s : State) (lat : Nat) (r : Res) : (s.result lat r).drift = s.drift := rfl
@[simp] theorem State.result_agenda (s : State) (lat : Nat) (r : Res) : (s.result lat r).agenda = s.agenda := rfl
@[simp] theorem State.result_desks (s : State) (lat : Nat) (r : Res) : (s.result lat r).desks = s.desks := rfl
@[simp] theorem State.result_chans (s : State) (lat : Nat) (r : Res) : (s.result lat r).chans = s.chans := rfl
@[simp] theorem State.result_accesses (s : State) (lat : Nat) (r : Res) : (s.result lat r).accesses = s.accesses := rfl
@[simp] theorem State.result_held (s : State) (lat : Nat) (r : Res) : (s.result lat r).held = s.held := rfl
@[simp] theorem State.result_clashes (s : State) (lat : Nat) (r : Res) : (s.result lat r).clashes = s.clashes := rfl
@[simp] theorem State.result_tasks (s : State) (lat : Nat) (r : Res) : (s.result lat r).tasks = s.tasks := rfl
@[simp] theorem State.result_domain (s : State) (lat : Nat) (r : Res) : (s.result lat r).domain = s.domain := rfl
@[simp] theorem State.result_runsIn (s : State) (lat : Nat) (r : Res) : (s.result lat r).runsIn = s.runsIn := rfl
@[simp] theorem State.result_flowsOut (s : State) (lat : Nat) (r : Res) : (s.result lat r).flowsOut = s.flowsOut := rfl
@[simp] theorem State.result_flowsIn (s : State) (lat : Nat) (r : Res) : (s.result lat r).flowsIn = s.flowsIn := rfl
@[simp] theorem State.result_links (s : State) (lat : Nat) (r : Res) : (s.result lat r).links = s.links := rfl
@[simp] theorem State.result_linkFree (s : State) (lat : Nat) (r : Res) : (s.result lat r).linkFree = s.linkFree := rfl
@[simp] theorem State.result_relayed (s : State) (lat : Nat) (r : Res) : (s.result lat r).relayed = s.relayed := rfl
@[simp] theorem State.result_wire (s : State) (lat : Nat) (r : Res) : (s.result lat r).wire = s.wire := rfl
@[simp] theorem State.result_proctor (s : State) (lat : Nat) (r : Res) : (s.result lat r).proctor = s.proctor := rfl
@[simp] theorem State.result_saved (s : State) (lat : Nat) (r : Res) : (s.result lat r).saved = s.saved := rfl
@[simp] theorem State.result_nextAcc (s : State) (lat : Nat) (r : Res) : (s.result lat r).nextAcc = s.nextAcc := rfl
@[simp] theorem State.result_free (s : State) (lat : Nat) (r : Res) : (s.result lat r).free = s.free := rfl
@[simp] theorem State.result_undo (s : State) (lat : Nat) (r : Res) : (s.result lat r).undo = s.undo := rfl
@[simp] theorem State.result_badLines (s : State) (lat : Nat) (r : Res) : (s.result lat r).badLines = s.badLines := rfl
@[simp] theorem State.result_badWords (s : State) (lat : Nat) (r : Res) : (s.result lat r).badWords = s.badWords := rfl
@[simp] theorem State.result_badBanks (s : State) (lat : Nat) (r : Res) : (s.result lat r).badBanks = s.badBanks := rfl
@[simp] theorem State.result_tests (s : State) (lat : Nat) (r : Res) : (s.result lat r).tests = s.tests := rfl
@[simp] theorem State.result_deferrals (s : State) (lat : Nat) (r : Res) : (s.result lat r).deferrals = s.deferrals := rfl
@[simp] theorem State.result_lastDesk (s : State) (lat : Nat) (r : Res) : (s.result lat r).lastDesk = s.lastDesk := rfl

/-! ## State.flag -/

@[simp] theorem State.flag_waves (s : State) (g : Word) : (s.flag g).waves = s.waves := rfl
@[simp] theorem State.flag_teams (s : State) (g : Word) : (s.flag g).teams = s.teams := rfl
@[simp] theorem State.flag_trees (s : State) (g : Word) : (s.flag g).trees = s.trees := rfl
@[simp] theorem State.flag_cores (s : State) (g : Word) : (s.flag g).cores = s.cores := rfl
@[simp] theorem State.flag_slices (s : State) (g : Word) : (s.flag g).slices = s.slices := rfl
@[simp] theorem State.flag_slicesC (s : State) (g : Word) : (s.flag g).slicesC = s.slicesC := rfl
@[simp] theorem State.flag_accs (s : State) (g : Word) : (s.flag g).accs = s.accs := rfl
@[simp] theorem State.flag_mem (s : State) (g : Word) : (s.flag g).mem = s.mem := rfl
@[simp] theorem State.flag_chc (s : State) (g : Word) : (s.flag g).chc = s.chc := rfl
@[simp] theorem State.flag_slip (s : State) (g : Word) : (s.flag g).slip = s.slip := rfl
@[simp] theorem State.flag_slipAt (s : State) (g : Word) : (s.flag g).slipAt = s.slipAt := rfl
@[simp] theorem State.flag_drift (s : State) (g : Word) : (s.flag g).drift = s.drift := rfl
@[simp] theorem State.flag_agenda (s : State) (g : Word) : (s.flag g).agenda = s.agenda := rfl
@[simp] theorem State.flag_desks (s : State) (g : Word) : (s.flag g).desks = s.desks := rfl
@[simp] theorem State.flag_chans (s : State) (g : Word) : (s.flag g).chans = s.chans := rfl
@[simp] theorem State.flag_accesses (s : State) (g : Word) : (s.flag g).accesses = s.accesses := rfl
@[simp] theorem State.flag_held (s : State) (g : Word) : (s.flag g).held = s.held := rfl
@[simp] theorem State.flag_clashes (s : State) (g : Word) : (s.flag g).clashes = s.clashes := rfl
@[simp] theorem State.flag_tasks (s : State) (g : Word) : (s.flag g).tasks = s.tasks := rfl
@[simp] theorem State.flag_domain (s : State) (g : Word) : (s.flag g).domain = s.domain := rfl
@[simp] theorem State.flag_runsIn (s : State) (g : Word) : (s.flag g).runsIn = s.runsIn := rfl
@[simp] theorem State.flag_flowsOut (s : State) (g : Word) : (s.flag g).flowsOut = s.flowsOut := rfl
@[simp] theorem State.flag_flowsIn (s : State) (g : Word) : (s.flag g).flowsIn = s.flowsIn := rfl
@[simp] theorem State.flag_links (s : State) (g : Word) : (s.flag g).links = s.links := rfl
@[simp] theorem State.flag_linkFree (s : State) (g : Word) : (s.flag g).linkFree = s.linkFree := rfl
@[simp] theorem State.flag_relayed (s : State) (g : Word) : (s.flag g).relayed = s.relayed := rfl
@[simp] theorem State.flag_wire (s : State) (g : Word) : (s.flag g).wire = s.wire := rfl
@[simp] theorem State.flag_proctor (s : State) (g : Word) : (s.flag g).proctor = s.proctor := rfl
@[simp] theorem State.flag_saved (s : State) (g : Word) : (s.flag g).saved = s.saved := rfl
@[simp] theorem State.flag_nextAcc (s : State) (g : Word) : (s.flag g).nextAcc = s.nextAcc := rfl
@[simp] theorem State.flag_free (s : State) (g : Word) : (s.flag g).free = s.free := rfl
@[simp] theorem State.flag_undo (s : State) (g : Word) : (s.flag g).undo = s.undo := rfl
@[simp] theorem State.flag_badLines (s : State) (g : Word) : (s.flag g).badLines = s.badLines := rfl
@[simp] theorem State.flag_badWords (s : State) (g : Word) : (s.flag g).badWords = s.badWords := rfl
@[simp] theorem State.flag_badBanks (s : State) (g : Word) : (s.flag g).badBanks = s.badBanks := rfl
@[simp] theorem State.flag_tests (s : State) (g : Word) : (s.flag g).tests = s.tests := rfl
@[simp] theorem State.flag_deferrals (s : State) (g : Word) : (s.flag g).deferrals = s.deferrals := rfl
@[simp] theorem State.flag_lastDesk (s : State) (g : Word) : (s.flag g).lastDesk = s.lastDesk := rfl

/-! ## State.setCore -/

@[simp] theorem State.setCore_wave (s : State) (k : Nat) (c : Core) : (s.setCore k c).wave = s.wave := rfl
@[simp] theorem State.setCore_waves (s : State) (k : Nat) (c : Core) : (s.setCore k c).waves = s.waves := rfl
@[simp] theorem State.setCore_teams (s : State) (k : Nat) (c : Core) : (s.setCore k c).teams = s.teams := rfl
@[simp] theorem State.setCore_trees (s : State) (k : Nat) (c : Core) : (s.setCore k c).trees = s.trees := rfl
@[simp] theorem State.setCore_slices (s : State) (k : Nat) (c : Core) : (s.setCore k c).slices = s.slices := rfl
@[simp] theorem State.setCore_slicesC (s : State) (k : Nat) (c : Core) : (s.setCore k c).slicesC = s.slicesC := rfl
@[simp] theorem State.setCore_accs (s : State) (k : Nat) (c : Core) : (s.setCore k c).accs = s.accs := rfl
@[simp] theorem State.setCore_mem (s : State) (k : Nat) (c : Core) : (s.setCore k c).mem = s.mem := rfl
@[simp] theorem State.setCore_chc (s : State) (k : Nat) (c : Core) : (s.setCore k c).chc = s.chc := rfl
@[simp] theorem State.setCore_slip (s : State) (k : Nat) (c : Core) : (s.setCore k c).slip = s.slip := rfl
@[simp] theorem State.setCore_slipAt (s : State) (k : Nat) (c : Core) : (s.setCore k c).slipAt = s.slipAt := rfl
@[simp] theorem State.setCore_drift (s : State) (k : Nat) (c : Core) : (s.setCore k c).drift = s.drift := rfl
@[simp] theorem State.setCore_agenda (s : State) (k : Nat) (c : Core) : (s.setCore k c).agenda = s.agenda := rfl
@[simp] theorem State.setCore_desks (s : State) (k : Nat) (c : Core) : (s.setCore k c).desks = s.desks := rfl
@[simp] theorem State.setCore_chans (s : State) (k : Nat) (c : Core) : (s.setCore k c).chans = s.chans := rfl
@[simp] theorem State.setCore_accesses (s : State) (k : Nat) (c : Core) : (s.setCore k c).accesses = s.accesses := rfl
@[simp] theorem State.setCore_held (s : State) (k : Nat) (c : Core) : (s.setCore k c).held = s.held := rfl
@[simp] theorem State.setCore_clashes (s : State) (k : Nat) (c : Core) : (s.setCore k c).clashes = s.clashes := rfl
@[simp] theorem State.setCore_tasks (s : State) (k : Nat) (c : Core) : (s.setCore k c).tasks = s.tasks := rfl
@[simp] theorem State.setCore_domain (s : State) (k : Nat) (c : Core) : (s.setCore k c).domain = s.domain := rfl
@[simp] theorem State.setCore_runsIn (s : State) (k : Nat) (c : Core) : (s.setCore k c).runsIn = s.runsIn := rfl
@[simp] theorem State.setCore_flowsOut (s : State) (k : Nat) (c : Core) : (s.setCore k c).flowsOut = s.flowsOut := rfl
@[simp] theorem State.setCore_flowsIn (s : State) (k : Nat) (c : Core) : (s.setCore k c).flowsIn = s.flowsIn := rfl
@[simp] theorem State.setCore_links (s : State) (k : Nat) (c : Core) : (s.setCore k c).links = s.links := rfl
@[simp] theorem State.setCore_linkFree (s : State) (k : Nat) (c : Core) : (s.setCore k c).linkFree = s.linkFree := rfl
@[simp] theorem State.setCore_relayed (s : State) (k : Nat) (c : Core) : (s.setCore k c).relayed = s.relayed := rfl
@[simp] theorem State.setCore_wire (s : State) (k : Nat) (c : Core) : (s.setCore k c).wire = s.wire := rfl
@[simp] theorem State.setCore_proctor (s : State) (k : Nat) (c : Core) : (s.setCore k c).proctor = s.proctor := rfl
@[simp] theorem State.setCore_saved (s : State) (k : Nat) (c : Core) : (s.setCore k c).saved = s.saved := rfl
@[simp] theorem State.setCore_nextAcc (s : State) (k : Nat) (c : Core) : (s.setCore k c).nextAcc = s.nextAcc := rfl
@[simp] theorem State.setCore_free (s : State) (k : Nat) (c : Core) : (s.setCore k c).free = s.free := rfl
@[simp] theorem State.setCore_undo (s : State) (k : Nat) (c : Core) : (s.setCore k c).undo = s.undo := rfl
@[simp] theorem State.setCore_badLines (s : State) (k : Nat) (c : Core) : (s.setCore k c).badLines = s.badLines := rfl
@[simp] theorem State.setCore_badWords (s : State) (k : Nat) (c : Core) : (s.setCore k c).badWords = s.badWords := rfl
@[simp] theorem State.setCore_badBanks (s : State) (k : Nat) (c : Core) : (s.setCore k c).badBanks = s.badBanks := rfl
@[simp] theorem State.setCore_tests (s : State) (k : Nat) (c : Core) : (s.setCore k c).tests = s.tests := rfl
@[simp] theorem State.setCore_deferrals (s : State) (k : Nat) (c : Core) : (s.setCore k c).deferrals = s.deferrals := rfl
@[simp] theorem State.setCore_lastDesk (s : State) (k : Nat) (c : Core) : (s.setCore k c).lastDesk = s.lastDesk := rfl

/-! ## State.updCore -/

@[simp] theorem State.updCore_wave (s : State) (k : Nat) (f : Core → Core) : (s.updCore k f).wave = s.wave := rfl
@[simp] theorem State.updCore_waves (s : State) (k : Nat) (f : Core → Core) : (s.updCore k f).waves = s.waves := rfl
@[simp] theorem State.updCore_teams (s : State) (k : Nat) (f : Core → Core) : (s.updCore k f).teams = s.teams := rfl
@[simp] theorem State.updCore_trees (s : State) (k : Nat) (f : Core → Core) : (s.updCore k f).trees = s.trees := rfl
@[simp] theorem State.updCore_slices (s : State) (k : Nat) (f : Core → Core) : (s.updCore k f).slices = s.slices := rfl
@[simp] theorem State.updCore_slicesC (s : State) (k : Nat) (f : Core → Core) : (s.updCore k f).slicesC = s.slicesC := rfl
@[simp] theorem State.updCore_accs (s : State) (k : Nat) (f : Core → Core) : (s.updCore k f).accs = s.accs := rfl
@[simp] theorem State.updCore_mem (s : State) (k : Nat) (f : Core → Core) : (s.updCore k f).mem = s.mem := rfl
@[simp] theorem State.updCore_chc (s : State) (k : Nat) (f : Core → Core) : (s.updCore k f).chc = s.chc := rfl
@[simp] theorem State.updCore_slip (s : State) (k : Nat) (f : Core → Core) : (s.updCore k f).slip = s.slip := rfl
@[simp] theorem State.updCore_slipAt (s : State) (k : Nat) (f : Core → Core) : (s.updCore k f).slipAt = s.slipAt := rfl
@[simp] theorem State.updCore_drift (s : State) (k : Nat) (f : Core → Core) : (s.updCore k f).drift = s.drift := rfl
@[simp] theorem State.updCore_agenda (s : State) (k : Nat) (f : Core → Core) : (s.updCore k f).agenda = s.agenda := rfl
@[simp] theorem State.updCore_desks (s : State) (k : Nat) (f : Core → Core) : (s.updCore k f).desks = s.desks := rfl
@[simp] theorem State.updCore_chans (s : State) (k : Nat) (f : Core → Core) : (s.updCore k f).chans = s.chans := rfl
@[simp] theorem State.updCore_accesses (s : State) (k : Nat) (f : Core → Core) : (s.updCore k f).accesses = s.accesses := rfl
@[simp] theorem State.updCore_held (s : State) (k : Nat) (f : Core → Core) : (s.updCore k f).held = s.held := rfl
@[simp] theorem State.updCore_clashes (s : State) (k : Nat) (f : Core → Core) : (s.updCore k f).clashes = s.clashes := rfl
@[simp] theorem State.updCore_tasks (s : State) (k : Nat) (f : Core → Core) : (s.updCore k f).tasks = s.tasks := rfl
@[simp] theorem State.updCore_domain (s : State) (k : Nat) (f : Core → Core) : (s.updCore k f).domain = s.domain := rfl
@[simp] theorem State.updCore_runsIn (s : State) (k : Nat) (f : Core → Core) : (s.updCore k f).runsIn = s.runsIn := rfl
@[simp] theorem State.updCore_flowsOut (s : State) (k : Nat) (f : Core → Core) : (s.updCore k f).flowsOut = s.flowsOut := rfl
@[simp] theorem State.updCore_flowsIn (s : State) (k : Nat) (f : Core → Core) : (s.updCore k f).flowsIn = s.flowsIn := rfl
@[simp] theorem State.updCore_links (s : State) (k : Nat) (f : Core → Core) : (s.updCore k f).links = s.links := rfl
@[simp] theorem State.updCore_linkFree (s : State) (k : Nat) (f : Core → Core) : (s.updCore k f).linkFree = s.linkFree := rfl
@[simp] theorem State.updCore_relayed (s : State) (k : Nat) (f : Core → Core) : (s.updCore k f).relayed = s.relayed := rfl
@[simp] theorem State.updCore_wire (s : State) (k : Nat) (f : Core → Core) : (s.updCore k f).wire = s.wire := rfl
@[simp] theorem State.updCore_proctor (s : State) (k : Nat) (f : Core → Core) : (s.updCore k f).proctor = s.proctor := rfl
@[simp] theorem State.updCore_saved (s : State) (k : Nat) (f : Core → Core) : (s.updCore k f).saved = s.saved := rfl
@[simp] theorem State.updCore_nextAcc (s : State) (k : Nat) (f : Core → Core) : (s.updCore k f).nextAcc = s.nextAcc := rfl
@[simp] theorem State.updCore_free (s : State) (k : Nat) (f : Core → Core) : (s.updCore k f).free = s.free := rfl
@[simp] theorem State.updCore_undo (s : State) (k : Nat) (f : Core → Core) : (s.updCore k f).undo = s.undo := rfl
@[simp] theorem State.updCore_badLines (s : State) (k : Nat) (f : Core → Core) : (s.updCore k f).badLines = s.badLines := rfl
@[simp] theorem State.updCore_badWords (s : State) (k : Nat) (f : Core → Core) : (s.updCore k f).badWords = s.badWords := rfl
@[simp] theorem State.updCore_badBanks (s : State) (k : Nat) (f : Core → Core) : (s.updCore k f).badBanks = s.badBanks := rfl
@[simp] theorem State.updCore_tests (s : State) (k : Nat) (f : Core → Core) : (s.updCore k f).tests = s.tests := rfl
@[simp] theorem State.updCore_deferrals (s : State) (k : Nat) (f : Core → Core) : (s.updCore k f).deferrals = s.deferrals := rfl
@[simp] theorem State.updCore_lastDesk (s : State) (k : Nat) (f : Core → Core) : (s.updCore k f).lastDesk = s.lastDesk := rfl

/-! ## State.updTree -/

@[simp] theorem State.updTree_wave (s : State) (i : Nat) (f : Tree → Tree) : (s.updTree i f).wave = s.wave := rfl
@[simp] theorem State.updTree_waves (s : State) (i : Nat) (f : Tree → Tree) : (s.updTree i f).waves = s.waves := rfl
@[simp] theorem State.updTree_teams (s : State) (i : Nat) (f : Tree → Tree) : (s.updTree i f).teams = s.teams := rfl
@[simp] theorem State.updTree_cores (s : State) (i : Nat) (f : Tree → Tree) : (s.updTree i f).cores = s.cores := rfl
@[simp] theorem State.updTree_slices (s : State) (i : Nat) (f : Tree → Tree) : (s.updTree i f).slices = s.slices := rfl
@[simp] theorem State.updTree_slicesC (s : State) (i : Nat) (f : Tree → Tree) : (s.updTree i f).slicesC = s.slicesC := rfl
@[simp] theorem State.updTree_accs (s : State) (i : Nat) (f : Tree → Tree) : (s.updTree i f).accs = s.accs := rfl
@[simp] theorem State.updTree_mem (s : State) (i : Nat) (f : Tree → Tree) : (s.updTree i f).mem = s.mem := rfl
@[simp] theorem State.updTree_chc (s : State) (i : Nat) (f : Tree → Tree) : (s.updTree i f).chc = s.chc := rfl
@[simp] theorem State.updTree_slip (s : State) (i : Nat) (f : Tree → Tree) : (s.updTree i f).slip = s.slip := rfl
@[simp] theorem State.updTree_slipAt (s : State) (i : Nat) (f : Tree → Tree) : (s.updTree i f).slipAt = s.slipAt := rfl
@[simp] theorem State.updTree_drift (s : State) (i : Nat) (f : Tree → Tree) : (s.updTree i f).drift = s.drift := rfl
@[simp] theorem State.updTree_agenda (s : State) (i : Nat) (f : Tree → Tree) : (s.updTree i f).agenda = s.agenda := rfl
@[simp] theorem State.updTree_desks (s : State) (i : Nat) (f : Tree → Tree) : (s.updTree i f).desks = s.desks := rfl
@[simp] theorem State.updTree_chans (s : State) (i : Nat) (f : Tree → Tree) : (s.updTree i f).chans = s.chans := rfl
@[simp] theorem State.updTree_accesses (s : State) (i : Nat) (f : Tree → Tree) : (s.updTree i f).accesses = s.accesses := rfl
@[simp] theorem State.updTree_held (s : State) (i : Nat) (f : Tree → Tree) : (s.updTree i f).held = s.held := rfl
@[simp] theorem State.updTree_clashes (s : State) (i : Nat) (f : Tree → Tree) : (s.updTree i f).clashes = s.clashes := rfl
@[simp] theorem State.updTree_tasks (s : State) (i : Nat) (f : Tree → Tree) : (s.updTree i f).tasks = s.tasks := rfl
@[simp] theorem State.updTree_domain (s : State) (i : Nat) (f : Tree → Tree) : (s.updTree i f).domain = s.domain := rfl
@[simp] theorem State.updTree_runsIn (s : State) (i : Nat) (f : Tree → Tree) : (s.updTree i f).runsIn = s.runsIn := rfl
@[simp] theorem State.updTree_flowsOut (s : State) (i : Nat) (f : Tree → Tree) : (s.updTree i f).flowsOut = s.flowsOut := rfl
@[simp] theorem State.updTree_flowsIn (s : State) (i : Nat) (f : Tree → Tree) : (s.updTree i f).flowsIn = s.flowsIn := rfl
@[simp] theorem State.updTree_links (s : State) (i : Nat) (f : Tree → Tree) : (s.updTree i f).links = s.links := rfl
@[simp] theorem State.updTree_linkFree (s : State) (i : Nat) (f : Tree → Tree) : (s.updTree i f).linkFree = s.linkFree := rfl
@[simp] theorem State.updTree_relayed (s : State) (i : Nat) (f : Tree → Tree) : (s.updTree i f).relayed = s.relayed := rfl
@[simp] theorem State.updTree_wire (s : State) (i : Nat) (f : Tree → Tree) : (s.updTree i f).wire = s.wire := rfl
@[simp] theorem State.updTree_proctor (s : State) (i : Nat) (f : Tree → Tree) : (s.updTree i f).proctor = s.proctor := rfl
@[simp] theorem State.updTree_saved (s : State) (i : Nat) (f : Tree → Tree) : (s.updTree i f).saved = s.saved := rfl
@[simp] theorem State.updTree_nextAcc (s : State) (i : Nat) (f : Tree → Tree) : (s.updTree i f).nextAcc = s.nextAcc := rfl
@[simp] theorem State.updTree_free (s : State) (i : Nat) (f : Tree → Tree) : (s.updTree i f).free = s.free := rfl
@[simp] theorem State.updTree_undo (s : State) (i : Nat) (f : Tree → Tree) : (s.updTree i f).undo = s.undo := rfl
@[simp] theorem State.updTree_badLines (s : State) (i : Nat) (f : Tree → Tree) : (s.updTree i f).badLines = s.badLines := rfl
@[simp] theorem State.updTree_badWords (s : State) (i : Nat) (f : Tree → Tree) : (s.updTree i f).badWords = s.badWords := rfl
@[simp] theorem State.updTree_badBanks (s : State) (i : Nat) (f : Tree → Tree) : (s.updTree i f).badBanks = s.badBanks := rfl
@[simp] theorem State.updTree_tests (s : State) (i : Nat) (f : Tree → Tree) : (s.updTree i f).tests = s.tests := rfl
@[simp] theorem State.updTree_deferrals (s : State) (i : Nat) (f : Tree → Tree) : (s.updTree i f).deferrals = s.deferrals := rfl
@[simp] theorem State.updTree_lastDesk (s : State) (i : Nat) (f : Tree → Tree) : (s.updTree i f).lastDesk = s.lastDesk := rfl

/-! ## State.updTeam -/

@[simp] theorem State.updTeam_wave (s : State) (w : Wave) (f : Team → Team) : (s.updTeam w f).wave = s.wave := rfl
@[simp] theorem State.updTeam_waves (s : State) (w : Wave) (f : Team → Team) : (s.updTeam w f).waves = s.waves := rfl
@[simp] theorem State.updTeam_trees (s : State) (w : Wave) (f : Team → Team) : (s.updTeam w f).trees = s.trees := rfl
@[simp] theorem State.updTeam_cores (s : State) (w : Wave) (f : Team → Team) : (s.updTeam w f).cores = s.cores := rfl
@[simp] theorem State.updTeam_slices (s : State) (w : Wave) (f : Team → Team) : (s.updTeam w f).slices = s.slices := rfl
@[simp] theorem State.updTeam_slicesC (s : State) (w : Wave) (f : Team → Team) : (s.updTeam w f).slicesC = s.slicesC := rfl
@[simp] theorem State.updTeam_accs (s : State) (w : Wave) (f : Team → Team) : (s.updTeam w f).accs = s.accs := rfl
@[simp] theorem State.updTeam_mem (s : State) (w : Wave) (f : Team → Team) : (s.updTeam w f).mem = s.mem := rfl
@[simp] theorem State.updTeam_chc (s : State) (w : Wave) (f : Team → Team) : (s.updTeam w f).chc = s.chc := rfl
@[simp] theorem State.updTeam_slip (s : State) (w : Wave) (f : Team → Team) : (s.updTeam w f).slip = s.slip := rfl
@[simp] theorem State.updTeam_slipAt (s : State) (w : Wave) (f : Team → Team) : (s.updTeam w f).slipAt = s.slipAt := rfl
@[simp] theorem State.updTeam_drift (s : State) (w : Wave) (f : Team → Team) : (s.updTeam w f).drift = s.drift := rfl
@[simp] theorem State.updTeam_agenda (s : State) (w : Wave) (f : Team → Team) : (s.updTeam w f).agenda = s.agenda := rfl
@[simp] theorem State.updTeam_desks (s : State) (w : Wave) (f : Team → Team) : (s.updTeam w f).desks = s.desks := rfl
@[simp] theorem State.updTeam_chans (s : State) (w : Wave) (f : Team → Team) : (s.updTeam w f).chans = s.chans := rfl
@[simp] theorem State.updTeam_accesses (s : State) (w : Wave) (f : Team → Team) : (s.updTeam w f).accesses = s.accesses := rfl
@[simp] theorem State.updTeam_held (s : State) (w : Wave) (f : Team → Team) : (s.updTeam w f).held = s.held := rfl
@[simp] theorem State.updTeam_clashes (s : State) (w : Wave) (f : Team → Team) : (s.updTeam w f).clashes = s.clashes := rfl
@[simp] theorem State.updTeam_tasks (s : State) (w : Wave) (f : Team → Team) : (s.updTeam w f).tasks = s.tasks := rfl
@[simp] theorem State.updTeam_domain (s : State) (w : Wave) (f : Team → Team) : (s.updTeam w f).domain = s.domain := rfl
@[simp] theorem State.updTeam_runsIn (s : State) (w : Wave) (f : Team → Team) : (s.updTeam w f).runsIn = s.runsIn := rfl
@[simp] theorem State.updTeam_flowsOut (s : State) (w : Wave) (f : Team → Team) : (s.updTeam w f).flowsOut = s.flowsOut := rfl
@[simp] theorem State.updTeam_flowsIn (s : State) (w : Wave) (f : Team → Team) : (s.updTeam w f).flowsIn = s.flowsIn := rfl
@[simp] theorem State.updTeam_links (s : State) (w : Wave) (f : Team → Team) : (s.updTeam w f).links = s.links := rfl
@[simp] theorem State.updTeam_linkFree (s : State) (w : Wave) (f : Team → Team) : (s.updTeam w f).linkFree = s.linkFree := rfl
@[simp] theorem State.updTeam_relayed (s : State) (w : Wave) (f : Team → Team) : (s.updTeam w f).relayed = s.relayed := rfl
@[simp] theorem State.updTeam_wire (s : State) (w : Wave) (f : Team → Team) : (s.updTeam w f).wire = s.wire := rfl
@[simp] theorem State.updTeam_proctor (s : State) (w : Wave) (f : Team → Team) : (s.updTeam w f).proctor = s.proctor := rfl
@[simp] theorem State.updTeam_saved (s : State) (w : Wave) (f : Team → Team) : (s.updTeam w f).saved = s.saved := rfl
@[simp] theorem State.updTeam_nextAcc (s : State) (w : Wave) (f : Team → Team) : (s.updTeam w f).nextAcc = s.nextAcc := rfl
@[simp] theorem State.updTeam_free (s : State) (w : Wave) (f : Team → Team) : (s.updTeam w f).free = s.free := rfl
@[simp] theorem State.updTeam_undo (s : State) (w : Wave) (f : Team → Team) : (s.updTeam w f).undo = s.undo := rfl
@[simp] theorem State.updTeam_badLines (s : State) (w : Wave) (f : Team → Team) : (s.updTeam w f).badLines = s.badLines := rfl
@[simp] theorem State.updTeam_badWords (s : State) (w : Wave) (f : Team → Team) : (s.updTeam w f).badWords = s.badWords := rfl
@[simp] theorem State.updTeam_badBanks (s : State) (w : Wave) (f : Team → Team) : (s.updTeam w f).badBanks = s.badBanks := rfl
@[simp] theorem State.updTeam_tests (s : State) (w : Wave) (f : Team → Team) : (s.updTeam w f).tests = s.tests := rfl
@[simp] theorem State.updTeam_deferrals (s : State) (w : Wave) (f : Team → Team) : (s.updTeam w f).deferrals = s.deferrals := rfl
@[simp] theorem State.updTeam_lastDesk (s : State) (w : Wave) (f : Team → Team) : (s.updTeam w f).lastDesk = s.lastDesk := rfl

/-! ## State.updWave -/

@[simp] theorem State.updWave_teams (s : State) (i : Nat) (f : Wave → Wave) : (s.updWave i f).teams = s.teams := rfl
@[simp] theorem State.updWave_trees (s : State) (i : Nat) (f : Wave → Wave) : (s.updWave i f).trees = s.trees := rfl
@[simp] theorem State.updWave_cores (s : State) (i : Nat) (f : Wave → Wave) : (s.updWave i f).cores = s.cores := rfl
@[simp] theorem State.updWave_slices (s : State) (i : Nat) (f : Wave → Wave) : (s.updWave i f).slices = s.slices := rfl
@[simp] theorem State.updWave_slicesC (s : State) (i : Nat) (f : Wave → Wave) : (s.updWave i f).slicesC = s.slicesC := rfl
@[simp] theorem State.updWave_accs (s : State) (i : Nat) (f : Wave → Wave) : (s.updWave i f).accs = s.accs := rfl
@[simp] theorem State.updWave_mem (s : State) (i : Nat) (f : Wave → Wave) : (s.updWave i f).mem = s.mem := rfl
@[simp] theorem State.updWave_chc (s : State) (i : Nat) (f : Wave → Wave) : (s.updWave i f).chc = s.chc := rfl
@[simp] theorem State.updWave_slip (s : State) (i : Nat) (f : Wave → Wave) : (s.updWave i f).slip = s.slip := rfl
@[simp] theorem State.updWave_slipAt (s : State) (i : Nat) (f : Wave → Wave) : (s.updWave i f).slipAt = s.slipAt := rfl
@[simp] theorem State.updWave_drift (s : State) (i : Nat) (f : Wave → Wave) : (s.updWave i f).drift = s.drift := rfl
@[simp] theorem State.updWave_agenda (s : State) (i : Nat) (f : Wave → Wave) : (s.updWave i f).agenda = s.agenda := rfl
@[simp] theorem State.updWave_desks (s : State) (i : Nat) (f : Wave → Wave) : (s.updWave i f).desks = s.desks := rfl
@[simp] theorem State.updWave_chans (s : State) (i : Nat) (f : Wave → Wave) : (s.updWave i f).chans = s.chans := rfl
@[simp] theorem State.updWave_accesses (s : State) (i : Nat) (f : Wave → Wave) : (s.updWave i f).accesses = s.accesses := rfl
@[simp] theorem State.updWave_held (s : State) (i : Nat) (f : Wave → Wave) : (s.updWave i f).held = s.held := rfl
@[simp] theorem State.updWave_clashes (s : State) (i : Nat) (f : Wave → Wave) : (s.updWave i f).clashes = s.clashes := rfl
@[simp] theorem State.updWave_tasks (s : State) (i : Nat) (f : Wave → Wave) : (s.updWave i f).tasks = s.tasks := rfl
@[simp] theorem State.updWave_domain (s : State) (i : Nat) (f : Wave → Wave) : (s.updWave i f).domain = s.domain := rfl
@[simp] theorem State.updWave_runsIn (s : State) (i : Nat) (f : Wave → Wave) : (s.updWave i f).runsIn = s.runsIn := rfl
@[simp] theorem State.updWave_flowsOut (s : State) (i : Nat) (f : Wave → Wave) : (s.updWave i f).flowsOut = s.flowsOut := rfl
@[simp] theorem State.updWave_flowsIn (s : State) (i : Nat) (f : Wave → Wave) : (s.updWave i f).flowsIn = s.flowsIn := rfl
@[simp] theorem State.updWave_links (s : State) (i : Nat) (f : Wave → Wave) : (s.updWave i f).links = s.links := rfl
@[simp] theorem State.updWave_linkFree (s : State) (i : Nat) (f : Wave → Wave) : (s.updWave i f).linkFree = s.linkFree := rfl
@[simp] theorem State.updWave_relayed (s : State) (i : Nat) (f : Wave → Wave) : (s.updWave i f).relayed = s.relayed := rfl
@[simp] theorem State.updWave_wire (s : State) (i : Nat) (f : Wave → Wave) : (s.updWave i f).wire = s.wire := rfl
@[simp] theorem State.updWave_proctor (s : State) (i : Nat) (f : Wave → Wave) : (s.updWave i f).proctor = s.proctor := rfl
@[simp] theorem State.updWave_saved (s : State) (i : Nat) (f : Wave → Wave) : (s.updWave i f).saved = s.saved := rfl
@[simp] theorem State.updWave_nextAcc (s : State) (i : Nat) (f : Wave → Wave) : (s.updWave i f).nextAcc = s.nextAcc := rfl
@[simp] theorem State.updWave_free (s : State) (i : Nat) (f : Wave → Wave) : (s.updWave i f).free = s.free := rfl
@[simp] theorem State.updWave_undo (s : State) (i : Nat) (f : Wave → Wave) : (s.updWave i f).undo = s.undo := rfl
@[simp] theorem State.updWave_badLines (s : State) (i : Nat) (f : Wave → Wave) : (s.updWave i f).badLines = s.badLines := rfl
@[simp] theorem State.updWave_badWords (s : State) (i : Nat) (f : Wave → Wave) : (s.updWave i f).badWords = s.badWords := rfl
@[simp] theorem State.updWave_badBanks (s : State) (i : Nat) (f : Wave → Wave) : (s.updWave i f).badBanks = s.badBanks := rfl
@[simp] theorem State.updWave_tests (s : State) (i : Nat) (f : Wave → Wave) : (s.updWave i f).tests = s.tests := rfl
@[simp] theorem State.updWave_deferrals (s : State) (i : Nat) (f : Wave → Wave) : (s.updWave i f).deferrals = s.deferrals := rfl
@[simp] theorem State.updWave_lastDesk (s : State) (i : Nat) (f : Wave → Wave) : (s.updWave i f).lastDesk = s.lastDesk := rfl

/-! ## State.mapWaves -/

@[simp] theorem State.mapWaves_teams (s : State) (f : Wave → Wave) : (s.mapWaves f).teams = s.teams := rfl
@[simp] theorem State.mapWaves_trees (s : State) (f : Wave → Wave) : (s.mapWaves f).trees = s.trees := rfl
@[simp] theorem State.mapWaves_cores (s : State) (f : Wave → Wave) : (s.mapWaves f).cores = s.cores := rfl
@[simp] theorem State.mapWaves_slices (s : State) (f : Wave → Wave) : (s.mapWaves f).slices = s.slices := rfl
@[simp] theorem State.mapWaves_slicesC (s : State) (f : Wave → Wave) : (s.mapWaves f).slicesC = s.slicesC := rfl
@[simp] theorem State.mapWaves_accs (s : State) (f : Wave → Wave) : (s.mapWaves f).accs = s.accs := rfl
@[simp] theorem State.mapWaves_mem (s : State) (f : Wave → Wave) : (s.mapWaves f).mem = s.mem := rfl
@[simp] theorem State.mapWaves_chc (s : State) (f : Wave → Wave) : (s.mapWaves f).chc = s.chc := rfl
@[simp] theorem State.mapWaves_slip (s : State) (f : Wave → Wave) : (s.mapWaves f).slip = s.slip := rfl
@[simp] theorem State.mapWaves_slipAt (s : State) (f : Wave → Wave) : (s.mapWaves f).slipAt = s.slipAt := rfl
@[simp] theorem State.mapWaves_drift (s : State) (f : Wave → Wave) : (s.mapWaves f).drift = s.drift := rfl
@[simp] theorem State.mapWaves_agenda (s : State) (f : Wave → Wave) : (s.mapWaves f).agenda = s.agenda := rfl
@[simp] theorem State.mapWaves_desks (s : State) (f : Wave → Wave) : (s.mapWaves f).desks = s.desks := rfl
@[simp] theorem State.mapWaves_chans (s : State) (f : Wave → Wave) : (s.mapWaves f).chans = s.chans := rfl
@[simp] theorem State.mapWaves_accesses (s : State) (f : Wave → Wave) : (s.mapWaves f).accesses = s.accesses := rfl
@[simp] theorem State.mapWaves_held (s : State) (f : Wave → Wave) : (s.mapWaves f).held = s.held := rfl
@[simp] theorem State.mapWaves_clashes (s : State) (f : Wave → Wave) : (s.mapWaves f).clashes = s.clashes := rfl
@[simp] theorem State.mapWaves_tasks (s : State) (f : Wave → Wave) : (s.mapWaves f).tasks = s.tasks := rfl
@[simp] theorem State.mapWaves_domain (s : State) (f : Wave → Wave) : (s.mapWaves f).domain = s.domain := rfl
@[simp] theorem State.mapWaves_runsIn (s : State) (f : Wave → Wave) : (s.mapWaves f).runsIn = s.runsIn := rfl
@[simp] theorem State.mapWaves_flowsOut (s : State) (f : Wave → Wave) : (s.mapWaves f).flowsOut = s.flowsOut := rfl
@[simp] theorem State.mapWaves_flowsIn (s : State) (f : Wave → Wave) : (s.mapWaves f).flowsIn = s.flowsIn := rfl
@[simp] theorem State.mapWaves_links (s : State) (f : Wave → Wave) : (s.mapWaves f).links = s.links := rfl
@[simp] theorem State.mapWaves_linkFree (s : State) (f : Wave → Wave) : (s.mapWaves f).linkFree = s.linkFree := rfl
@[simp] theorem State.mapWaves_relayed (s : State) (f : Wave → Wave) : (s.mapWaves f).relayed = s.relayed := rfl
@[simp] theorem State.mapWaves_wire (s : State) (f : Wave → Wave) : (s.mapWaves f).wire = s.wire := rfl
@[simp] theorem State.mapWaves_proctor (s : State) (f : Wave → Wave) : (s.mapWaves f).proctor = s.proctor := rfl
@[simp] theorem State.mapWaves_saved (s : State) (f : Wave → Wave) : (s.mapWaves f).saved = s.saved := rfl
@[simp] theorem State.mapWaves_nextAcc (s : State) (f : Wave → Wave) : (s.mapWaves f).nextAcc = s.nextAcc := rfl
@[simp] theorem State.mapWaves_free (s : State) (f : Wave → Wave) : (s.mapWaves f).free = s.free := rfl
@[simp] theorem State.mapWaves_undo (s : State) (f : Wave → Wave) : (s.mapWaves f).undo = s.undo := rfl
@[simp] theorem State.mapWaves_badLines (s : State) (f : Wave → Wave) : (s.mapWaves f).badLines = s.badLines := rfl
@[simp] theorem State.mapWaves_badWords (s : State) (f : Wave → Wave) : (s.mapWaves f).badWords = s.badWords := rfl
@[simp] theorem State.mapWaves_badBanks (s : State) (f : Wave → Wave) : (s.mapWaves f).badBanks = s.badBanks := rfl
@[simp] theorem State.mapWaves_tests (s : State) (f : Wave → Wave) : (s.mapWaves f).tests = s.tests := rfl
@[simp] theorem State.mapWaves_deferrals (s : State) (f : Wave → Wave) : (s.mapWaves f).deferrals = s.deferrals := rfl
@[simp] theorem State.mapWaves_lastDesk (s : State) (f : Wave → Wave) : (s.mapWaves f).lastDesk = s.lastDesk := rfl

/-! ## State.devPut -/

@[simp] theorem State.devPut_wave (s : State) (pa : Nat) (bs : List Byte) : (s.devPut pa bs).wave = s.wave := rfl
@[simp] theorem State.devPut_waves (s : State) (pa : Nat) (bs : List Byte) : (s.devPut pa bs).waves = s.waves := rfl
@[simp] theorem State.devPut_teams (s : State) (pa : Nat) (bs : List Byte) : (s.devPut pa bs).teams = s.teams := rfl
@[simp] theorem State.devPut_trees (s : State) (pa : Nat) (bs : List Byte) : (s.devPut pa bs).trees = s.trees := rfl
@[simp] theorem State.devPut_cores (s : State) (pa : Nat) (bs : List Byte) : (s.devPut pa bs).cores = s.cores := rfl
@[simp] theorem State.devPut_slices (s : State) (pa : Nat) (bs : List Byte) : (s.devPut pa bs).slices = s.slices := rfl
@[simp] theorem State.devPut_slicesC (s : State) (pa : Nat) (bs : List Byte) : (s.devPut pa bs).slicesC = s.slicesC := rfl
@[simp] theorem State.devPut_accs (s : State) (pa : Nat) (bs : List Byte) : (s.devPut pa bs).accs = s.accs := rfl
@[simp] theorem State.devPut_chc (s : State) (pa : Nat) (bs : List Byte) : (s.devPut pa bs).chc = s.chc := rfl
@[simp] theorem State.devPut_slip (s : State) (pa : Nat) (bs : List Byte) : (s.devPut pa bs).slip = s.slip := rfl
@[simp] theorem State.devPut_slipAt (s : State) (pa : Nat) (bs : List Byte) : (s.devPut pa bs).slipAt = s.slipAt := rfl
@[simp] theorem State.devPut_drift (s : State) (pa : Nat) (bs : List Byte) : (s.devPut pa bs).drift = s.drift := rfl
@[simp] theorem State.devPut_agenda (s : State) (pa : Nat) (bs : List Byte) : (s.devPut pa bs).agenda = s.agenda := rfl
@[simp] theorem State.devPut_desks (s : State) (pa : Nat) (bs : List Byte) : (s.devPut pa bs).desks = s.desks := rfl
@[simp] theorem State.devPut_chans (s : State) (pa : Nat) (bs : List Byte) : (s.devPut pa bs).chans = s.chans := rfl
@[simp] theorem State.devPut_accesses (s : State) (pa : Nat) (bs : List Byte) : (s.devPut pa bs).accesses = s.accesses := rfl
@[simp] theorem State.devPut_held (s : State) (pa : Nat) (bs : List Byte) : (s.devPut pa bs).held = s.held := rfl
@[simp] theorem State.devPut_clashes (s : State) (pa : Nat) (bs : List Byte) : (s.devPut pa bs).clashes = s.clashes := rfl
@[simp] theorem State.devPut_tasks (s : State) (pa : Nat) (bs : List Byte) : (s.devPut pa bs).tasks = s.tasks := rfl
@[simp] theorem State.devPut_domain (s : State) (pa : Nat) (bs : List Byte) : (s.devPut pa bs).domain = s.domain := rfl
@[simp] theorem State.devPut_runsIn (s : State) (pa : Nat) (bs : List Byte) : (s.devPut pa bs).runsIn = s.runsIn := rfl
@[simp] theorem State.devPut_flowsOut (s : State) (pa : Nat) (bs : List Byte) : (s.devPut pa bs).flowsOut = s.flowsOut := rfl
@[simp] theorem State.devPut_flowsIn (s : State) (pa : Nat) (bs : List Byte) : (s.devPut pa bs).flowsIn = s.flowsIn := rfl
@[simp] theorem State.devPut_links (s : State) (pa : Nat) (bs : List Byte) : (s.devPut pa bs).links = s.links := rfl
@[simp] theorem State.devPut_linkFree (s : State) (pa : Nat) (bs : List Byte) : (s.devPut pa bs).linkFree = s.linkFree := rfl
@[simp] theorem State.devPut_relayed (s : State) (pa : Nat) (bs : List Byte) : (s.devPut pa bs).relayed = s.relayed := rfl
@[simp] theorem State.devPut_wire (s : State) (pa : Nat) (bs : List Byte) : (s.devPut pa bs).wire = s.wire := rfl
@[simp] theorem State.devPut_proctor (s : State) (pa : Nat) (bs : List Byte) : (s.devPut pa bs).proctor = s.proctor := rfl
@[simp] theorem State.devPut_saved (s : State) (pa : Nat) (bs : List Byte) : (s.devPut pa bs).saved = s.saved := rfl
@[simp] theorem State.devPut_nextAcc (s : State) (pa : Nat) (bs : List Byte) : (s.devPut pa bs).nextAcc = s.nextAcc := rfl
@[simp] theorem State.devPut_free (s : State) (pa : Nat) (bs : List Byte) : (s.devPut pa bs).free = s.free := rfl
@[simp] theorem State.devPut_undo (s : State) (pa : Nat) (bs : List Byte) : (s.devPut pa bs).undo = s.undo := rfl
@[simp] theorem State.devPut_badLines (s : State) (pa : Nat) (bs : List Byte) : (s.devPut pa bs).badLines = s.badLines := rfl
@[simp] theorem State.devPut_badWords (s : State) (pa : Nat) (bs : List Byte) : (s.devPut pa bs).badWords = s.badWords := rfl
@[simp] theorem State.devPut_badBanks (s : State) (pa : Nat) (bs : List Byte) : (s.devPut pa bs).badBanks = s.badBanks := rfl
@[simp] theorem State.devPut_tests (s : State) (pa : Nat) (bs : List Byte) : (s.devPut pa bs).tests = s.tests := rfl
@[simp] theorem State.devPut_deferrals (s : State) (pa : Nat) (bs : List Byte) : (s.devPut pa bs).deferrals = s.deferrals := rfl
@[simp] theorem State.devPut_lastDesk (s : State) (pa : Nat) (bs : List Byte) : (s.devPut pa bs).lastDesk = s.lastDesk := rfl

/-! ## State.slicePut -/

@[simp] theorem State.slicePut_wave (s : State) (c o : Nat) (bs : List Byte) : (s.slicePut c o bs).wave = s.wave := rfl
@[simp] theorem State.slicePut_waves (s : State) (c o : Nat) (bs : List Byte) : (s.slicePut c o bs).waves = s.waves := rfl
@[simp] theorem State.slicePut_teams (s : State) (c o : Nat) (bs : List Byte) : (s.slicePut c o bs).teams = s.teams := rfl
@[simp] theorem State.slicePut_trees (s : State) (c o : Nat) (bs : List Byte) : (s.slicePut c o bs).trees = s.trees := rfl
@[simp] theorem State.slicePut_cores (s : State) (c o : Nat) (bs : List Byte) : (s.slicePut c o bs).cores = s.cores := rfl
@[simp] theorem State.slicePut_slicesC (s : State) (c o : Nat) (bs : List Byte) : (s.slicePut c o bs).slicesC = s.slicesC := rfl
@[simp] theorem State.slicePut_accs (s : State) (c o : Nat) (bs : List Byte) : (s.slicePut c o bs).accs = s.accs := rfl
@[simp] theorem State.slicePut_mem (s : State) (c o : Nat) (bs : List Byte) : (s.slicePut c o bs).mem = s.mem := rfl
@[simp] theorem State.slicePut_chc (s : State) (c o : Nat) (bs : List Byte) : (s.slicePut c o bs).chc = s.chc := rfl
@[simp] theorem State.slicePut_slip (s : State) (c o : Nat) (bs : List Byte) : (s.slicePut c o bs).slip = s.slip := rfl
@[simp] theorem State.slicePut_slipAt (s : State) (c o : Nat) (bs : List Byte) : (s.slicePut c o bs).slipAt = s.slipAt := rfl
@[simp] theorem State.slicePut_drift (s : State) (c o : Nat) (bs : List Byte) : (s.slicePut c o bs).drift = s.drift := rfl
@[simp] theorem State.slicePut_agenda (s : State) (c o : Nat) (bs : List Byte) : (s.slicePut c o bs).agenda = s.agenda := rfl
@[simp] theorem State.slicePut_desks (s : State) (c o : Nat) (bs : List Byte) : (s.slicePut c o bs).desks = s.desks := rfl
@[simp] theorem State.slicePut_chans (s : State) (c o : Nat) (bs : List Byte) : (s.slicePut c o bs).chans = s.chans := rfl
@[simp] theorem State.slicePut_accesses (s : State) (c o : Nat) (bs : List Byte) : (s.slicePut c o bs).accesses = s.accesses := rfl
@[simp] theorem State.slicePut_held (s : State) (c o : Nat) (bs : List Byte) : (s.slicePut c o bs).held = s.held := rfl
@[simp] theorem State.slicePut_clashes (s : State) (c o : Nat) (bs : List Byte) : (s.slicePut c o bs).clashes = s.clashes := rfl
@[simp] theorem State.slicePut_tasks (s : State) (c o : Nat) (bs : List Byte) : (s.slicePut c o bs).tasks = s.tasks := rfl
@[simp] theorem State.slicePut_domain (s : State) (c o : Nat) (bs : List Byte) : (s.slicePut c o bs).domain = s.domain := rfl
@[simp] theorem State.slicePut_runsIn (s : State) (c o : Nat) (bs : List Byte) : (s.slicePut c o bs).runsIn = s.runsIn := rfl
@[simp] theorem State.slicePut_flowsOut (s : State) (c o : Nat) (bs : List Byte) : (s.slicePut c o bs).flowsOut = s.flowsOut := rfl
@[simp] theorem State.slicePut_flowsIn (s : State) (c o : Nat) (bs : List Byte) : (s.slicePut c o bs).flowsIn = s.flowsIn := rfl
@[simp] theorem State.slicePut_links (s : State) (c o : Nat) (bs : List Byte) : (s.slicePut c o bs).links = s.links := rfl
@[simp] theorem State.slicePut_linkFree (s : State) (c o : Nat) (bs : List Byte) : (s.slicePut c o bs).linkFree = s.linkFree := rfl
@[simp] theorem State.slicePut_relayed (s : State) (c o : Nat) (bs : List Byte) : (s.slicePut c o bs).relayed = s.relayed := rfl
@[simp] theorem State.slicePut_wire (s : State) (c o : Nat) (bs : List Byte) : (s.slicePut c o bs).wire = s.wire := rfl
@[simp] theorem State.slicePut_proctor (s : State) (c o : Nat) (bs : List Byte) : (s.slicePut c o bs).proctor = s.proctor := rfl
@[simp] theorem State.slicePut_saved (s : State) (c o : Nat) (bs : List Byte) : (s.slicePut c o bs).saved = s.saved := rfl
@[simp] theorem State.slicePut_nextAcc (s : State) (c o : Nat) (bs : List Byte) : (s.slicePut c o bs).nextAcc = s.nextAcc := rfl
@[simp] theorem State.slicePut_free (s : State) (c o : Nat) (bs : List Byte) : (s.slicePut c o bs).free = s.free := rfl
@[simp] theorem State.slicePut_undo (s : State) (c o : Nat) (bs : List Byte) : (s.slicePut c o bs).undo = s.undo := rfl
@[simp] theorem State.slicePut_badLines (s : State) (c o : Nat) (bs : List Byte) : (s.slicePut c o bs).badLines = s.badLines := rfl
@[simp] theorem State.slicePut_badWords (s : State) (c o : Nat) (bs : List Byte) : (s.slicePut c o bs).badWords = s.badWords := rfl
@[simp] theorem State.slicePut_badBanks (s : State) (c o : Nat) (bs : List Byte) : (s.slicePut c o bs).badBanks = s.badBanks := rfl
@[simp] theorem State.slicePut_tests (s : State) (c o : Nat) (bs : List Byte) : (s.slicePut c o bs).tests = s.tests := rfl
@[simp] theorem State.slicePut_deferrals (s : State) (c o : Nat) (bs : List Byte) : (s.slicePut c o bs).deferrals = s.deferrals := rfl
@[simp] theorem State.slicePut_lastDesk (s : State) (c o : Nat) (bs : List Byte) : (s.slicePut c o bs).lastDesk = s.lastDesk := rfl

/-! ## State.schedule -/

@[simp] theorem State.schedule_wave (s : State) (n c p : Nat) (e : Event) : (s.schedule n c p e).wave = s.wave := rfl
@[simp] theorem State.schedule_waves (s : State) (n c p : Nat) (e : Event) : (s.schedule n c p e).waves = s.waves := rfl
@[simp] theorem State.schedule_teams (s : State) (n c p : Nat) (e : Event) : (s.schedule n c p e).teams = s.teams := rfl
@[simp] theorem State.schedule_trees (s : State) (n c p : Nat) (e : Event) : (s.schedule n c p e).trees = s.trees := rfl
@[simp] theorem State.schedule_cores (s : State) (n c p : Nat) (e : Event) : (s.schedule n c p e).cores = s.cores := rfl
@[simp] theorem State.schedule_slices (s : State) (n c p : Nat) (e : Event) : (s.schedule n c p e).slices = s.slices := rfl
@[simp] theorem State.schedule_slicesC (s : State) (n c p : Nat) (e : Event) : (s.schedule n c p e).slicesC = s.slicesC := rfl
@[simp] theorem State.schedule_accs (s : State) (n c p : Nat) (e : Event) : (s.schedule n c p e).accs = s.accs := rfl
@[simp] theorem State.schedule_mem (s : State) (n c p : Nat) (e : Event) : (s.schedule n c p e).mem = s.mem := rfl
@[simp] theorem State.schedule_chc (s : State) (n c p : Nat) (e : Event) : (s.schedule n c p e).chc = s.chc := rfl
@[simp] theorem State.schedule_slip (s : State) (n c p : Nat) (e : Event) : (s.schedule n c p e).slip = s.slip := rfl
@[simp] theorem State.schedule_slipAt (s : State) (n c p : Nat) (e : Event) : (s.schedule n c p e).slipAt = s.slipAt := rfl
@[simp] theorem State.schedule_drift (s : State) (n c p : Nat) (e : Event) : (s.schedule n c p e).drift = s.drift := rfl
@[simp] theorem State.schedule_desks (s : State) (n c p : Nat) (e : Event) : (s.schedule n c p e).desks = s.desks := rfl
@[simp] theorem State.schedule_chans (s : State) (n c p : Nat) (e : Event) : (s.schedule n c p e).chans = s.chans := rfl
@[simp] theorem State.schedule_accesses (s : State) (n c p : Nat) (e : Event) : (s.schedule n c p e).accesses = s.accesses := rfl
@[simp] theorem State.schedule_held (s : State) (n c p : Nat) (e : Event) : (s.schedule n c p e).held = s.held := rfl
@[simp] theorem State.schedule_clashes (s : State) (n c p : Nat) (e : Event) : (s.schedule n c p e).clashes = s.clashes := rfl
@[simp] theorem State.schedule_tasks (s : State) (n c p : Nat) (e : Event) : (s.schedule n c p e).tasks = s.tasks := rfl
@[simp] theorem State.schedule_domain (s : State) (n c p : Nat) (e : Event) : (s.schedule n c p e).domain = s.domain := rfl
@[simp] theorem State.schedule_runsIn (s : State) (n c p : Nat) (e : Event) : (s.schedule n c p e).runsIn = s.runsIn := rfl
@[simp] theorem State.schedule_flowsOut (s : State) (n c p : Nat) (e : Event) : (s.schedule n c p e).flowsOut = s.flowsOut := rfl
@[simp] theorem State.schedule_flowsIn (s : State) (n c p : Nat) (e : Event) : (s.schedule n c p e).flowsIn = s.flowsIn := rfl
@[simp] theorem State.schedule_links (s : State) (n c p : Nat) (e : Event) : (s.schedule n c p e).links = s.links := rfl
@[simp] theorem State.schedule_linkFree (s : State) (n c p : Nat) (e : Event) : (s.schedule n c p e).linkFree = s.linkFree := rfl
@[simp] theorem State.schedule_relayed (s : State) (n c p : Nat) (e : Event) : (s.schedule n c p e).relayed = s.relayed := rfl
@[simp] theorem State.schedule_wire (s : State) (n c p : Nat) (e : Event) : (s.schedule n c p e).wire = s.wire := rfl
@[simp] theorem State.schedule_proctor (s : State) (n c p : Nat) (e : Event) : (s.schedule n c p e).proctor = s.proctor := rfl
@[simp] theorem State.schedule_saved (s : State) (n c p : Nat) (e : Event) : (s.schedule n c p e).saved = s.saved := rfl
@[simp] theorem State.schedule_nextAcc (s : State) (n c p : Nat) (e : Event) : (s.schedule n c p e).nextAcc = s.nextAcc := rfl
@[simp] theorem State.schedule_free (s : State) (n c p : Nat) (e : Event) : (s.schedule n c p e).free = s.free := rfl
@[simp] theorem State.schedule_undo (s : State) (n c p : Nat) (e : Event) : (s.schedule n c p e).undo = s.undo := rfl
@[simp] theorem State.schedule_badLines (s : State) (n c p : Nat) (e : Event) : (s.schedule n c p e).badLines = s.badLines := rfl
@[simp] theorem State.schedule_badWords (s : State) (n c p : Nat) (e : Event) : (s.schedule n c p e).badWords = s.badWords := rfl
@[simp] theorem State.schedule_badBanks (s : State) (n c p : Nat) (e : Event) : (s.schedule n c p e).badBanks = s.badBanks := rfl
@[simp] theorem State.schedule_tests (s : State) (n c p : Nat) (e : Event) : (s.schedule n c p e).tests = s.tests := rfl
@[simp] theorem State.schedule_deferrals (s : State) (n c p : Nat) (e : Event) : (s.schedule n c p e).deferrals = s.deferrals := rfl
@[simp] theorem State.schedule_lastDesk (s : State) (n c p : Nat) (e : Event) : (s.schedule n c p e).lastDesk = s.lastDesk := rfl

/-! ## State.addCommit -/

@[simp] theorem State.addCommit_wave (s : State) (t : Tree) (e : Effect) : (s.addCommit t e).wave = s.wave := rfl
@[simp] theorem State.addCommit_waves (s : State) (t : Tree) (e : Effect) : (s.addCommit t e).waves = s.waves := rfl
@[simp] theorem State.addCommit_teams (s : State) (t : Tree) (e : Effect) : (s.addCommit t e).teams = s.teams := rfl
@[simp] theorem State.addCommit_cores (s : State) (t : Tree) (e : Effect) : (s.addCommit t e).cores = s.cores := rfl
@[simp] theorem State.addCommit_slices (s : State) (t : Tree) (e : Effect) : (s.addCommit t e).slices = s.slices := rfl
@[simp] theorem State.addCommit_slicesC (s : State) (t : Tree) (e : Effect) : (s.addCommit t e).slicesC = s.slicesC := rfl
@[simp] theorem State.addCommit_accs (s : State) (t : Tree) (e : Effect) : (s.addCommit t e).accs = s.accs := rfl
@[simp] theorem State.addCommit_mem (s : State) (t : Tree) (e : Effect) : (s.addCommit t e).mem = s.mem := rfl
@[simp] theorem State.addCommit_chc (s : State) (t : Tree) (e : Effect) : (s.addCommit t e).chc = s.chc := rfl
@[simp] theorem State.addCommit_slip (s : State) (t : Tree) (e : Effect) : (s.addCommit t e).slip = s.slip := rfl
@[simp] theorem State.addCommit_slipAt (s : State) (t : Tree) (e : Effect) : (s.addCommit t e).slipAt = s.slipAt := rfl
@[simp] theorem State.addCommit_drift (s : State) (t : Tree) (e : Effect) : (s.addCommit t e).drift = s.drift := rfl
@[simp] theorem State.addCommit_agenda (s : State) (t : Tree) (e : Effect) : (s.addCommit t e).agenda = s.agenda := rfl
@[simp] theorem State.addCommit_desks (s : State) (t : Tree) (e : Effect) : (s.addCommit t e).desks = s.desks := rfl
@[simp] theorem State.addCommit_chans (s : State) (t : Tree) (e : Effect) : (s.addCommit t e).chans = s.chans := rfl
@[simp] theorem State.addCommit_accesses (s : State) (t : Tree) (e : Effect) : (s.addCommit t e).accesses = s.accesses := rfl
@[simp] theorem State.addCommit_held (s : State) (t : Tree) (e : Effect) : (s.addCommit t e).held = s.held := rfl
@[simp] theorem State.addCommit_clashes (s : State) (t : Tree) (e : Effect) : (s.addCommit t e).clashes = s.clashes := rfl
@[simp] theorem State.addCommit_tasks (s : State) (t : Tree) (e : Effect) : (s.addCommit t e).tasks = s.tasks := rfl
@[simp] theorem State.addCommit_domain (s : State) (t : Tree) (e : Effect) : (s.addCommit t e).domain = s.domain := rfl
@[simp] theorem State.addCommit_runsIn (s : State) (t : Tree) (e : Effect) : (s.addCommit t e).runsIn = s.runsIn := rfl
@[simp] theorem State.addCommit_flowsOut (s : State) (t : Tree) (e : Effect) : (s.addCommit t e).flowsOut = s.flowsOut := rfl
@[simp] theorem State.addCommit_flowsIn (s : State) (t : Tree) (e : Effect) : (s.addCommit t e).flowsIn = s.flowsIn := rfl
@[simp] theorem State.addCommit_links (s : State) (t : Tree) (e : Effect) : (s.addCommit t e).links = s.links := rfl
@[simp] theorem State.addCommit_linkFree (s : State) (t : Tree) (e : Effect) : (s.addCommit t e).linkFree = s.linkFree := rfl
@[simp] theorem State.addCommit_relayed (s : State) (t : Tree) (e : Effect) : (s.addCommit t e).relayed = s.relayed := rfl
@[simp] theorem State.addCommit_wire (s : State) (t : Tree) (e : Effect) : (s.addCommit t e).wire = s.wire := rfl
@[simp] theorem State.addCommit_proctor (s : State) (t : Tree) (e : Effect) : (s.addCommit t e).proctor = s.proctor := rfl
@[simp] theorem State.addCommit_saved (s : State) (t : Tree) (e : Effect) : (s.addCommit t e).saved = s.saved := rfl
@[simp] theorem State.addCommit_nextAcc (s : State) (t : Tree) (e : Effect) : (s.addCommit t e).nextAcc = s.nextAcc := rfl
@[simp] theorem State.addCommit_free (s : State) (t : Tree) (e : Effect) : (s.addCommit t e).free = s.free := rfl
@[simp] theorem State.addCommit_undo (s : State) (t : Tree) (e : Effect) : (s.addCommit t e).undo = s.undo := rfl
@[simp] theorem State.addCommit_badLines (s : State) (t : Tree) (e : Effect) : (s.addCommit t e).badLines = s.badLines := rfl
@[simp] theorem State.addCommit_badWords (s : State) (t : Tree) (e : Effect) : (s.addCommit t e).badWords = s.badWords := rfl
@[simp] theorem State.addCommit_badBanks (s : State) (t : Tree) (e : Effect) : (s.addCommit t e).badBanks = s.badBanks := rfl
@[simp] theorem State.addCommit_tests (s : State) (t : Tree) (e : Effect) : (s.addCommit t e).tests = s.tests := rfl
@[simp] theorem State.addCommit_deferrals (s : State) (t : Tree) (e : Effect) : (s.addCommit t e).deferrals = s.deferrals := rfl
@[simp] theorem State.addCommit_lastDesk (s : State) (t : Tree) (e : Effect) : (s.addCommit t e).lastDesk = s.lastDesk := rfl

/-! ## State.stall -/

@[simp] theorem State.stall_waves (s : State) : (s.stall).waves = s.waves := rfl
@[simp] theorem State.stall_teams (s : State) : (s.stall).teams = s.teams := rfl
@[simp] theorem State.stall_trees (s : State) : (s.stall).trees = s.trees := rfl
@[simp] theorem State.stall_cores (s : State) : (s.stall).cores = s.cores := rfl
@[simp] theorem State.stall_slices (s : State) : (s.stall).slices = s.slices := rfl
@[simp] theorem State.stall_slicesC (s : State) : (s.stall).slicesC = s.slicesC := rfl
@[simp] theorem State.stall_accs (s : State) : (s.stall).accs = s.accs := rfl
@[simp] theorem State.stall_mem (s : State) : (s.stall).mem = s.mem := rfl
@[simp] theorem State.stall_chc (s : State) : (s.stall).chc = s.chc := rfl
@[simp] theorem State.stall_slip (s : State) : (s.stall).slip = s.slip := rfl
@[simp] theorem State.stall_slipAt (s : State) : (s.stall).slipAt = s.slipAt := rfl
@[simp] theorem State.stall_drift (s : State) : (s.stall).drift = s.drift := rfl
@[simp] theorem State.stall_agenda (s : State) : (s.stall).agenda = s.agenda := rfl
@[simp] theorem State.stall_desks (s : State) : (s.stall).desks = s.desks := rfl
@[simp] theorem State.stall_chans (s : State) : (s.stall).chans = s.chans := rfl
@[simp] theorem State.stall_accesses (s : State) : (s.stall).accesses = s.accesses := rfl
@[simp] theorem State.stall_held (s : State) : (s.stall).held = s.held := rfl
@[simp] theorem State.stall_clashes (s : State) : (s.stall).clashes = s.clashes := rfl
@[simp] theorem State.stall_tasks (s : State) : (s.stall).tasks = s.tasks := rfl
@[simp] theorem State.stall_domain (s : State) : (s.stall).domain = s.domain := rfl
@[simp] theorem State.stall_runsIn (s : State) : (s.stall).runsIn = s.runsIn := rfl
@[simp] theorem State.stall_flowsOut (s : State) : (s.stall).flowsOut = s.flowsOut := rfl
@[simp] theorem State.stall_flowsIn (s : State) : (s.stall).flowsIn = s.flowsIn := rfl
@[simp] theorem State.stall_links (s : State) : (s.stall).links = s.links := rfl
@[simp] theorem State.stall_linkFree (s : State) : (s.stall).linkFree = s.linkFree := rfl
@[simp] theorem State.stall_relayed (s : State) : (s.stall).relayed = s.relayed := rfl
@[simp] theorem State.stall_wire (s : State) : (s.stall).wire = s.wire := rfl
@[simp] theorem State.stall_proctor (s : State) : (s.stall).proctor = s.proctor := rfl
@[simp] theorem State.stall_saved (s : State) : (s.stall).saved = s.saved := rfl
@[simp] theorem State.stall_nextAcc (s : State) : (s.stall).nextAcc = s.nextAcc := rfl
@[simp] theorem State.stall_free (s : State) : (s.stall).free = s.free := rfl
@[simp] theorem State.stall_undo (s : State) : (s.stall).undo = s.undo := rfl
@[simp] theorem State.stall_badLines (s : State) : (s.stall).badLines = s.badLines := rfl
@[simp] theorem State.stall_badWords (s : State) : (s.stall).badWords = s.badWords := rfl
@[simp] theorem State.stall_badBanks (s : State) : (s.stall).badBanks = s.badBanks := rfl
@[simp] theorem State.stall_tests (s : State) : (s.stall).tests = s.tests := rfl
@[simp] theorem State.stall_deferrals (s : State) : (s.stall).deferrals = s.deferrals := rfl
@[simp] theorem State.stall_lastDesk (s : State) : (s.stall).lastDesk = s.lastDesk := rfl

/-! ## State.wake -/

@[simp] theorem State.wake_teams (s : State) (p : Wave → Bool) (q : Nat) : (s.wake p q).teams = s.teams := rfl
@[simp] theorem State.wake_trees (s : State) (p : Wave → Bool) (q : Nat) : (s.wake p q).trees = s.trees := rfl
@[simp] theorem State.wake_cores (s : State) (p : Wave → Bool) (q : Nat) : (s.wake p q).cores = s.cores := rfl
@[simp] theorem State.wake_slices (s : State) (p : Wave → Bool) (q : Nat) : (s.wake p q).slices = s.slices := rfl
@[simp] theorem State.wake_slicesC (s : State) (p : Wave → Bool) (q : Nat) : (s.wake p q).slicesC = s.slicesC := rfl
@[simp] theorem State.wake_accs (s : State) (p : Wave → Bool) (q : Nat) : (s.wake p q).accs = s.accs := rfl
@[simp] theorem State.wake_mem (s : State) (p : Wave → Bool) (q : Nat) : (s.wake p q).mem = s.mem := rfl
@[simp] theorem State.wake_chc (s : State) (p : Wave → Bool) (q : Nat) : (s.wake p q).chc = s.chc := rfl
@[simp] theorem State.wake_slip (s : State) (p : Wave → Bool) (q : Nat) : (s.wake p q).slip = s.slip := rfl
@[simp] theorem State.wake_slipAt (s : State) (p : Wave → Bool) (q : Nat) : (s.wake p q).slipAt = s.slipAt := rfl
@[simp] theorem State.wake_drift (s : State) (p : Wave → Bool) (q : Nat) : (s.wake p q).drift = s.drift := rfl
@[simp] theorem State.wake_agenda (s : State) (p : Wave → Bool) (q : Nat) : (s.wake p q).agenda = s.agenda := rfl
@[simp] theorem State.wake_desks (s : State) (p : Wave → Bool) (q : Nat) : (s.wake p q).desks = s.desks := rfl
@[simp] theorem State.wake_chans (s : State) (p : Wave → Bool) (q : Nat) : (s.wake p q).chans = s.chans := rfl
@[simp] theorem State.wake_accesses (s : State) (p : Wave → Bool) (q : Nat) : (s.wake p q).accesses = s.accesses := rfl
@[simp] theorem State.wake_held (s : State) (p : Wave → Bool) (q : Nat) : (s.wake p q).held = s.held := rfl
@[simp] theorem State.wake_clashes (s : State) (p : Wave → Bool) (q : Nat) : (s.wake p q).clashes = s.clashes := rfl
@[simp] theorem State.wake_tasks (s : State) (p : Wave → Bool) (q : Nat) : (s.wake p q).tasks = s.tasks := rfl
@[simp] theorem State.wake_domain (s : State) (p : Wave → Bool) (q : Nat) : (s.wake p q).domain = s.domain := rfl
@[simp] theorem State.wake_runsIn (s : State) (p : Wave → Bool) (q : Nat) : (s.wake p q).runsIn = s.runsIn := rfl
@[simp] theorem State.wake_flowsOut (s : State) (p : Wave → Bool) (q : Nat) : (s.wake p q).flowsOut = s.flowsOut := rfl
@[simp] theorem State.wake_flowsIn (s : State) (p : Wave → Bool) (q : Nat) : (s.wake p q).flowsIn = s.flowsIn := rfl
@[simp] theorem State.wake_links (s : State) (p : Wave → Bool) (q : Nat) : (s.wake p q).links = s.links := rfl
@[simp] theorem State.wake_linkFree (s : State) (p : Wave → Bool) (q : Nat) : (s.wake p q).linkFree = s.linkFree := rfl
@[simp] theorem State.wake_relayed (s : State) (p : Wave → Bool) (q : Nat) : (s.wake p q).relayed = s.relayed := rfl
@[simp] theorem State.wake_wire (s : State) (p : Wave → Bool) (q : Nat) : (s.wake p q).wire = s.wire := rfl
@[simp] theorem State.wake_proctor (s : State) (p : Wave → Bool) (q : Nat) : (s.wake p q).proctor = s.proctor := rfl
@[simp] theorem State.wake_saved (s : State) (p : Wave → Bool) (q : Nat) : (s.wake p q).saved = s.saved := rfl
@[simp] theorem State.wake_nextAcc (s : State) (p : Wave → Bool) (q : Nat) : (s.wake p q).nextAcc = s.nextAcc := rfl
@[simp] theorem State.wake_free (s : State) (p : Wave → Bool) (q : Nat) : (s.wake p q).free = s.free := rfl
@[simp] theorem State.wake_undo (s : State) (p : Wave → Bool) (q : Nat) : (s.wake p q).undo = s.undo := rfl
@[simp] theorem State.wake_badLines (s : State) (p : Wave → Bool) (q : Nat) : (s.wake p q).badLines = s.badLines := rfl
@[simp] theorem State.wake_badWords (s : State) (p : Wave → Bool) (q : Nat) : (s.wake p q).badWords = s.badWords := rfl
@[simp] theorem State.wake_badBanks (s : State) (p : Wave → Bool) (q : Nat) : (s.wake p q).badBanks = s.badBanks := rfl
@[simp] theorem State.wake_tests (s : State) (p : Wave → Bool) (q : Nat) : (s.wake p q).tests = s.tests := rfl
@[simp] theorem State.wake_deferrals (s : State) (p : Wave → Bool) (q : Nat) : (s.wake p q).deferrals = s.deferrals := rfl
@[simp] theorem State.wake_lastDesk (s : State) (p : Wave → Bool) (q : Nat) : (s.wake p q).lastDesk = s.lastDesk := rfl

/-! ## The fields written -/

@[simp] theorem State.upd_wave (s : State) (f : Wave → Wave) : (s.upd f).wave = f s.wave := rfl
@[simp] theorem State.result_wave (s : State) (lat : Nat) (r : Res) :
    (s.result lat r).wave = { s.wave with flight := s.wave.flight ++ [{ slot := s.wave.cur, left := lat, res := r }] } := rfl
@[simp] theorem State.flag_wave (s : State) (g : Word) : (s.flag g).wave = { s.wave with fflags := s.wave.fflags ||| g } := rfl
@[simp] theorem State.devPut_mem (s : State) (pa : Nat) (bs : List Byte) : (s.devPut pa bs).mem = Store.puts emptyByte s.mem pa bs := rfl
@[simp] theorem State.slicePut_slices (s : State) (c o : Nat) (bs : List Byte) :
    (s.slicePut c o bs).slices = s.slices.puts emptyByte (sliceKey c o) bs := rfl
@[simp] theorem State.stall_wave (s : State) : s.stall.wave = { s.wave with stalled := true } := rfl

/-- A core after a write of any core. -/
theorem State.setCore_core (s : State) (k i : Nat) (c : Core) : (s.setCore k c).core i = if i = k then c else s.core i := Store.get_put _ _ _ _ _

/-- A core after an update of any core. -/
theorem State.updCore_core (s : State) (k i : Nat) (f : Core → Core) : (s.updCore k f).core i = if i = k then f (s.core k) else s.core i :=
  s.setCore_core k i (f (s.core k))

@[simp] theorem State.upd_core (s : State) (k : Nat) (f : Wave → Wave) : (s.upd f).core k = s.core k := rfl
@[simp] theorem State.upd_tree (s : State) (i : Nat) (f : Wave → Wave) : (s.upd f).tree? i = s.tree? i := rfl
@[simp] theorem State.updTree_core (s : State) (i k : Nat) (f : Tree → Tree) : (s.updTree i f).core k = s.core k := rfl
@[simp] theorem State.mapWaves_core (s : State) (k : Nat) (f : Wave → Wave) : (s.mapWaves f).core k = s.core k := rfl

/-- A wave of the state, updated, is one of the waves afterwards. -/
theorem State.mem_mapWaves {s : State} {v : Wave} (hv : v ∈ s.allWaves) (hs : v.status ≠ .idle) (f : Wave → Wave) : f v ∈ (s.mapWaves f).allWaves := by
  have h : ∀ w : Wave, w = v → (if w.status == .idle then w else f w) = f v := by
    rintro w rfl; simp [hs]
  simp only [State.allWaves, State.mapWaves, List.mem_cons, List.mem_map] at hv ⊢
  rcases hv with rfl | hv
  · exact .inl (h _ rfl).symm
  · exact .inr ⟨v, hv, h _ rfl⟩

end Sys2Proof.Machine
end

