-- ==== Sys2Proof/Laws/Image.lean ====
section
/-! SUPPORT. Laws of images in memory: numbers read back from their bytes, and a sealed image (R251, R404) that the device still knows reads back whole (R254). -/

namespace Sys2Proof.Machine

/-- A number of `n` bytes reads back. -/
theorem leNat_leBytes : ∀ n w : Nat, leNat (leBytes n w) = w % 256 ^ n
  | 0, w => by simp [leBytes, leNat, Nat.mod_one]
  | n + 1, w => by
    rw [leBytes, leNat, leNat_leBytes n, BitVec.toNat_ofNat, show 256 ^ (n + 1) = 256 * 256 ^ n from Nat.pow_succ', Nat.mod_mul (x := w) (a := 256)]

@[simp] theorem gcmStream_length (key nonce bs : List Byte) : (gcmStream key nonce bs).length = bs.length := by simp [gcmStream]

/-- What a key stream seals it also opens. -/
theorem gcmStream_twice (key nonce bs : List Byte) : gcmStream key nonce (gcmStream key nonce bs) = bs := by
  apply List.ext_getElem
  · simp
  · intro i h1 h2
    simp [gcmStream, BitVec.xor_assoc]

/-- The parts of a sealed image: its header, its sealed bytes, its tag. -/
theorem Saved.sealed_parts (v : Saved) (key : List Byte) (hl : v.header.length = 512) (hp : v.plain.length + 528 = v.size) :
    (v.sealed key).take 512 = v.header ∧ ((v.sealed key).drop 512).take (v.size - 528) = gcmStream key ((v.header.drop 96).take 12) v.plain ∧
    (v.sealed key).drop (v.size - 16) = (Config.gcmTag key ((v.header.drop 96).take 12) v.header v.plain).toList := by
  have hs : v.size - 16 = v.header.length + (gcmStream key ((v.header.drop 96).take 12) v.plain).length := by rw [gcmStream_length]; omega
  have hq : v.size - 528 = (gcmStream key ((v.header.drop 96).take 12) v.plain).length := by rw [gcmStream_length]; omega
  unfold Saved.sealed
  refine ⟨?_, ?_, ?_⟩
  · rw [List.append_assoc, ← hl, List.take_left']; rfl
  · rw [List.append_assoc, ← hl, List.drop_left', hq, List.take_left'] <;> rfl
  · rw [hs, ← List.length_append, List.drop_left']; rfl

/-- A sealed image in a desk's memory, of a tree that the device knows and holds no more, reads back whole where its Manifest is one of the desk. -/
theorem State.imageAt_sealed {s : State} {desk addr : Nat} {d : Desk} {key : List Byte} {v : Saved} (fresh : Bool) (hd : s.desk? desk = some d) (hk : d.key = some key)
    (hr : s.deskRead desk addr v.size = v.sealed key) (hl : v.header.length = 512) (hp : v.plain.length + 528 = v.size) (h1 : field v.header 24 8 = v.size)
    (h2 : field v.header 0 4 = 0x58434C43) (h3 : field v.header 4 2 = 1) (h4 : field v.header 8 4 = Config.stepping.toNat) (h5 : field v.header 12 4 = s.deskN desk)
    (h6 : field v.header 20 2 = desk) (hs : s.saved.find? (fun x => x.header == v.header && x.plain == v.plain) = some v) (hh : v.held = false)
    (hc : s.kernelOf desk (field v.plain 32 4) ((v.header.drop 32).take 48) ≠ none) :
    s.imageAt fresh desk addr v.size = some v := by
  obtain ⟨p1, p2, p3⟩ := v.sealed_parts key hl hp
  unfold State.imageAt
  simp only [hr, hd, Option.bind_some, hk, p1, p2, p3, gcmStream_twice, h1, h2, h3, h4, h5, h6, hs, hh]
  have : ¬ v.size < 528 := by omega
  simp [this, hc]

end Sys2Proof.Machine
end

