-- ==== Sys2Proof/Laws/Wave.lean ====
section
/-! SUPPORT. Laws of a wave's registers, of results landing, and of the operations that retire an instruction: what each of them can change. A frame is
stated as the whole record with the fields that may differ. -/

namespace Sys2Proof.Machine

/-! ## Registers: a read after a write -/

theorem Wave.rs_ws (w : Wave) (r q : Nat) (x : Dword) : (w.ws r x).rs q = if q = r ∧ r ≠ 0 then x else w.rs q := by
  unfold Wave.ws Wave.rs
  split <;> split <;> simp_all [Store.get_put] <;> omega

theorem Wave.ra_wa (w : Wave) (r q : Nat) (x : Dword) : (w.wa r x).ra q = if q = r then x else w.ra q := by
  unfold Wave.wa Wave.ra; simp [Store.get_put]

theorem Wave.rk_wk (w : Wave) (r q : Nat) (x : Dword) : (w.wk r x).rk q = if q = r ∧ r ≠ 0 then x else w.rk q := by
  unfold Wave.wk Wave.rk
  split <;> split <;> simp_all [Store.get_put] <;> omega

theorem Wave.rm_wm (w : Wave) (r q : Nat) (x : Mask) : (w.wm r x).rm q = if q = r ∧ r ≠ 0 then x else w.rm q := by
  unfold Wave.wm Wave.rm
  split <;> split <;> simp_all [Store.get_put] <;> omega

theorem Wave.rh_wh (w : Wave) (r q : Nat) (x : Option Nat) : (w.wh r x).rh q = if q = r ∧ r ≠ 0 then x else w.rh q := by
  unfold Wave.wh Wave.rh
  split <;> split <;> simp_all [Store.get_put] <;> omega

theorem Wave.rv_wv (w : Wave) (r l q k : Nat) (x : Word) : (w.wv r l x).rv q k = if 32 * q + k = 32 * r + l then x else w.rv q k := by
  unfold Wave.wv Wave.rv; simp [Store.get_put]

theorem Wave.wvs_frame (r : Nat) : ∀ (xs : List (Nat × Word)) (w : Wave), ∃ v, w.wvs r xs = { w with v := v }
  | [], w => ⟨w.v, rfl⟩
  | (l, x) :: xs, w => by
    obtain ⟨v, h⟩ := Wave.wvs_frame r xs (w.wv r l x)
    exact ⟨v, by rw [Wave.wvs, h]; rfl⟩

/-! ## Results landing (R62) -/

/-- A wave that differs in its register files only. -/
def Wave.withRegs (w : Wave) (v : Store Word) (s a k : Store Dword) (m : Store Word) (h : Store (Option Nat)) : Wave :=
  { w with v := v, s := s, a := a, k := k, m := m, h := h }

/-- A result that lands changes the register files only. -/
theorem Wave.land1_frame : ∀ (r : Res) (w : Wave), ∃ v s a k m h, w.land1 r = w.withRegs v s a k m h
  | .vec r xs, w => by obtain ⟨v, h⟩ := Wave.wvs_frame r xs w; exact ⟨v, w.s, w.a, w.k, w.m, w.h, h⟩
  | .sca r x, w => by
    unfold Wave.land1 Wave.ws; split
    · exact ⟨w.v, w.s, w.a, w.k, w.m, w.h, rfl⟩
    · exact ⟨w.v, w.s.put 0 r x, w.a, w.k, w.m, w.h, rfl⟩
  | .adr r x, w => ⟨w.v, w.s, w.a.put 0 r x, w.k, w.m, w.h, rfl⟩
  | .kmod r x, w => by
    unfold Wave.land1 Wave.wk; split
    · exact ⟨w.v, w.s, w.a, w.k, w.m, w.h, rfl⟩
    · exact ⟨w.v, w.s, w.a, w.k.put 0 r x, w.m, w.h, rfl⟩
  | .msk r x, w => by
    unfold Wave.land1 Wave.wm; split
    · exact ⟨w.v, w.s, w.a, w.k, w.m, w.h, rfl⟩
    · exact ⟨w.v, w.s, w.a, w.k, w.m.put 0 r x, w.h, rfl⟩
  | .bits r x y, w => by
    unfold Wave.land1 Wave.wm; split
    · exact ⟨w.v, w.s, w.a, w.k, w.m, w.h, rfl⟩
    · exact ⟨w.v, w.s, w.a, w.k, w.m.put 0 r _, w.h, rfl⟩
  | .hnd r x, w => by
    unfold Wave.land1 Wave.wh; split
    · exact ⟨w.v, w.s, w.a, w.k, w.m, w.h, rfl⟩
    · exact ⟨w.v, w.s, w.a, w.k, w.m, w.h.put none r x, rfl⟩
  | .two a b, w => by
    obtain ⟨v, s, a', k, m, h, e⟩ := Wave.land1_frame a w
    obtain ⟨v2, s2, a2, k2, m2, h2, e2⟩ := Wave.land1_frame b (w.land1 a)
    exact ⟨v2, s2, a2, k2, m2, h2, by rw [Wave.land1, e2, e]; rfl⟩

theorem landReady_frame : ∀ (fs : List Flight) (w : Wave), ∃ v s a k m h fl, landReady w fs = (w.withRegs v s a k m h, fl) ∧ ∀ f ∈ fl, f ∈ fs
  | [], w => ⟨w.v, w.s, w.a, w.k, w.m, w.h, [], rfl, by simp⟩
  | f :: r, w => by
    unfold landReady
    split
    · obtain ⟨v, s, a, k, m, h, e⟩ := Wave.land1_frame f.res w
      obtain ⟨v2, s2, a2, k2, m2, h2, fl, e2, hf⟩ := landReady_frame r (w.land1 f.res)
      exact ⟨v2, s2, a2, k2, m2, h2, fl, by rw [e2, e]; rfl, fun x hx => List.mem_cons_of_mem _ (hf x hx)⟩
    · obtain ⟨v, s, a, k, m, h, fl, e, hf⟩ := landReady_frame r w
      refine ⟨v, s, a, k, m, h, f :: fl, by rw [e], ?_⟩
      intro x hx
      rcases List.mem_cons.mp hx with rfl | hx
      · exact List.mem_cons_self
      · exact List.mem_cons_of_mem _ (hf x hx)

/-- Landing what is ready changes the register files and the results in flight only. -/
theorem Wave.land_frame (w : Wave) : ∃ v s a k m h fl, w.land = { w.withRegs v s a k m h with flight := fl } := by
  obtain ⟨v, s, a, k, m, h, fl, e, _⟩ := landReady_frame w.flight w
  exact ⟨v, s, a, k, m, h, fl, by unfold Wave.land; rw [e]⟩

theorem Wave.tickSlot_frame (w : Wave) (x : Bool) : ∃ v s a k m h fl, w.tickSlot x = { w.withRegs v s a k m h with flight := fl } := by
  obtain ⟨v, s, a, k, m, h, fl, e⟩ :=
    Wave.land_frame { w with flight := w.flight.map fun f => if f.slot == x then { f with left := f.left - 1 } else f }
  exact ⟨v, s, a, k, m, h, fl, by unfold Wave.tickSlot; rw [e]; rfl⟩

theorem Wave.landSlot_frame (w : Wave) (x : Bool) : ∃ v s a k m h fl, w.landSlot x = { w.withRegs v s a k m h with flight := fl } := by
  obtain ⟨v, s, a, k, m, h, fl, e⟩ :=
    Wave.land_frame { w with flight := w.flight.map fun f => if f.slot == x then { f with left := 0 } else f }
  exact ⟨v, s, a, k, m, h, fl, by unfold Wave.landSlot; rw [e]; rfl⟩

/-! ## Slots and the split stack (R55 to R58) -/

theorem Wave.setSlot_frame (w : Wave) (x : Bool) (f : Option Frag) : ∃ A B, w.setSlot x f = { w with slotA := A, slotB := B } := by
  unfold Wave.setSlot; split
  · exact ⟨w.slotA, f, rfl⟩
  · exact ⟨f, w.slotB, rfl⟩

@[simp] theorem Wave.getSlot_setSlot_self (w : Wave) (x : Bool) (f : Option Frag) : (w.setSlot x f).getSlot x = f := by
  cases x <;> rfl

@[simp] theorem Wave.getSlot_setSlot_other (w : Wave) (x : Bool) (f : Option Frag) : (w.setSlot x f).getSlot (!x) = w.getSlot (!x) := by
  cases x <;> rfl

theorem Wave.leaveLoop_frame (w : Wave) (pc : Dword) (ts : List Dword) : ∃ n, w.leaveLoop pc ts = { w with lcnt := n } := by
  unfold Wave.leaveLoop; dsimp only; split
  · exact ⟨0, rfl⟩
  · exact ⟨w.lcnt, rfl⟩

theorem Wave.alternate_frame (w : Wave) (occ : Bool × Bool) : ∃ c, w.alternate occ = { w with cur := c } := by
  unfold Wave.alternate; dsimp only; split
  · exact ⟨w.cur, rfl⟩
  · split
    · exact ⟨_, rfl⟩
    · exact ⟨_, rfl⟩

/-- Refilling the slots changes the slots, the depth of the split stack and its join accounts only; no memory. -/
theorem State.fill_frame (base : Dword) : ∀ (n : Nat) (s : State), ∃ A B d j g,
    State.fill base n s = { s with wave := { s.wave with slotA := A, slotB := B, depth := d, joins := j, sigmis := g } }
  | 0, s => ⟨s.wave.slotA, s.wave.slotB, s.wave.depth, s.wave.joins, s.wave.sigmis, rfl⟩
  | n + 1, s => by
    unfold State.fill
    dsimp only
    split
    · exact ⟨_, _, _, _, _, rfl⟩
    · split
      · exact ⟨_, _, _, _, _, rfl⟩
      · split
        · exact ⟨_, _, _, _, _, rfl⟩
        · obtain ⟨A, B, d, j, g, e⟩ := State.fill_frame base n _
          refine ⟨A, B, d, j, g, e.trans ?_⟩
          split
          · rfl
          · unfold Wave.setSlot; split <;> rfl

/-- Freeing the fragments that stand at their joins lands their results and refills; no memory changes. -/
theorem State.settle_frame (base : Dword) : ∀ (n : Nat) (s : State), ∃ v sc a k m h fl A B d j g,
    State.settle base n s = { s with wave := { s.wave.withRegs v sc a k m h with flight := fl, slotA := A, slotB := B, depth := d, joins := j, sigmis := g } }
  | 0, s => ⟨_, _, _, _, _, _, _, _, _, _, _, _, rfl⟩
  | n + 1, s => by
    have free : ∀ (x : Bool) (js : List JoinAcct), ∃ v sc a k m h fl A B d j g,
        State.settle base n (State.fill base 130 { s with wave := ({ s.wave with joins := js } : Wave).freeSlot x }) =
          { s with wave := { s.wave.withRegs v sc a k m h with flight := fl, slotA := A, slotB := B, depth := d, joins := j, sigmis := g } } := by
      intro x js
      obtain ⟨v0, s0, a0, k0, m0, h0, f0, e0⟩ := Wave.landSlot_frame { s.wave with joins := js } x
      obtain ⟨A0, B0, e1⟩ := Wave.setSlot_frame (({ s.wave with joins := js } : Wave).landSlot x) x none
      obtain ⟨A, B, d, j, g, e2⟩ := State.fill_frame base 130 { s with wave := ({ s.wave with joins := js } : Wave).freeSlot x }
      obtain ⟨v, sc, a, k, m, h, fl, A', B', d', j', g', e3⟩ :=
        State.settle_frame base n (State.fill base 130 { s with wave := ({ s.wave with joins := js } : Wave).freeSlot x })
      refine ⟨v, sc, a, k, m, h, fl, A', B', d', j', g', e3.trans ?_⟩
      rw [e2]
      unfold Wave.freeSlot
      rw [e1, e0]
      rfl
    unfold State.settle
    dsimp only
    split
    · split
      · exact free false _
      · exact ⟨_, _, _, _, _, _, _, _, _, _, _, _, rfl⟩
    · split
      · split
        · exact free true _
        · exact ⟨_, _, _, _, _, _, _, _, _, _, _, _, rfl⟩
      · exact ⟨_, _, _, _, _, _, _, _, _, _, _, _, rfl⟩

/-! ## Logging, counting, waiting, ending -/

/-- An entry changes the fault record and the logbook only. -/
theorem State.logAt_frame (s : State) (c : Nat) (e : Entry) : ∃ p, s.logAt c e = { s with proctor := p } := ⟨_, rfl⟩

/-- The lapse of a window changes the window, the fault record and the logbook only. -/
theorem State.logLapse_frame (s : State) (n : Nat) : ∃ p, s.logLapse n = { s with proctor := p } := ⟨_, rfl⟩

theorem State.lapseDispre_frame (s : State) : ∃ p, s.lapseDispre = { s with wave := { s.wave with dispre := none }, proctor := p } := ⟨_, rfl⟩

theorem State.lapseOperator_frame (s : State) : ∃ p, s.lapseOperator = { s with wave := { s.wave with op := none }, proctor := p } := ⟨_, rfl⟩

/-- Counting a retired instruction changes the wave's counts and windows, and the log when a window lapses. -/
theorem State.countRetired_frame (s : State) : ∃ d o p,
    s.countRetired = { s with wave := { s.wave with retired := s.wave.retired + 1, dispre := d, op := o }, proctor := p } := by
  unfold State.countRetired
  extract_lets s1 s2
  have h1 : ∃ d p, s2 = { s with wave := { s1.wave with dispre := d }, proctor := p } := by
    by_cases hd : (match s1.wave.dispre with | some n => decide (2 ^ 20 < n) | none => false) = true
    · obtain ⟨p, e⟩ := State.lapseDispre_frame s1
      exact ⟨none, p, (if_pos hd).trans e⟩
    · exact ⟨s1.wave.dispre, s.proctor, if_neg hd⟩
  obtain ⟨d, p, e⟩ := h1
  have h2 : ∀ c : Bool, ∃ d o p, (if c = true then s2.lapseOperator else s2) =
      { s with wave := { s.wave with retired := s.wave.retired + 1, dispre := d, op := o }, proctor := p } := by
    intro c
    cases c with
    | true =>
      obtain ⟨p2, e2⟩ := State.lapseOperator_frame s2
      exact ⟨d, none, p2, e2.trans (by rw [e]; rfl)⟩
    | false => exact ⟨d, _, p, e⟩
  exact h2 _

/-- A switch point changes the wave's status and the core's choice only. -/
theorem State.switchPoint_frame (s : State) (q : Nat) : ∃ x,
    s.switchPoint q = ({ s with wave := { s.wave with status := x } } : State).updCore s.wave.core fun c =>
      { c with running := none, yielded := none, awaits := c.awaits.put 0 s.wave.tree q } := by
  have h : ∀ c : Bool, ∃ x, ((if c = true then s.upd fun w => { w with status := .stopped } else s).updCore s.wave.core fun c =>
      { c with running := none, yielded := none, awaits := c.awaits.put 0 s.wave.tree q }) =
      ({ s with wave := { s.wave with status := x } } : State).updCore s.wave.core fun c =>
        { c with running := none, yielded := none, awaits := c.awaits.put 0 s.wave.tree q } := by
    intro c
    cases c with
    | true => exact ⟨.stopped, rfl⟩
    | false => exact ⟨s.wave.status, rfl⟩
  exact h _

/-- A wave that resumes changes what it waits for, its stall, its ticket and its quantum only. -/
theorem Wave.resume_frame (w : Wave) (q n : Nat) : ∃ wt p st tk qn r qd ia,
    w.resume q n = { w with wait := wt, parked := p, stalled := st, ticket := tk, qnt := qn, retired := r, qdelay := qd, issueAt := ia } := by
  unfold Wave.resume
  split
  · exact ⟨_, _, _, _, _, _, _, _, rfl⟩
  · split <;> exact ⟨_, _, _, _, _, _, _, _, rfl⟩

/-- Making the restart record of a core changes that core's records only. -/
theorem State.markCore_frame (s : State) (tree core : Nat) : ∃ r, s.markCore tree core = s.updCore core (fun c => { c with recs := r }) ∨
    s.markCore tree core = s := by
  unfold State.markCore
  generalize (s.allWaves.filter fun w => w.tree == tree && w.core == core && (w.status == .live || w.status == .stopped)) = ws
  cases ws with
  | nil => exact ⟨[], .inr rfl⟩
  | cons w r =>
    dsimp only
    split
    · exact ⟨[], .inr rfl⟩
    · exact ⟨_, .inl rfl⟩

end Sys2Proof.Machine
end

