-- ==== Sys2Proof/Laws/Issue.lean ====
section
/-! SUPPORT. Laws of issue: an instruction that nothing holds up runs its own meaning; what the checks before it answer; what raising a fault leaves
alone; which meaning a fetched word runs. -/

namespace Sys2Proof.Machine

@[simp] theorem State.finish_done (s s' : State) (e : Enc) (c : Ctl) : s.finish e (.done s' c) = .next (s'.retire e c) := rfl
@[simp] theorem State.finish_fault (s : State) (e : Enc) (f : Flt) : s.finish e (.fault f) = .next (s.raise f) := rfl
@[simp] theorem State.finish_hold (s s' : State) (e : Enc) : s.finish e (.hold s') = .next s' := rfl
@[simp] theorem State.finish_trap (s s' : State) (e : Enc) (f : Flt) : s.finish e (.trap s' f) = .next (s'.retireTrap e f) := rfl

/-- Issue always answers a next state for a fragment of a launch tree. -/
theorem State.issueP_next {s : State} {e : Enc} {ok : Bool} {site : Site} {priv : Frag → Tree → Bool} {touch : List Reg} {body : Frag → Tree → Act}
    {f : Frag} {t : Tree} (h1 : s.wave.frag = some f) (h2 : s.tree? s.wave.tree = some t) : ∃ s', s.issueP e ok site priv touch body = .next s' := by
  unfold State.issueP
  rw [h1, h2]
  dsimp only
  unfold State.finish
  split <;> exact ⟨_, rfl⟩

/-- Issue always answers a next state for a fragment of a launch tree. -/
theorem State.issue_next {s : State} {e : Enc} {ok : Bool} {site : Site} {touch : List Reg} {body : Frag → Tree → Act} {f : Frag} {t : Tree}
    (h1 : s.wave.frag = some f) (h2 : s.tree? s.wave.tree = some t) : ∃ s', s.issue e ok site touch body = .next s' := State.issueP_next h1 h2

/-- Earlier work that leaves the wave no fault: no join check of this slot has failed, and no error waits or the instruction has begun. -/
theorem State.ownErrors_none {s : State} (h3 : s.wave.sigmis = none ∨ ∃ j m, s.wave.sigmis = some (some (!s.wave.cur), j, m))
    (h4 : s.wave.errs = [] ∨ s.wave.ticket ≠ none) : s.ownErrors = none := by
  have hc : ¬ ((!s.wave.cur) = s.wave.cur) := by cases s.wave.cur <;> simp
  unfold State.ownErrors
  cases hh : s.wave.errs with
  | nil => rcases h3 with h3 | ⟨j, m, h3⟩ <;> simp [h3]
  | cons x r =>
    cases ht : s.wave.ticket with
    | none => simp [hh, ht] at h4
    | some k => rcases h3 with h3 | ⟨j, m, h3⟩ <;> simp [h3]

/-- An instruction that no check stops runs its meaning. -/
theorem State.issueP_ready {s : State} {f : Frag} {t : Tree} {e : Enc} {ok : Bool} {site : Site} {priv : Frag → Tree → Bool} {touch : List Reg}
    {body : Frag → Tree → Act} (h1 : s.wave.frag = some f) (h2 : s.tree? s.wave.tree = some t)
    (h3 : s.wave.sigmis = none ∨ ∃ j m, s.wave.sigmis = some (some (!s.wave.cur), j, m))
    (h4 : s.wave.errs = [] ∨ s.wave.ticket ≠ none) (h5 : ok = true)
    (h6 : s.wave.lcnt ≠ 0 → f.pc = s.wave.loopEnd → site ≠ .branch ∧ f.after = none)
    (h7 : site ≠ .plain → f.after = none) (hp : priv f t = false) (h8 : s.wave.pendingOn touch = []) :
    s.issueP e ok site priv touch body = s.finish e (body f t) := by
  have h6' : ¬(s.wave.lcnt ≠ 0 && decide (f.pc = s.wave.loopEnd) && (decide (site = .branch) || f.after.isSome)) = true := by
    simp only [Bool.and_eq_true, Bool.or_eq_true, decide_eq_true_eq]
    rintro ⟨⟨a, b⟩, c⟩
    obtain ⟨d, g⟩ := h6 a b
    simp [d, g] at c
  have h7' : ¬(decide (site ≠ .plain) && f.after.isSome) = true := by
    simp only [Bool.and_eq_true, decide_eq_true_eq]
    rintro ⟨a, b⟩; simp [h7 a] at b
  unfold State.issueP
  rw [h1, h2]
  dsimp only
  rw [if_neg (by simp [h5]), if_neg h6', if_neg h7', if_neg (by simp [hp]), State.ownErrors_none h3 h4]
  simp [State.pendingWait, h8]

/-- An instruction that no check stops runs its meaning. -/
theorem State.issue_ready {s : State} {f : Frag} {t : Tree} {e : Enc} {ok : Bool} {site : Site} {touch : List Reg} {body : Frag → Tree → Act}
    (h1 : s.wave.frag = some f) (h2 : s.tree? s.wave.tree = some t)
    (h3 : s.wave.sigmis = none ∨ ∃ j m, s.wave.sigmis = some (some (!s.wave.cur), j, m))
    (h4 : s.wave.errs = [] ∨ s.wave.ticket ≠ none) (h5 : ok = true)
    (h6 : s.wave.lcnt ≠ 0 → f.pc = s.wave.loopEnd → site ≠ .branch ∧ f.after = none)
    (h7 : site ≠ .plain → f.after = none) (h8 : s.wave.pendingOn touch = []) :
    s.issue e ok site touch body = s.finish e (body f t) := State.issueP_ready h1 h2 h3 h4 h5 h6 h7 rfl h8

/-! ## Raising a fault (R236 to R242) -/

/-- Stopping a launch tree changes the trees, the agenda and a pending slip only. -/
theorem State.stopTree_frame (s : State) (t : Tree) (r : Raised) : ∃ ts ag sl, s.stopTree t r = { s with trees := ts, agenda := ag, slip := sl } := by
  unfold State.stopTree
  dsimp only
  split
  · split
    · split
      · exact ⟨_, _, _, rfl⟩
      · split <;> exact ⟨_, _, _, rfl⟩
    · exact ⟨_, _, _, rfl⟩
  · exact ⟨_, _, _, rfl⟩

/-- The memories, the accumulators, the desks, the channels and the chorus count are the same. -/
def State.SameMemory (s' s : State) : Prop :=
  s'.mem = s.mem ∧ s'.slices = s.slices ∧ s'.slicesC = s.slicesC ∧ s'.accs = s.accs ∧ s'.desks = s.desks ∧ s'.chans = s.chans ∧ s'.chc = s.chc

theorem State.SameMemory.rfl {s : State} : s.SameMemory s := ⟨Eq.refl _, Eq.refl _, Eq.refl _, Eq.refl _, Eq.refl _, Eq.refl _, Eq.refl _⟩

theorem State.stopTree_memory {s u : State} (h : u.SameMemory s) (t : Tree) (r : Raised) : (u.stopTree t r).SameMemory s := by
  obtain ⟨ts, ag, sl, e⟩ := State.stopTree_frame u t r
  rw [e]; exact h

theorem State.tlate_memory (s : State) (t : Tree) : (s.tlate t).SameMemory s := by
  unfold State.tlate
  split <;> exact State.SameMemory.rfl

theorem State.deliver_memory (s : State) (t : Tree) (fr : Frag) (x : Flt) (ret : Bool) (q : Nat) : (s.deliver t fr x ret q).SameMemory s := by
  unfold State.deliver
  by_cases h1 : (!t.cmode && x.handleable && !s.wave.hnd && decide (s.wave.hpc ≠ 0)) = true
  · rw [if_pos h1]; exact State.SameMemory.rfl
  · rw [if_neg h1]
    by_cases h2 : (decide (x.code = TLATE) && t.cmode) = true
    · rw [if_pos h2]; exact s.tlate_memory t
    · rw [if_neg h2]; exact State.stopTree_memory ⟨Eq.refl _, Eq.refl _, Eq.refl _, Eq.refl _, Eq.refl _, Eq.refl _, Eq.refl _⟩ _ _

/-- A fault that is raised changes no memory, no accumulator, no desk and no engine. -/
theorem State.raise_memory (s : State) (x : Flt) (ret : Bool) : (s.raise x ret).SameMemory s := by
  unfold State.raise
  split
  · have h : ∀ (c : Bool) (u v : State), u.SameMemory s → v.SameMemory s → (if c = true then u else v).SameMemory s := by
      intro c u v hu hv; cases c <;> assumption
    exact h _ _ _ ⟨Eq.refl _, Eq.refl _, Eq.refl _, Eq.refl _, Eq.refl _, Eq.refl _, Eq.refl _⟩ (s.deliver_memory _ _ _ _ _)
  · exact State.SameMemory.rfl

/-! ## Which meaning a word runs -/

/-- A word that decodes runs the instruction it decodes to. -/
theorem runWord_of_decode {w : Nat} {i : Instr} (s : State) (h : decodeWord w = some i) : runWord w s = exec i s := by
  unfold decodeWord at h
  unfold runWord
  cases hm : decodeMain w with
  | some j => simp [hm] at h; subst h; rfl
  | none =>
    cases hl : decodeLate w with
    | none => simp [hm, hl] at h
    | some l => cases l <;> simp [hm, hl, Late.instr] at h <;> subst h <;> rfl

/-- A word that does not decode runs as the undefined major. -/
theorem runWord_of_none {w : Nat} (s : State) (h : decodeWord w = none) : runWord w s = exec .udf s := by
  unfold decodeWord at h
  unfold runWord
  cases hm : decodeMain w with
  | some j => simp [hm] at h
  | none =>
    cases hl : decodeLate w with
    | none => rfl
    | some l => simp [hm, hl] at h

end Sys2Proof.Machine
end

