-- ==== Sys2Proof/Laws/PerInstr.lean ====
section
/-! SUPPORT. Per-instruction laws: family LengthBit, the length of an instruction word and its parcel bit (09_encoding.md R131). -/

namespace Sys2Proof.Laws

/-- The word of an instruction lies within its length, and bit 0 of an encoded one tells a 16-bit word (0) from a 32-bit one (1). -/
def LengthBit.Statement (i : Instr) : Prop :=
  i.encode < 2 ^ (8 * i.len) ∧ (i.encode ≠ 0 → i.encode % 2 = if i.len = 2 then 0 else 1)

theorem LengthBit.add (d : BitVec 5) (a : BitVec 5) (b : BitVec 5) : LengthBit.Statement (.add d a b) := by
  have h0 := d.isLt
  have h1 := a.isLt
  have h2 := b.isLt
  show 0x1 + d.toNat * 256 + a.toNat * 8192 + b.toNat * 262144 < 4294967296 ∧ (0x1 + d.toNat * 256 + a.toNat * 8192 + b.toNat * 262144 ≠ 0 → (0x1 + d.toNat * 256 + a.toNat * 8192 + b.toNat * 262144) % 2 = 1)
  omega
theorem LengthBit.sub (d : BitVec 5) (a : BitVec 5) (b : BitVec 5) : LengthBit.Statement (.sub d a b) := by
  have h0 := d.isLt
  have h1 := a.isLt
  have h2 := b.isLt
  show 0x3 + d.toNat * 256 + a.toNat * 8192 + b.toNat * 262144 < 4294967296 ∧ (0x3 + d.toNat * 256 + a.toNat * 8192 + b.toNat * 262144 ≠ 0 → (0x3 + d.toNat * 256 + a.toNat * 8192 + b.toNat * 262144) % 2 = 1)
  omega
theorem LengthBit.mul (d : BitVec 5) (a : BitVec 5) (b : BitVec 5) : LengthBit.Statement (.mul d a b) := by
  have h0 := d.isLt
  have h1 := a.isLt
  have h2 := b.isLt
  show 0x5 + d.toNat * 256 + a.toNat * 8192 + b.toNat * 262144 < 4294967296 ∧ (0x5 + d.toNat * 256 + a.toNat * 8192 + b.toNat * 262144 ≠ 0 → (0x5 + d.toNat * 256 + a.toNat * 8192 + b.toNat * 262144) % 2 = 1)
  omega
theorem LengthBit.mulh (d : BitVec 5) (a : BitVec 5) (b : BitVec 5) : LengthBit.Statement (.mulh d a b) := by
  have h0 := d.isLt
  have h1 := a.isLt
  have h2 := b.isLt
  show 0x800005 + d.toNat * 256 + a.toNat * 8192 + b.toNat * 262144 < 4294967296 ∧ (0x800005 + d.toNat * 256 + a.toNat * 8192 + b.toNat * 262144 ≠ 0 → (0x800005 + d.toNat * 256 + a.toNat * 8192 + b.toNat * 262144) % 2 = 1)
  omega
theorem LengthBit.mulhu (d : BitVec 5) (a : BitVec 5) (b : BitVec 5) : LengthBit.Statement (.mulhu d a b) := by
  have h0 := d.isLt
  have h1 := a.isLt
  have h2 := b.isLt
  show 0x1000005 + d.toNat * 256 + a.toNat * 8192 + b.toNat * 262144 < 4294967296 ∧ (0x1000005 + d.toNat * 256 + a.toNat * 8192 + b.toNat * 262144 ≠ 0 → (0x1000005 + d.toNat * 256 + a.toNat * 8192 + b.toNat * 262144) % 2 = 1)
  omega
theorem LengthBit.div (d : BitVec 5) (a : BitVec 5) (b : BitVec 5) : LengthBit.Statement (.div d a b) := by
  have h0 := d.isLt
  have h1 := a.isLt
  have h2 := b.isLt
  show 0x7 + d.toNat * 256 + a.toNat * 8192 + b.toNat * 262144 < 4294967296 ∧ (0x7 + d.toNat * 256 + a.toNat * 8192 + b.toNat * 262144 ≠ 0 → (0x7 + d.toNat * 256 + a.toNat * 8192 + b.toNat * 262144) % 2 = 1)
  omega
theorem LengthBit.divu (d : BitVec 5) (a : BitVec 5) (b : BitVec 5) : LengthBit.Statement (.divu d a b) := by
  have h0 := d.isLt
  have h1 := a.isLt
  have h2 := b.isLt
  show 0x800007 + d.toNat * 256 + a.toNat * 8192 + b.toNat * 262144 < 4294967296 ∧ (0x800007 + d.toNat * 256 + a.toNat * 8192 + b.toNat * 262144 ≠ 0 → (0x800007 + d.toNat * 256 + a.toNat * 8192 + b.toNat * 262144) % 2 = 1)
  omega
theorem LengthBit.rem (d : BitVec 5) (a : BitVec 5) (b : BitVec 5) : LengthBit.Statement (.rem d a b) := by
  have h0 := d.isLt
  have h1 := a.isLt
  have h2 := b.isLt
  show 0x1000007 + d.toNat * 256 + a.toNat * 8192 + b.toNat * 262144 < 4294967296 ∧ (0x1000007 + d.toNat * 256 + a.toNat * 8192 + b.toNat * 262144 ≠ 0 → (0x1000007 + d.toNat * 256 + a.toNat * 8192 + b.toNat * 262144) % 2 = 1)
  omega
theorem LengthBit.remu (d : BitVec 5) (a : BitVec 5) (b : BitVec 5) : LengthBit.Statement (.remu d a b) := by
  have h0 := d.isLt
  have h1 := a.isLt
  have h2 := b.isLt
  show 0x1800007 + d.toNat * 256 + a.toNat * 8192 + b.toNat * 262144 < 4294967296 ∧ (0x1800007 + d.toNat * 256 + a.toNat * 8192 + b.toNat * 262144 ≠ 0 → (0x1800007 + d.toNat * 256 + a.toNat * 8192 + b.toNat * 262144) % 2 = 1)
  omega
theorem LengthBit.and (d : BitVec 5) (a : BitVec 5) (b : BitVec 5) : LengthBit.Statement (.and d a b) := by
  have h0 := d.isLt
  have h1 := a.isLt
  have h2 := b.isLt
  show 0x9 + d.toNat * 256 + a.toNat * 8192 + b.toNat * 262144 < 4294967296 ∧ (0x9 + d.toNat * 256 + a.toNat * 8192 + b.toNat * 262144 ≠ 0 → (0x9 + d.toNat * 256 + a.toNat * 8192 + b.toNat * 262144) % 2 = 1)
  omega
theorem LengthBit.or (d : BitVec 5) (a : BitVec 5) (b : BitVec 5) : LengthBit.Statement (.or d a b) := by
  have h0 := d.isLt
  have h1 := a.isLt
  have h2 := b.isLt
  show 0x800009 + d.toNat * 256 + a.toNat * 8192 + b.toNat * 262144 < 4294967296 ∧ (0x800009 + d.toNat * 256 + a.toNat * 8192 + b.toNat * 262144 ≠ 0 → (0x800009 + d.toNat * 256 + a.toNat * 8192 + b.toNat * 262144) % 2 = 1)
  omega
theorem LengthBit.xor (d : BitVec 5) (a : BitVec 5) (b : BitVec 5) : LengthBit.Statement (.xor d a b) := by
  have h0 := d.isLt
  have h1 := a.isLt
  have h2 := b.isLt
  show 0x1000009 + d.toNat * 256 + a.toNat * 8192 + b.toNat * 262144 < 4294967296 ∧ (0x1000009 + d.toNat * 256 + a.toNat * 8192 + b.toNat * 262144 ≠ 0 → (0x1000009 + d.toNat * 256 + a.toNat * 8192 + b.toNat * 262144) % 2 = 1)
  omega
theorem LengthBit.andn (d : BitVec 5) (a : BitVec 5) (b : BitVec 5) : LengthBit.Statement (.andn d a b) := by
  have h0 := d.isLt
  have h1 := a.isLt
  have h2 := b.isLt
  show 0x1800009 + d.toNat * 256 + a.toNat * 8192 + b.toNat * 262144 < 4294967296 ∧ (0x1800009 + d.toNat * 256 + a.toNat * 8192 + b.toNat * 262144 ≠ 0 → (0x1800009 + d.toNat * 256 + a.toNat * 8192 + b.toNat * 262144) % 2 = 1)
  omega
theorem LengthBit.shl (d : BitVec 5) (a : BitVec 5) (b : BitVec 5) : LengthBit.Statement (.shl d a b) := by
  have h0 := d.isLt
  have h1 := a.isLt
  have h2 := b.isLt
  show 0xb + d.toNat * 256 + a.toNat * 8192 + b.toNat * 262144 < 4294967296 ∧ (0xb + d.toNat * 256 + a.toNat * 8192 + b.toNat * 262144 ≠ 0 → (0xb + d.toNat * 256 + a.toNat * 8192 + b.toNat * 262144) % 2 = 1)
  omega
theorem LengthBit.shr (d : BitVec 5) (a : BitVec 5) (b : BitVec 5) : LengthBit.Statement (.shr d a b) := by
  have h0 := d.isLt
  have h1 := a.isLt
  have h2 := b.isLt
  show 0x80000b + d.toNat * 256 + a.toNat * 8192 + b.toNat * 262144 < 4294967296 ∧ (0x80000b + d.toNat * 256 + a.toNat * 8192 + b.toNat * 262144 ≠ 0 → (0x80000b + d.toNat * 256 + a.toNat * 8192 + b.toNat * 262144) % 2 = 1)
  omega
theorem LengthBit.sra (d : BitVec 5) (a : BitVec 5) (b : BitVec 5) : LengthBit.Statement (.sra d a b) := by
  have h0 := d.isLt
  have h1 := a.isLt
  have h2 := b.isLt
  show 0x100000b + d.toNat * 256 + a.toNat * 8192 + b.toNat * 262144 < 4294967296 ∧ (0x100000b + d.toNat * 256 + a.toNat * 8192 + b.toNat * 262144 ≠ 0 → (0x100000b + d.toNat * 256 + a.toNat * 8192 + b.toNat * 262144) % 2 = 1)
  omega
theorem LengthBit.shli (d : BitVec 5) (a : BitVec 5) (n : BitVec 6) : LengthBit.Statement (.shli d a n) := by
  have h0 := d.isLt
  have h1 := a.isLt
  have h2 := n.isLt
  show 0x8000000b + d.toNat * 256 + a.toNat * 8192 + n.toNat * 8388608 < 4294967296 ∧ (0x8000000b + d.toNat * 256 + a.toNat * 8192 + n.toNat * 8388608 ≠ 0 → (0x8000000b + d.toNat * 256 + a.toNat * 8192 + n.toNat * 8388608) % 2 = 1)
  omega
theorem LengthBit.shri (d : BitVec 5) (a : BitVec 5) (n : BitVec 6) : LengthBit.Statement (.shri d a n) := by
  have h0 := d.isLt
  have h1 := a.isLt
  have h2 := n.isLt
  show 0xa000000b + d.toNat * 256 + a.toNat * 8192 + n.toNat * 8388608 < 4294967296 ∧ (0xa000000b + d.toNat * 256 + a.toNat * 8192 + n.toNat * 8388608 ≠ 0 → (0xa000000b + d.toNat * 256 + a.toNat * 8192 + n.toNat * 8388608) % 2 = 1)
  omega
theorem LengthBit.srai (d : BitVec 5) (a : BitVec 5) (n : BitVec 6) : LengthBit.Statement (.srai d a n) := by
  have h0 := d.isLt
  have h1 := a.isLt
  have h2 := n.isLt
  show 0xc000000b + d.toNat * 256 + a.toNat * 8192 + n.toNat * 8388608 < 4294967296 ∧ (0xc000000b + d.toNat * 256 + a.toNat * 8192 + n.toNat * 8388608 ≠ 0 → (0xc000000b + d.toNat * 256 + a.toNat * 8192 + n.toNat * 8388608) % 2 = 1)
  omega
theorem LengthBit.slt (d : BitVec 5) (a : BitVec 5) (b : BitVec 5) : LengthBit.Statement (.slt d a b) := by
  have h0 := d.isLt
  have h1 := a.isLt
  have h2 := b.isLt
  show 0xd + d.toNat * 256 + a.toNat * 8192 + b.toNat * 262144 < 4294967296 ∧ (0xd + d.toNat * 256 + a.toNat * 8192 + b.toNat * 262144 ≠ 0 → (0xd + d.toNat * 256 + a.toNat * 8192 + b.toNat * 262144) % 2 = 1)
  omega
theorem LengthBit.sltu (d : BitVec 5) (a : BitVec 5) (b : BitVec 5) : LengthBit.Statement (.sltu d a b) := by
  have h0 := d.isLt
  have h1 := a.isLt
  have h2 := b.isLt
  show 0x80000d + d.toNat * 256 + a.toNat * 8192 + b.toNat * 262144 < 4294967296 ∧ (0x80000d + d.toNat * 256 + a.toNat * 8192 + b.toNat * 262144 ≠ 0 → (0x80000d + d.toNat * 256 + a.toNat * 8192 + b.toNat * 262144) % 2 = 1)
  omega
theorem LengthBit.min (d : BitVec 5) (a : BitVec 5) (b : BitVec 5) : LengthBit.Statement (.min d a b) := by
  have h0 := d.isLt
  have h1 := a.isLt
  have h2 := b.isLt
  show 0x100000d + d.toNat * 256 + a.toNat * 8192 + b.toNat * 262144 < 4294967296 ∧ (0x100000d + d.toNat * 256 + a.toNat * 8192 + b.toNat * 262144 ≠ 0 → (0x100000d + d.toNat * 256 + a.toNat * 8192 + b.toNat * 262144) % 2 = 1)
  omega
theorem LengthBit.max (d : BitVec 5) (a : BitVec 5) (b : BitVec 5) : LengthBit.Statement (.max d a b) := by
  have h0 := d.isLt
  have h1 := a.isLt
  have h2 := b.isLt
  show 0x180000d + d.toNat * 256 + a.toNat * 8192 + b.toNat * 262144 < 4294967296 ∧ (0x180000d + d.toNat * 256 + a.toNat * 8192 + b.toNat * 262144 ≠ 0 → (0x180000d + d.toNat * 256 + a.toNat * 8192 + b.toNat * 262144) % 2 = 1)
  omega
theorem LengthBit.minu (d : BitVec 5) (a : BitVec 5) (b : BitVec 5) : LengthBit.Statement (.minu d a b) := by
  have h0 := d.isLt
  have h1 := a.isLt
  have h2 := b.isLt
  show 0x200000d + d.toNat * 256 + a.toNat * 8192 + b.toNat * 262144 < 4294967296 ∧ (0x200000d + d.toNat * 256 + a.toNat * 8192 + b.toNat * 262144 ≠ 0 → (0x200000d + d.toNat * 256 + a.toNat * 8192 + b.toNat * 262144) % 2 = 1)
  omega
theorem LengthBit.maxu (d : BitVec 5) (a : BitVec 5) (b : BitVec 5) : LengthBit.Statement (.maxu d a b) := by
  have h0 := d.isLt
  have h1 := a.isLt
  have h2 := b.isLt
  show 0x280000d + d.toNat * 256 + a.toNat * 8192 + b.toNat * 262144 < 4294967296 ∧ (0x280000d + d.toNat * 256 + a.toNat * 8192 + b.toNat * 262144 ≠ 0 → (0x280000d + d.toNat * 256 + a.toNat * 8192 + b.toNat * 262144) % 2 = 1)
  omega
theorem LengthBit.clz (d : BitVec 5) (a : BitVec 5) : LengthBit.Statement (.clz d a) := by
  have h0 := d.isLt
  have h1 := a.isLt
  show 0xf + d.toNat * 256 + a.toNat * 8192 < 4294967296 ∧ (0xf + d.toNat * 256 + a.toNat * 8192 ≠ 0 → (0xf + d.toNat * 256 + a.toNat * 8192) % 2 = 1)
  omega
theorem LengthBit.ctz (d : BitVec 5) (a : BitVec 5) : LengthBit.Statement (.ctz d a) := by
  have h0 := d.isLt
  have h1 := a.isLt
  show 0x80000f + d.toNat * 256 + a.toNat * 8192 < 4294967296 ∧ (0x80000f + d.toNat * 256 + a.toNat * 8192 ≠ 0 → (0x80000f + d.toNat * 256 + a.toNat * 8192) % 2 = 1)
  omega
theorem LengthBit.popc (d : BitVec 5) (a : BitVec 5) : LengthBit.Statement (.popc d a) := by
  have h0 := d.isLt
  have h1 := a.isLt
  show 0x100000f + d.toNat * 256 + a.toNat * 8192 < 4294967296 ∧ (0x100000f + d.toNat * 256 + a.toNat * 8192 ≠ 0 → (0x100000f + d.toNat * 256 + a.toNat * 8192) % 2 = 1)
  omega
theorem LengthBit.bfx (d : BitVec 5) (a : BitVec 5) (p : BitVec 6) (w : BitVec 6) (x : BitVec 1) : LengthBit.Statement (.bfx d a p w x) := by
  have h0 := d.isLt
  have h1 := a.isLt
  have h2 := p.isLt
  have h3 := w.isLt
  have h4 := x.isLt
  show 0x11 + d.toNat * 256 + a.toNat * 8192 + p.toNat * 262144 + w.toNat * 16777216 + x.toNat * 1073741824 < 4294967296 ∧ (0x11 + d.toNat * 256 + a.toNat * 8192 + p.toNat * 262144 + w.toNat * 16777216 + x.toNat * 1073741824 ≠ 0 → (0x11 + d.toNat * 256 + a.toNat * 8192 + p.toNat * 262144 + w.toNat * 16777216 + x.toNat * 1073741824) % 2 = 1)
  omega
theorem LengthBit.bfi (d : BitVec 5) (a : BitVec 5) (p : BitVec 6) (w : BitVec 6) : LengthBit.Statement (.bfi d a p w) := by
  have h0 := d.isLt
  have h1 := a.isLt
  have h2 := p.isLt
  have h3 := w.isLt
  show 0x13 + d.toNat * 256 + a.toNat * 8192 + p.toNat * 262144 + w.toNat * 16777216 < 4294967296 ∧ (0x13 + d.toNat * 256 + a.toNat * 8192 + p.toNat * 262144 + w.toNat * 16777216 ≠ 0 → (0x13 + d.toNat * 256 + a.toNat * 8192 + p.toNat * 262144 + w.toNat * 16777216) % 2 = 1)
  omega
theorem LengthBit.sel (d : BitVec 5) (a : BitVec 5) (b : BitVec 5) (c : BitVec 5) : LengthBit.Statement (.sel d a b c) := by
  have h0 := d.isLt
  have h1 := a.isLt
  have h2 := b.isLt
  have h3 := c.isLt
  show 0x15 + d.toNat * 256 + a.toNat * 8192 + b.toNat * 262144 + c.toNat * 8388608 < 4294967296 ∧ (0x15 + d.toNat * 256 + a.toNat * 8192 + b.toNat * 262144 + c.toNat * 8388608 ≠ 0 → (0x15 + d.toNat * 256 + a.toNat * 8192 + b.toNat * 262144 + c.toNat * 8388608) % 2 = 1)
  omega
theorem LengthBit.addi (d : BitVec 5) (a : BitVec 5) (i : BitVec 14) : LengthBit.Statement (.addi d a i) := by
  have h0 := d.isLt
  have h1 := a.isLt
  have h2 := i.isLt
  show 0x17 + d.toNat * 256 + a.toNat * 8192 + i.toNat * 262144 < 4294967296 ∧ (0x17 + d.toNat * 256 + a.toNat * 8192 + i.toNat * 262144 ≠ 0 → (0x17 + d.toNat * 256 + a.toNat * 8192 + i.toNat * 262144) % 2 = 1)
  omega
theorem LengthBit.andi (d : BitVec 5) (a : BitVec 5) (i : BitVec 14) : LengthBit.Statement (.andi d a i) := by
  have h0 := d.isLt
  have h1 := a.isLt
  have h2 := i.isLt
  show 0x19 + d.toNat * 256 + a.toNat * 8192 + i.toNat * 262144 < 4294967296 ∧ (0x19 + d.toNat * 256 + a.toNat * 8192 + i.toNat * 262144 ≠ 0 → (0x19 + d.toNat * 256 + a.toNat * 8192 + i.toNat * 262144) % 2 = 1)
  omega
theorem LengthBit.ori (d : BitVec 5) (a : BitVec 5) (i : BitVec 14) : LengthBit.Statement (.ori d a i) := by
  have h0 := d.isLt
  have h1 := a.isLt
  have h2 := i.isLt
  show 0x1b + d.toNat * 256 + a.toNat * 8192 + i.toNat * 262144 < 4294967296 ∧ (0x1b + d.toNat * 256 + a.toNat * 8192 + i.toNat * 262144 ≠ 0 → (0x1b + d.toNat * 256 + a.toNat * 8192 + i.toNat * 262144) % 2 = 1)
  omega
theorem LengthBit.xori (d : BitVec 5) (a : BitVec 5) (i : BitVec 14) : LengthBit.Statement (.xori d a i) := by
  have h0 := d.isLt
  have h1 := a.isLt
  have h2 := i.isLt
  show 0x1d + d.toNat * 256 + a.toNat * 8192 + i.toNat * 262144 < 4294967296 ∧ (0x1d + d.toNat * 256 + a.toNat * 8192 + i.toNat * 262144 ≠ 0 → (0x1d + d.toNat * 256 + a.toNat * 8192 + i.toNat * 262144) % 2 = 1)
  omega
theorem LengthBit.lih (d : BitVec 5) (i : BitVec 19) : LengthBit.Statement (.lih d i) := by
  have h0 := d.isLt
  have h1 := i.isLt
  show 0x1f + d.toNat * 256 + i.toNat * 8192 < 4294967296 ∧ (0x1f + d.toNat * 256 + i.toNat * 8192 ≠ 0 → (0x1f + d.toNat * 256 + i.toNat * 8192) % 2 = 1)
  omega
theorem LengthBit.adda (d : BitVec 4) (a : BitVec 4) (i : BitVec 14) : LengthBit.Statement (.adda d a i) := by
  have h0 := d.isLt
  have h1 := a.isLt
  have h2 := i.isLt
  show 0x21 + d.toNat * 256 + a.toNat * 8192 + i.toNat * 262144 < 4294967296 ∧ (0x21 + d.toNat * 256 + a.toNat * 8192 + i.toNat * 262144 ≠ 0 → (0x21 + d.toNat * 256 + a.toNat * 8192 + i.toNat * 262144) % 2 = 1)
  omega
theorem LengthBit.mova (d : BitVec 4) (a : BitVec 5) (i : BitVec 14) : LengthBit.Statement (.mova d a i) := by
  have h0 := d.isLt
  have h1 := a.isLt
  have h2 := i.isLt
  show 0x23 + d.toNat * 256 + a.toNat * 8192 + i.toNat * 262144 < 4294967296 ∧ (0x23 + d.toNat * 256 + a.toNat * 8192 + i.toNat * 262144 ≠ 0 → (0x23 + d.toNat * 256 + a.toNat * 8192 + i.toNat * 262144) % 2 = 1)
  omega
theorem LengthBit.movsa (d : BitVec 5) (a : BitVec 4) (i : BitVec 14) : LengthBit.Statement (.movsa d a i) := by
  have h0 := d.isLt
  have h1 := a.isLt
  have h2 := i.isLt
  show 0x25 + d.toNat * 256 + a.toNat * 8192 + i.toNat * 262144 < 4294967296 ∧ (0x25 + d.toNat * 256 + a.toNat * 8192 + i.toNat * 262144 ≠ 0 → (0x25 + d.toNat * 256 + a.toNat * 8192 + i.toNat * 262144) % 2 = 1)
  omega
theorem LengthBit.setk (k : BitVec 3) (a : BitVec 5) : LengthBit.Statement (.setk k a) := by
  have h0 := k.isLt
  have h1 := a.isLt
  show 0x27 + k.toNat * 256 + a.toNat * 8192 < 4294967296 ∧ (0x27 + k.toNat * 256 + a.toNat * 8192 ≠ 0 → (0x27 + k.toNat * 256 + a.toNat * 8192) % 2 = 1)
  omega
theorem LengthBit.getk (d : BitVec 5) (k : BitVec 3) : LengthBit.Statement (.getk d k) := by
  have h0 := d.isLt
  have h1 := k.isLt
  show 0x29 + d.toNat * 256 + k.toNat * 8192 < 4294967296 ∧ (0x29 + d.toNat * 256 + k.toNat * 8192 ≠ 0 → (0x29 + d.toNat * 256 + k.toNat * 8192) % 2 = 1)
  omega
theorem LengthBit.mfs (d : BitVec 5) (n : BitVec 14) : LengthBit.Statement (.mfs d n) := by
  have h0 := d.isLt
  have h1 := n.isLt
  show 0x2b + d.toNat * 256 + n.toNat * 262144 < 4294967296 ∧ (0x2b + d.toNat * 256 + n.toNat * 262144 ≠ 0 → (0x2b + d.toNat * 256 + n.toNat * 262144) % 2 = 1)
  omega
theorem LengthBit.mts (a : BitVec 5) (n : BitVec 14) : LengthBit.Statement (.mts a n) := by
  have h0 := a.isLt
  have h1 := n.isLt
  show 0x2d + a.toNat * 8192 + n.toNat * 262144 < 4294967296 ∧ (0x2d + a.toNat * 8192 + n.toNat * 262144 ≠ 0 → (0x2d + a.toNat * 8192 + n.toNat * 262144) % 2 = 1)
  omega
theorem LengthBit.bc (a : BitVec 5) (b : BitVec 5) (c : BitVec 3) (o : BitVec 11) : LengthBit.Statement (.bc a b c o) := by
  have h0 := a.isLt
  have h1 := b.isLt
  have h2 := c.isLt
  have h3 := o.isLt
  show 0x31 + a.toNat * 256 + b.toNat * 8192 + c.toNat * 262144 + o.toNat * 2097152 < 4294967296 ∧ (0x31 + a.toNat * 256 + b.toNat * 8192 + c.toNat * 262144 + o.toNat * 2097152 ≠ 0 → (0x31 + a.toNat * 256 + b.toNat * 8192 + c.toNat * 262144 + o.toNat * 2097152) % 2 = 1)
  omega
theorem LengthBit.j (o : BitVec 24) : LengthBit.Statement (.j o) := by
  have h0 := o.isLt
  show 0x33 + o.toNat * 256 < 4294967296 ∧ (0x33 + o.toNat * 256 ≠ 0 → (0x33 + o.toNat * 256) % 2 = 1)
  omega
theorem LengthBit.jal (o : BitVec 24) : LengthBit.Statement (.jal o) := by
  have h0 := o.isLt
  show 0x35 + o.toNat * 256 < 4294967296 ∧ (0x35 + o.toNat * 256 ≠ 0 → (0x35 + o.toNat * 256) % 2 = 1)
  omega
theorem LengthBit.jr (a : BitVec 4) : LengthBit.Statement (.jr a) := by
  have h0 := a.isLt
  show 0x37 + a.toNat * 8192 < 4294967296 ∧ (0x37 + a.toNat * 8192 ≠ 0 → (0x37 + a.toNat * 8192) % 2 = 1)
  omega
theorem LengthBit.bv (m : BitVec 3) (t : BitVec 10) (jo : BitVec 11) : LengthBit.Statement (.bv m t jo) := by
  have h0 := m.isLt
  have h1 := t.isLt
  have h2 := jo.isLt
  show 0x39 + m.toNat * 256 + t.toNat * 2048 + jo.toNat * 2097152 < 4294967296 ∧ (0x39 + m.toNat * 256 + t.toNat * 2048 + jo.toNat * 2097152 ≠ 0 → (0x39 + m.toNat * 256 + t.toNat * 2048 + jo.toNat * 2097152) % 2 = 1)
  omega
theorem LengthBit.jtv (v : BitVec 6) (n : BitVec 4) (b : BitVec 5) (jo : BitVec 9) : LengthBit.Statement (.jtv v n b jo) := by
  have h0 := v.isLt
  have h1 := n.isLt
  have h2 := b.isLt
  have h3 := jo.isLt
  show 0x3b + v.toNat * 256 + n.toNat * 16384 + b.toNat * 262144 + jo.toNat * 8388608 < 4294967296 ∧ (0x3b + v.toNat * 256 + n.toNat * 16384 + b.toNat * 262144 + jo.toNat * 8388608 ≠ 0 → (0x3b + v.toNat * 256 + n.toNat * 16384 + b.toNat * 262144 + jo.toNat * 8388608) % 2 = 1)
  omega
theorem LengthBit.loopl (a : BitVec 5) (o : BitVec 11) : LengthBit.Statement (.loopl a o) := by
  have h0 := a.isLt
  have h1 := o.isLt
  show 0x3d + a.toNat * 256 + o.toNat * 2097152 < 4294967296 ∧ (0x3d + a.toNat * 256 + o.toNat * 2097152 ≠ 0 → (0x3d + a.toNat * 256 + o.toNat * 2097152) % 2 = 1)
  omega
theorem LengthBit.loopb (a : BitVec 5) (o : BitVec 11) : LengthBit.Statement (.loopb a o) := by
  have h0 := a.isLt
  have h1 := o.isLt
  show 0x3f + a.toNat * 256 + o.toNat * 2097152 < 4294967296 ∧ (0x3f + a.toNat * 256 + o.toNat * 2097152 ≠ 0 → (0x3f + a.toNat * 256 + o.toNat * 2097152) % 2 = 1)
  omega
theorem LengthBit.vmov (d : BitVec 6) (b : BitVec 5) : LengthBit.Statement (.vmov d b) := by
  have h0 := d.isLt
  have h1 := b.isLt
  show 0x0 + d.toNat * 32 + b.toNat * 2048 < 65536 ∧ (0x0 + d.toNat * 32 + b.toNat * 2048 ≠ 0 → (0x0 + d.toNat * 32 + b.toNat * 2048) % 2 = 0)
  omega
theorem LengthBit.vaddI32x16 (d : BitVec 6) (b : BitVec 5) : LengthBit.Statement (.vaddI32x16 d b) := by
  have h0 := d.isLt
  have h1 := b.isLt
  show 0x2 + d.toNat * 32 + b.toNat * 2048 < 65536 ∧ (0x2 + d.toNat * 32 + b.toNat * 2048 ≠ 0 → (0x2 + d.toNat * 32 + b.toNat * 2048) % 2 = 0)
  omega
theorem LengthBit.vsubI32x16 (d : BitVec 6) (b : BitVec 5) : LengthBit.Statement (.vsubI32x16 d b) := by
  have h0 := d.isLt
  have h1 := b.isLt
  show 0x4 + d.toNat * 32 + b.toNat * 2048 < 65536 ∧ (0x4 + d.toNat * 32 + b.toNat * 2048 ≠ 0 → (0x4 + d.toNat * 32 + b.toNat * 2048) % 2 = 0)
  omega
theorem LengthBit.vmulI32x16 (d : BitVec 6) (b : BitVec 5) : LengthBit.Statement (.vmulI32x16 d b) := by
  have h0 := d.isLt
  have h1 := b.isLt
  show 0x6 + d.toNat * 32 + b.toNat * 2048 < 65536 ∧ (0x6 + d.toNat * 32 + b.toNat * 2048 ≠ 0 → (0x6 + d.toNat * 32 + b.toNat * 2048) % 2 = 0)
  omega
theorem LengthBit.vandx16 (d : BitVec 6) (b : BitVec 5) : LengthBit.Statement (.vandx16 d b) := by
  have h0 := d.isLt
  have h1 := b.isLt
  show 0x8 + d.toNat * 32 + b.toNat * 2048 < 65536 ∧ (0x8 + d.toNat * 32 + b.toNat * 2048 ≠ 0 → (0x8 + d.toNat * 32 + b.toNat * 2048) % 2 = 0)
  omega
theorem LengthBit.vorx16 (d : BitVec 6) (b : BitVec 5) : LengthBit.Statement (.vorx16 d b) := by
  have h0 := d.isLt
  have h1 := b.isLt
  show 0xa + d.toNat * 32 + b.toNat * 2048 < 65536 ∧ (0xa + d.toNat * 32 + b.toNat * 2048 ≠ 0 → (0xa + d.toNat * 32 + b.toNat * 2048) % 2 = 0)
  omega
theorem LengthBit.vxorx16 (d : BitVec 6) (b : BitVec 5) : LengthBit.Statement (.vxorx16 d b) := by
  have h0 := d.isLt
  have h1 := b.isLt
  show 0xc + d.toNat * 32 + b.toNat * 2048 < 65536 ∧ (0xc + d.toNat * 32 + b.toNat * 2048 ≠ 0 → (0xc + d.toNat * 32 + b.toNat * 2048) % 2 = 0)
  omega
theorem LengthBit.vshlI32x16 (d : BitVec 6) (b : BitVec 5) : LengthBit.Statement (.vshlI32x16 d b) := by
  have h0 := d.isLt
  have h1 := b.isLt
  show 0xe + d.toNat * 32 + b.toNat * 2048 < 65536 ∧ (0xe + d.toNat * 32 + b.toNat * 2048 ≠ 0 → (0xe + d.toNat * 32 + b.toNat * 2048) % 2 = 0)
  omega
theorem LengthBit.vsraI32x16 (d : BitVec 6) (b : BitVec 5) : LengthBit.Statement (.vsraI32x16 d b) := by
  have h0 := d.isLt
  have h1 := b.isLt
  show 0x10 + d.toNat * 32 + b.toNat * 2048 < 65536 ∧ (0x10 + d.toNat * 32 + b.toNat * 2048 ≠ 0 → (0x10 + d.toNat * 32 + b.toNat * 2048) % 2 = 0)
  omega
theorem LengthBit.vminS32x16 (d : BitVec 6) (b : BitVec 5) : LengthBit.Statement (.vminS32x16 d b) := by
  have h0 := d.isLt
  have h1 := b.isLt
  show 0x12 + d.toNat * 32 + b.toNat * 2048 < 65536 ∧ (0x12 + d.toNat * 32 + b.toNat * 2048 ≠ 0 → (0x12 + d.toNat * 32 + b.toNat * 2048) % 2 = 0)
  omega
theorem LengthBit.vmaxS32x16 (d : BitVec 6) (b : BitVec 5) : LengthBit.Statement (.vmaxS32x16 d b) := by
  have h0 := d.isLt
  have h1 := b.isLt
  show 0x14 + d.toNat * 32 + b.toNat * 2048 < 65536 ∧ (0x14 + d.toNat * 32 + b.toNat * 2048 ≠ 0 → (0x14 + d.toNat * 32 + b.toNat * 2048) % 2 = 0)
  omega
theorem LengthBit.vfaddF32x16 (d : BitVec 6) (b : BitVec 5) : LengthBit.Statement (.vfaddF32x16 d b) := by
  have h0 := d.isLt
  have h1 := b.isLt
  show 0x16 + d.toNat * 32 + b.toNat * 2048 < 65536 ∧ (0x16 + d.toNat * 32 + b.toNat * 2048 ≠ 0 → (0x16 + d.toNat * 32 + b.toNat * 2048) % 2 = 0)
  omega
theorem LengthBit.vfsubF32x16 (d : BitVec 6) (b : BitVec 5) : LengthBit.Statement (.vfsubF32x16 d b) := by
  have h0 := d.isLt
  have h1 := b.isLt
  show 0x18 + d.toNat * 32 + b.toNat * 2048 < 65536 ∧ (0x18 + d.toNat * 32 + b.toNat * 2048 ≠ 0 → (0x18 + d.toNat * 32 + b.toNat * 2048) % 2 = 0)
  omega
theorem LengthBit.vfmulF32x16 (d : BitVec 6) (b : BitVec 5) : LengthBit.Statement (.vfmulF32x16 d b) := by
  have h0 := d.isLt
  have h1 := b.isLt
  show 0x1a + d.toNat * 32 + b.toNat * 2048 < 65536 ∧ (0x1a + d.toNat * 32 + b.toNat * 2048 ≠ 0 → (0x1a + d.toNat * 32 + b.toNat * 2048) % 2 = 0)
  omega
theorem LengthBit.vfminF32x16 (d : BitVec 6) (b : BitVec 5) : LengthBit.Statement (.vfminF32x16 d b) := by
  have h0 := d.isLt
  have h1 := b.isLt
  show 0x1c + d.toNat * 32 + b.toNat * 2048 < 65536 ∧ (0x1c + d.toNat * 32 + b.toNat * 2048 ≠ 0 → (0x1c + d.toNat * 32 + b.toNat * 2048) % 2 = 0)
  omega
theorem LengthBit.vfmaxF32x16 (d : BitVec 6) (b : BitVec 5) : LengthBit.Statement (.vfmaxF32x16 d b) := by
  have h0 := d.isLt
  have h1 := b.isLt
  show 0x1e + d.toNat * 32 + b.toNat * 2048 < 65536 ∧ (0x1e + d.toNat * 32 + b.toNat * 2048 ≠ 0 → (0x1e + d.toNat * 32 + b.toNat * 2048) % 2 = 0)
  omega
theorem LengthBit.vaddI32 (d : BitVec 6) (a : BitVec 6) (b : BitVec 6) (m : BitVec 3) : LengthBit.Statement (.vaddI32 d a b m) := by
  have h0 := d.isLt
  have h1 := a.isLt
  have h2 := b.isLt
  have h3 := m.isLt
  show 0x41 + d.toNat * 256 + a.toNat * 16384 + b.toNat * 1048576 + m.toNat * 67108864 < 4294967296 ∧ (0x41 + d.toNat * 256 + a.toNat * 16384 + b.toNat * 1048576 + m.toNat * 67108864 ≠ 0 → (0x41 + d.toNat * 256 + a.toNat * 16384 + b.toNat * 1048576 + m.toNat * 67108864) % 2 = 1)
  omega
theorem LengthBit.vaddS32 (d : BitVec 6) (a : BitVec 6) (b : BitVec 6) (m : BitVec 3) : LengthBit.Statement (.vaddS32 d a b m) := by
  have h0 := d.isLt
  have h1 := a.isLt
  have h2 := b.isLt
  have h3 := m.isLt
  show 0x20000041 + d.toNat * 256 + a.toNat * 16384 + b.toNat * 1048576 + m.toNat * 67108864 < 4294967296 ∧ (0x20000041 + d.toNat * 256 + a.toNat * 16384 + b.toNat * 1048576 + m.toNat * 67108864 ≠ 0 → (0x20000041 + d.toNat * 256 + a.toNat * 16384 + b.toNat * 1048576 + m.toNat * 67108864) % 2 = 1)
  omega
theorem LengthBit.vaddU32 (d : BitVec 6) (a : BitVec 6) (b : BitVec 6) (m : BitVec 3) : LengthBit.Statement (.vaddU32 d a b m) := by
  have h0 := d.isLt
  have h1 := a.isLt
  have h2 := b.isLt
  have h3 := m.isLt
  show 0x40000041 + d.toNat * 256 + a.toNat * 16384 + b.toNat * 1048576 + m.toNat * 67108864 < 4294967296 ∧ (0x40000041 + d.toNat * 256 + a.toNat * 16384 + b.toNat * 1048576 + m.toNat * 67108864 ≠ 0 → (0x40000041 + d.toNat * 256 + a.toNat * 16384 + b.toNat * 1048576 + m.toNat * 67108864) % 2 = 1)
  omega
theorem LengthBit.vsubI32 (d : BitVec 6) (a : BitVec 6) (b : BitVec 6) (m : BitVec 3) : LengthBit.Statement (.vsubI32 d a b m) := by
  have h0 := d.isLt
  have h1 := a.isLt
  have h2 := b.isLt
  have h3 := m.isLt
  show 0x43 + d.toNat * 256 + a.toNat * 16384 + b.toNat * 1048576 + m.toNat * 67108864 < 4294967296 ∧ (0x43 + d.toNat * 256 + a.toNat * 16384 + b.toNat * 1048576 + m.toNat * 67108864 ≠ 0 → (0x43 + d.toNat * 256 + a.toNat * 16384 + b.toNat * 1048576 + m.toNat * 67108864) % 2 = 1)
  omega
theorem LengthBit.vsubS32 (d : BitVec 6) (a : BitVec 6) (b : BitVec 6) (m : BitVec 3) : LengthBit.Statement (.vsubS32 d a b m) := by
  have h0 := d.isLt
  have h1 := a.isLt
  have h2 := b.isLt
  have h3 := m.isLt
  show 0x20000043 + d.toNat * 256 + a.toNat * 16384 + b.toNat * 1048576 + m.toNat * 67108864 < 4294967296 ∧ (0x20000043 + d.toNat * 256 + a.toNat * 16384 + b.toNat * 1048576 + m.toNat * 67108864 ≠ 0 → (0x20000043 + d.toNat * 256 + a.toNat * 16384 + b.toNat * 1048576 + m.toNat * 67108864) % 2 = 1)
  omega
theorem LengthBit.vsubU32 (d : BitVec 6) (a : BitVec 6) (b : BitVec 6) (m : BitVec 3) : LengthBit.Statement (.vsubU32 d a b m) := by
  have h0 := d.isLt
  have h1 := a.isLt
  have h2 := b.isLt
  have h3 := m.isLt
  show 0x40000043 + d.toNat * 256 + a.toNat * 16384 + b.toNat * 1048576 + m.toNat * 67108864 < 4294967296 ∧ (0x40000043 + d.toNat * 256 + a.toNat * 16384 + b.toNat * 1048576 + m.toNat * 67108864 ≠ 0 → (0x40000043 + d.toNat * 256 + a.toNat * 16384 + b.toNat * 1048576 + m.toNat * 67108864) % 2 = 1)
  omega
theorem LengthBit.vmulI32 (d : BitVec 6) (a : BitVec 6) (b : BitVec 6) (m : BitVec 3) : LengthBit.Statement (.vmulI32 d a b m) := by
  have h0 := d.isLt
  have h1 := a.isLt
  have h2 := b.isLt
  have h3 := m.isLt
  show 0x45 + d.toNat * 256 + a.toNat * 16384 + b.toNat * 1048576 + m.toNat * 67108864 < 4294967296 ∧ (0x45 + d.toNat * 256 + a.toNat * 16384 + b.toNat * 1048576 + m.toNat * 67108864 ≠ 0 → (0x45 + d.toNat * 256 + a.toNat * 16384 + b.toNat * 1048576 + m.toNat * 67108864) % 2 = 1)
  omega
theorem LengthBit.vmulhS32 (d : BitVec 6) (a : BitVec 6) (b : BitVec 6) (m : BitVec 3) : LengthBit.Statement (.vmulhS32 d a b m) := by
  have h0 := d.isLt
  have h1 := a.isLt
  have h2 := b.isLt
  have h3 := m.isLt
  show 0x20000045 + d.toNat * 256 + a.toNat * 16384 + b.toNat * 1048576 + m.toNat * 67108864 < 4294967296 ∧ (0x20000045 + d.toNat * 256 + a.toNat * 16384 + b.toNat * 1048576 + m.toNat * 67108864 ≠ 0 → (0x20000045 + d.toNat * 256 + a.toNat * 16384 + b.toNat * 1048576 + m.toNat * 67108864) % 2 = 1)
  omega
theorem LengthBit.vmulhU32 (d : BitVec 6) (a : BitVec 6) (b : BitVec 6) (m : BitVec 3) : LengthBit.Statement (.vmulhU32 d a b m) := by
  have h0 := d.isLt
  have h1 := a.isLt
  have h2 := b.isLt
  have h3 := m.isLt
  show 0x40000045 + d.toNat * 256 + a.toNat * 16384 + b.toNat * 1048576 + m.toNat * 67108864 < 4294967296 ∧ (0x40000045 + d.toNat * 256 + a.toNat * 16384 + b.toNat * 1048576 + m.toNat * 67108864 ≠ 0 → (0x40000045 + d.toNat * 256 + a.toNat * 16384 + b.toNat * 1048576 + m.toNat * 67108864) % 2 = 1)
  omega
theorem LengthBit.vmadI32 (d : BitVec 6) (a : BitVec 6) (b : BitVec 6) (m : BitVec 3) : LengthBit.Statement (.vmadI32 d a b m) := by
  have h0 := d.isLt
  have h1 := a.isLt
  have h2 := b.isLt
  have h3 := m.isLt
  show 0x47 + d.toNat * 256 + a.toNat * 16384 + b.toNat * 1048576 + m.toNat * 67108864 < 4294967296 ∧ (0x47 + d.toNat * 256 + a.toNat * 16384 + b.toNat * 1048576 + m.toNat * 67108864 ≠ 0 → (0x47 + d.toNat * 256 + a.toNat * 16384 + b.toNat * 1048576 + m.toNat * 67108864) % 2 = 1)
  omega
theorem LengthBit.vand (d : BitVec 6) (a : BitVec 6) (b : BitVec 6) (m : BitVec 3) : LengthBit.Statement (.vand d a b m) := by
  have h0 := d.isLt
  have h1 := a.isLt
  have h2 := b.isLt
  have h3 := m.isLt
  show 0x49 + d.toNat * 256 + a.toNat * 16384 + b.toNat * 1048576 + m.toNat * 67108864 < 4294967296 ∧ (0x49 + d.toNat * 256 + a.toNat * 16384 + b.toNat * 1048576 + m.toNat * 67108864 ≠ 0 → (0x49 + d.toNat * 256 + a.toNat * 16384 + b.toNat * 1048576 + m.toNat * 67108864) % 2 = 1)
  omega
theorem LengthBit.vor (d : BitVec 6) (a : BitVec 6) (b : BitVec 6) (m : BitVec 3) : LengthBit.Statement (.vor d a b m) := by
  have h0 := d.isLt
  have h1 := a.isLt
  have h2 := b.isLt
  have h3 := m.isLt
  show 0x20000049 + d.toNat * 256 + a.toNat * 16384 + b.toNat * 1048576 + m.toNat * 67108864 < 4294967296 ∧ (0x20000049 + d.toNat * 256 + a.toNat * 16384 + b.toNat * 1048576 + m.toNat * 67108864 ≠ 0 → (0x20000049 + d.toNat * 256 + a.toNat * 16384 + b.toNat * 1048576 + m.toNat * 67108864) % 2 = 1)
  omega
theorem LengthBit.vxor (d : BitVec 6) (a : BitVec 6) (b : BitVec 6) (m : BitVec 3) : LengthBit.Statement (.vxor d a b m) := by
  have h0 := d.isLt
  have h1 := a.isLt
  have h2 := b.isLt
  have h3 := m.isLt
  show 0x40000049 + d.toNat * 256 + a.toNat * 16384 + b.toNat * 1048576 + m.toNat * 67108864 < 4294967296 ∧ (0x40000049 + d.toNat * 256 + a.toNat * 16384 + b.toNat * 1048576 + m.toNat * 67108864 ≠ 0 → (0x40000049 + d.toNat * 256 + a.toNat * 16384 + b.toNat * 1048576 + m.toNat * 67108864) % 2 = 1)
  omega
theorem LengthBit.vandn (d : BitVec 6) (a : BitVec 6) (b : BitVec 6) (m : BitVec 3) : LengthBit.Statement (.vandn d a b m) := by
  have h0 := d.isLt
  have h1 := a.isLt
  have h2 := b.isLt
  have h3 := m.isLt
  show 0x60000049 + d.toNat * 256 + a.toNat * 16384 + b.toNat * 1048576 + m.toNat * 67108864 < 4294967296 ∧ (0x60000049 + d.toNat * 256 + a.toNat * 16384 + b.toNat * 1048576 + m.toNat * 67108864 ≠ 0 → (0x60000049 + d.toNat * 256 + a.toNat * 16384 + b.toNat * 1048576 + m.toNat * 67108864) % 2 = 1)
  omega
theorem LengthBit.vshlI32 (d : BitVec 6) (a : BitVec 6) (b : BitVec 6) (m : BitVec 3) : LengthBit.Statement (.vshlI32 d a b m) := by
  have h0 := d.isLt
  have h1 := a.isLt
  have h2 := b.isLt
  have h3 := m.isLt
  show 0x4b + d.toNat * 256 + a.toNat * 16384 + b.toNat * 1048576 + m.toNat * 67108864 < 4294967296 ∧ (0x4b + d.toNat * 256 + a.toNat * 16384 + b.toNat * 1048576 + m.toNat * 67108864 ≠ 0 → (0x4b + d.toNat * 256 + a.toNat * 16384 + b.toNat * 1048576 + m.toNat * 67108864) % 2 = 1)
  omega
theorem LengthBit.vshrI32 (d : BitVec 6) (a : BitVec 6) (b : BitVec 6) (m : BitVec 3) : LengthBit.Statement (.vshrI32 d a b m) := by
  have h0 := d.isLt
  have h1 := a.isLt
  have h2 := b.isLt
  have h3 := m.isLt
  show 0x2000004b + d.toNat * 256 + a.toNat * 16384 + b.toNat * 1048576 + m.toNat * 67108864 < 4294967296 ∧ (0x2000004b + d.toNat * 256 + a.toNat * 16384 + b.toNat * 1048576 + m.toNat * 67108864 ≠ 0 → (0x2000004b + d.toNat * 256 + a.toNat * 16384 + b.toNat * 1048576 + m.toNat * 67108864) % 2 = 1)
  omega
theorem LengthBit.vsraI32 (d : BitVec 6) (a : BitVec 6) (b : BitVec 6) (m : BitVec 3) : LengthBit.Statement (.vsraI32 d a b m) := by
  have h0 := d.isLt
  have h1 := a.isLt
  have h2 := b.isLt
  have h3 := m.isLt
  show 0x4000004b + d.toNat * 256 + a.toNat * 16384 + b.toNat * 1048576 + m.toNat * 67108864 < 4294967296 ∧ (0x4000004b + d.toNat * 256 + a.toNat * 16384 + b.toNat * 1048576 + m.toNat * 67108864 ≠ 0 → (0x4000004b + d.toNat * 256 + a.toNat * 16384 + b.toNat * 1048576 + m.toNat * 67108864) % 2 = 1)
  omega
theorem LengthBit.vminS32 (d : BitVec 6) (a : BitVec 6) (b : BitVec 6) (m : BitVec 3) : LengthBit.Statement (.vminS32 d a b m) := by
  have h0 := d.isLt
  have h1 := a.isLt
  have h2 := b.isLt
  have h3 := m.isLt
  show 0x4d + d.toNat * 256 + a.toNat * 16384 + b.toNat * 1048576 + m.toNat * 67108864 < 4294967296 ∧ (0x4d + d.toNat * 256 + a.toNat * 16384 + b.toNat * 1048576 + m.toNat * 67108864 ≠ 0 → (0x4d + d.toNat * 256 + a.toNat * 16384 + b.toNat * 1048576 + m.toNat * 67108864) % 2 = 1)
  omega
theorem LengthBit.vmaxS32 (d : BitVec 6) (a : BitVec 6) (b : BitVec 6) (m : BitVec 3) : LengthBit.Statement (.vmaxS32 d a b m) := by
  have h0 := d.isLt
  have h1 := a.isLt
  have h2 := b.isLt
  have h3 := m.isLt
  show 0x2000004d + d.toNat * 256 + a.toNat * 16384 + b.toNat * 1048576 + m.toNat * 67108864 < 4294967296 ∧ (0x2000004d + d.toNat * 256 + a.toNat * 16384 + b.toNat * 1048576 + m.toNat * 67108864 ≠ 0 → (0x2000004d + d.toNat * 256 + a.toNat * 16384 + b.toNat * 1048576 + m.toNat * 67108864) % 2 = 1)
  omega
theorem LengthBit.vminU32 (d : BitVec 6) (a : BitVec 6) (b : BitVec 6) (m : BitVec 3) : LengthBit.Statement (.vminU32 d a b m) := by
  have h0 := d.isLt
  have h1 := a.isLt
  have h2 := b.isLt
  have h3 := m.isLt
  show 0x4000004d + d.toNat * 256 + a.toNat * 16384 + b.toNat * 1048576 + m.toNat * 67108864 < 4294967296 ∧ (0x4000004d + d.toNat * 256 + a.toNat * 16384 + b.toNat * 1048576 + m.toNat * 67108864 ≠ 0 → (0x4000004d + d.toNat * 256 + a.toNat * 16384 + b.toNat * 1048576 + m.toNat * 67108864) % 2 = 1)
  omega
theorem LengthBit.vmaxU32 (d : BitVec 6) (a : BitVec 6) (b : BitVec 6) (m : BitVec 3) : LengthBit.Statement (.vmaxU32 d a b m) := by
  have h0 := d.isLt
  have h1 := a.isLt
  have h2 := b.isLt
  have h3 := m.isLt
  show 0x6000004d + d.toNat * 256 + a.toNat * 16384 + b.toNat * 1048576 + m.toNat * 67108864 < 4294967296 ∧ (0x6000004d + d.toNat * 256 + a.toNat * 16384 + b.toNat * 1048576 + m.toNat * 67108864 ≠ 0 → (0x6000004d + d.toNat * 256 + a.toNat * 16384 + b.toNat * 1048576 + m.toNat * 67108864) % 2 = 1)
  omega
theorem LengthBit.vabsS32 (d : BitVec 6) (a : BitVec 6) (m : BitVec 3) : LengthBit.Statement (.vabsS32 d a m) := by
  have h0 := d.isLt
  have h1 := a.isLt
  have h2 := m.isLt
  show 0x4f + d.toNat * 256 + a.toNat * 16384 + m.toNat * 67108864 < 4294967296 ∧ (0x4f + d.toNat * 256 + a.toNat * 16384 + m.toNat * 67108864 ≠ 0 → (0x4f + d.toNat * 256 + a.toNat * 16384 + m.toNat * 67108864) % 2 = 1)
  omega
theorem LengthBit.vnegI32 (d : BitVec 6) (a : BitVec 6) (m : BitVec 3) : LengthBit.Statement (.vnegI32 d a m) := by
  have h0 := d.isLt
  have h1 := a.isLt
  have h2 := m.isLt
  show 0x2000004f + d.toNat * 256 + a.toNat * 16384 + m.toNat * 67108864 < 4294967296 ∧ (0x2000004f + d.toNat * 256 + a.toNat * 16384 + m.toNat * 67108864 ≠ 0 → (0x2000004f + d.toNat * 256 + a.toNat * 16384 + m.toNat * 67108864) % 2 = 1)
  omega
theorem LengthBit.vsel (d : BitVec 6) (a : BitVec 6) (b : BitVec 6) (s : BitVec 3) : LengthBit.Statement (.vsel d a b s) := by
  have h0 := d.isLt
  have h1 := a.isLt
  have h2 := b.isLt
  have h3 := s.isLt
  show 0x51 + d.toNat * 256 + a.toNat * 16384 + b.toNat * 1048576 + s.toNat * 67108864 < 4294967296 ∧ (0x51 + d.toNat * 256 + a.toNat * 16384 + b.toNat * 1048576 + s.toNat * 67108864 ≠ 0 → (0x51 + d.toNat * 256 + a.toNat * 16384 + b.toNat * 1048576 + s.toNat * 67108864) % 2 = 1)
  omega
theorem LengthBit.vcmpS32 (d : BitVec 3) (a : BitVec 6) (b : BitVec 6) (m : BitVec 3) (c : BitVec 3) : LengthBit.Statement (.vcmpS32 d a b m c) := by
  have h0 := d.isLt
  have h1 := a.isLt
  have h2 := b.isLt
  have h3 := m.isLt
  have h4 := c.isLt
  show 0x53 + d.toNat * 256 + a.toNat * 2048 + b.toNat * 131072 + m.toNat * 8388608 + c.toNat * 67108864 < 4294967296 ∧ (0x53 + d.toNat * 256 + a.toNat * 2048 + b.toNat * 131072 + m.toNat * 8388608 + c.toNat * 67108864 ≠ 0 → (0x53 + d.toNat * 256 + a.toNat * 2048 + b.toNat * 131072 + m.toNat * 8388608 + c.toNat * 67108864) % 2 = 1)
  omega
theorem LengthBit.vcmpU32 (d : BitVec 3) (a : BitVec 6) (b : BitVec 6) (m : BitVec 3) (c : BitVec 3) : LengthBit.Statement (.vcmpU32 d a b m c) := by
  have h0 := d.isLt
  have h1 := a.isLt
  have h2 := b.isLt
  have h3 := m.isLt
  have h4 := c.isLt
  show 0x20000053 + d.toNat * 256 + a.toNat * 2048 + b.toNat * 131072 + m.toNat * 8388608 + c.toNat * 67108864 < 4294967296 ∧ (0x20000053 + d.toNat * 256 + a.toNat * 2048 + b.toNat * 131072 + m.toNat * 8388608 + c.toNat * 67108864 ≠ 0 → (0x20000053 + d.toNat * 256 + a.toNat * 2048 + b.toNat * 131072 + m.toNat * 8388608 + c.toNat * 67108864) % 2 = 1)
  omega
theorem LengthBit.vpopc (d : BitVec 6) (a : BitVec 6) (m : BitVec 3) : LengthBit.Statement (.vpopc d a m) := by
  have h0 := d.isLt
  have h1 := a.isLt
  have h2 := m.isLt
  show 0x55 + d.toNat * 256 + a.toNat * 16384 + m.toNat * 67108864 < 4294967296 ∧ (0x55 + d.toNat * 256 + a.toNat * 16384 + m.toNat * 67108864 ≠ 0 → (0x55 + d.toNat * 256 + a.toNat * 16384 + m.toNat * 67108864) % 2 = 1)
  omega
theorem LengthBit.vclz (d : BitVec 6) (a : BitVec 6) (m : BitVec 3) : LengthBit.Statement (.vclz d a m) := by
  have h0 := d.isLt
  have h1 := a.isLt
  have h2 := m.isLt
  show 0x20000055 + d.toNat * 256 + a.toNat * 16384 + m.toNat * 67108864 < 4294967296 ∧ (0x20000055 + d.toNat * 256 + a.toNat * 16384 + m.toNat * 67108864 ≠ 0 → (0x20000055 + d.toNat * 256 + a.toNat * 16384 + m.toNat * 67108864) % 2 = 1)
  omega
theorem LengthBit.vbfxU32 (d : BitVec 6) (a : BitVec 6) (s : BitVec 5) (m : BitVec 3) : LengthBit.Statement (.vbfxU32 d a s m) := by
  have h0 := d.isLt
  have h1 := a.isLt
  have h2 := s.isLt
  have h3 := m.isLt
  show 0x57 + d.toNat * 256 + a.toNat * 16384 + s.toNat * 1048576 + m.toNat * 33554432 < 4294967296 ∧ (0x57 + d.toNat * 256 + a.toNat * 16384 + s.toNat * 1048576 + m.toNat * 33554432 ≠ 0 → (0x57 + d.toNat * 256 + a.toNat * 16384 + s.toNat * 1048576 + m.toNat * 33554432) % 2 = 1)
  omega
theorem LengthBit.vbfxS32 (d : BitVec 6) (a : BitVec 6) (s : BitVec 5) (m : BitVec 3) : LengthBit.Statement (.vbfxS32 d a s m) := by
  have h0 := d.isLt
  have h1 := a.isLt
  have h2 := s.isLt
  have h3 := m.isLt
  show 0x10000057 + d.toNat * 256 + a.toNat * 16384 + s.toNat * 1048576 + m.toNat * 33554432 < 4294967296 ∧ (0x10000057 + d.toNat * 256 + a.toNat * 16384 + s.toNat * 1048576 + m.toNat * 33554432 ≠ 0 → (0x10000057 + d.toNat * 256 + a.toNat * 16384 + s.toNat * 1048576 + m.toNat * 33554432) % 2 = 1)
  omega
theorem LengthBit.vaddiI32 (d : BitVec 6) (a : BitVec 6) (m : BitVec 3) (i : BitVec 9) : LengthBit.Statement (.vaddiI32 d a m i) := by
  have h0 := d.isLt
  have h1 := a.isLt
  have h2 := m.isLt
  have h3 := i.isLt
  show 0x59 + d.toNat * 256 + a.toNat * 16384 + m.toNat * 1048576 + i.toNat * 8388608 < 4294967296 ∧ (0x59 + d.toNat * 256 + a.toNat * 16384 + m.toNat * 1048576 + i.toNat * 8388608 ≠ 0 → (0x59 + d.toNat * 256 + a.toNat * 16384 + m.toNat * 1048576 + i.toNat * 8388608) % 2 = 1)
  omega
theorem LengthBit.vshli (d : BitVec 6) (a : BitVec 6) (m : BitVec 3) (n : BitVec 5) : LengthBit.Statement (.vshli d a m n) := by
  have h0 := d.isLt
  have h1 := a.isLt
  have h2 := m.isLt
  have h3 := n.isLt
  show 0x5b + d.toNat * 256 + a.toNat * 16384 + m.toNat * 1048576 + n.toNat * 8388608 < 4294967296 ∧ (0x5b + d.toNat * 256 + a.toNat * 16384 + m.toNat * 1048576 + n.toNat * 8388608 ≠ 0 → (0x5b + d.toNat * 256 + a.toNat * 16384 + m.toNat * 1048576 + n.toNat * 8388608) % 2 = 1)
  omega
theorem LengthBit.vshri (d : BitVec 6) (a : BitVec 6) (m : BitVec 3) (n : BitVec 5) : LengthBit.Statement (.vshri d a m n) := by
  have h0 := d.isLt
  have h1 := a.isLt
  have h2 := m.isLt
  have h3 := n.isLt
  show 0x1000005b + d.toNat * 256 + a.toNat * 16384 + m.toNat * 1048576 + n.toNat * 8388608 < 4294967296 ∧ (0x1000005b + d.toNat * 256 + a.toNat * 16384 + m.toNat * 1048576 + n.toNat * 8388608 ≠ 0 → (0x1000005b + d.toNat * 256 + a.toNat * 16384 + m.toNat * 1048576 + n.toNat * 8388608) % 2 = 1)
  omega
theorem LengthBit.vsrai (d : BitVec 6) (a : BitVec 6) (m : BitVec 3) (n : BitVec 5) : LengthBit.Statement (.vsrai d a m n) := by
  have h0 := d.isLt
  have h1 := a.isLt
  have h2 := m.isLt
  have h3 := n.isLt
  show 0x2000005b + d.toNat * 256 + a.toNat * 16384 + m.toNat * 1048576 + n.toNat * 8388608 < 4294967296 ∧ (0x2000005b + d.toNat * 256 + a.toNat * 16384 + m.toNat * 1048576 + n.toNat * 8388608 ≠ 0 → (0x2000005b + d.toNat * 256 + a.toNat * 16384 + m.toNat * 1048576 + n.toNat * 8388608) % 2 = 1)
  omega
theorem LengthBit.vmovs (d : BitVec 6) (s : BitVec 5) (m : BitVec 3) : LengthBit.Statement (.vmovs d s m) := by
  have h0 := d.isLt
  have h1 := s.isLt
  have h2 := m.isLt
  show 0x5d + d.toNat * 256 + s.toNat * 1048576 + m.toNat * 33554432 < 4294967296 ∧ (0x5d + d.toNat * 256 + s.toNat * 1048576 + m.toNat * 33554432 ≠ 0 → (0x5d + d.toNat * 256 + s.toNat * 1048576 + m.toNat * 33554432) % 2 = 1)
  omega
theorem LengthBit.vlane (d : BitVec 6) (m : BitVec 3) : LengthBit.Statement (.vlane d m) := by
  have h0 := d.isLt
  have h1 := m.isLt
  show 0x1000005d + d.toNat * 256 + m.toNat * 33554432 < 4294967296 ∧ (0x1000005d + d.toNat * 256 + m.toNat * 33554432 ≠ 0 → (0x1000005d + d.toNat * 256 + m.toNat * 33554432) % 2 = 1)
  omega
theorem LengthBit.vmovi (d : BitVec 6) (m : BitVec 3) (i : BitVec 9) : LengthBit.Statement (.vmovi d m i) := by
  have h0 := d.isLt
  have h1 := m.isLt
  have h2 := i.isLt
  show 0x5f + d.toNat * 256 + m.toNat * 1048576 + i.toNat * 8388608 < 4294967296 ∧ (0x5f + d.toNat * 256 + m.toNat * 1048576 + i.toNat * 8388608 ≠ 0 → (0x5f + d.toNat * 256 + m.toNat * 1048576 + i.toNat * 8388608) % 2 = 1)
  omega
theorem LengthBit.vfaddF32 (d : BitVec 6) (a : BitVec 6) (b : BitVec 6) (m : BitVec 3) : LengthBit.Statement (.vfaddF32 d a b m) := by
  have h0 := d.isLt
  have h1 := a.isLt
  have h2 := b.isLt
  have h3 := m.isLt
  show 0x61 + d.toNat * 256 + a.toNat * 16384 + b.toNat * 1048576 + m.toNat * 67108864 < 4294967296 ∧ (0x61 + d.toNat * 256 + a.toNat * 16384 + b.toNat * 1048576 + m.toNat * 67108864 ≠ 0 → (0x61 + d.toNat * 256 + a.toNat * 16384 + b.toNat * 1048576 + m.toNat * 67108864) % 2 = 1)
  omega
theorem LengthBit.vfaddF16X2 (d : BitVec 6) (a : BitVec 6) (b : BitVec 6) (m : BitVec 3) : LengthBit.Statement (.vfaddF16X2 d a b m) := by
  have h0 := d.isLt
  have h1 := a.isLt
  have h2 := b.isLt
  have h3 := m.isLt
  show 0x20000061 + d.toNat * 256 + a.toNat * 16384 + b.toNat * 1048576 + m.toNat * 67108864 < 4294967296 ∧ (0x20000061 + d.toNat * 256 + a.toNat * 16384 + b.toNat * 1048576 + m.toNat * 67108864 ≠ 0 → (0x20000061 + d.toNat * 256 + a.toNat * 16384 + b.toNat * 1048576 + m.toNat * 67108864) % 2 = 1)
  omega
theorem LengthBit.vfsubF32 (d : BitVec 6) (a : BitVec 6) (b : BitVec 6) (m : BitVec 3) : LengthBit.Statement (.vfsubF32 d a b m) := by
  have h0 := d.isLt
  have h1 := a.isLt
  have h2 := b.isLt
  have h3 := m.isLt
  show 0x63 + d.toNat * 256 + a.toNat * 16384 + b.toNat * 1048576 + m.toNat * 67108864 < 4294967296 ∧ (0x63 + d.toNat * 256 + a.toNat * 16384 + b.toNat * 1048576 + m.toNat * 67108864 ≠ 0 → (0x63 + d.toNat * 256 + a.toNat * 16384 + b.toNat * 1048576 + m.toNat * 67108864) % 2 = 1)
  omega
theorem LengthBit.vfsubF16X2 (d : BitVec 6) (a : BitVec 6) (b : BitVec 6) (m : BitVec 3) : LengthBit.Statement (.vfsubF16X2 d a b m) := by
  have h0 := d.isLt
  have h1 := a.isLt
  have h2 := b.isLt
  have h3 := m.isLt
  show 0x20000063 + d.toNat * 256 + a.toNat * 16384 + b.toNat * 1048576 + m.toNat * 67108864 < 4294967296 ∧ (0x20000063 + d.toNat * 256 + a.toNat * 16384 + b.toNat * 1048576 + m.toNat * 67108864 ≠ 0 → (0x20000063 + d.toNat * 256 + a.toNat * 16384 + b.toNat * 1048576 + m.toNat * 67108864) % 2 = 1)
  omega
theorem LengthBit.vfmulF32 (d : BitVec 6) (a : BitVec 6) (b : BitVec 6) (m : BitVec 3) : LengthBit.Statement (.vfmulF32 d a b m) := by
  have h0 := d.isLt
  have h1 := a.isLt
  have h2 := b.isLt
  have h3 := m.isLt
  show 0x65 + d.toNat * 256 + a.toNat * 16384 + b.toNat * 1048576 + m.toNat * 67108864 < 4294967296 ∧ (0x65 + d.toNat * 256 + a.toNat * 16384 + b.toNat * 1048576 + m.toNat * 67108864 ≠ 0 → (0x65 + d.toNat * 256 + a.toNat * 16384 + b.toNat * 1048576 + m.toNat * 67108864) % 2 = 1)
  omega
theorem LengthBit.vfmulF16X2 (d : BitVec 6) (a : BitVec 6) (b : BitVec 6) (m : BitVec 3) : LengthBit.Statement (.vfmulF16X2 d a b m) := by
  have h0 := d.isLt
  have h1 := a.isLt
  have h2 := b.isLt
  have h3 := m.isLt
  show 0x20000065 + d.toNat * 256 + a.toNat * 16384 + b.toNat * 1048576 + m.toNat * 67108864 < 4294967296 ∧ (0x20000065 + d.toNat * 256 + a.toNat * 16384 + b.toNat * 1048576 + m.toNat * 67108864 ≠ 0 → (0x20000065 + d.toNat * 256 + a.toNat * 16384 + b.toNat * 1048576 + m.toNat * 67108864) % 2 = 1)
  omega
theorem LengthBit.vfmaF32 (d : BitVec 6) (a : BitVec 6) (b : BitVec 6) (m : BitVec 3) : LengthBit.Statement (.vfmaF32 d a b m) := by
  have h0 := d.isLt
  have h1 := a.isLt
  have h2 := b.isLt
  have h3 := m.isLt
  show 0x67 + d.toNat * 256 + a.toNat * 16384 + b.toNat * 1048576 + m.toNat * 67108864 < 4294967296 ∧ (0x67 + d.toNat * 256 + a.toNat * 16384 + b.toNat * 1048576 + m.toNat * 67108864 ≠ 0 → (0x67 + d.toNat * 256 + a.toNat * 16384 + b.toNat * 1048576 + m.toNat * 67108864) % 2 = 1)
  omega
theorem LengthBit.vfmaF16X2 (d : BitVec 6) (a : BitVec 6) (b : BitVec 6) (m : BitVec 3) : LengthBit.Statement (.vfmaF16X2 d a b m) := by
  have h0 := d.isLt
  have h1 := a.isLt
  have h2 := b.isLt
  have h3 := m.isLt
  show 0x20000067 + d.toNat * 256 + a.toNat * 16384 + b.toNat * 1048576 + m.toNat * 67108864 < 4294967296 ∧ (0x20000067 + d.toNat * 256 + a.toNat * 16384 + b.toNat * 1048576 + m.toNat * 67108864 ≠ 0 → (0x20000067 + d.toNat * 256 + a.toNat * 16384 + b.toNat * 1048576 + m.toNat * 67108864) % 2 = 1)
  omega
theorem LengthBit.vfmsF32 (d : BitVec 6) (a : BitVec 6) (b : BitVec 6) (m : BitVec 3) : LengthBit.Statement (.vfmsF32 d a b m) := by
  have h0 := d.isLt
  have h1 := a.isLt
  have h2 := b.isLt
  have h3 := m.isLt
  show 0x69 + d.toNat * 256 + a.toNat * 16384 + b.toNat * 1048576 + m.toNat * 67108864 < 4294967296 ∧ (0x69 + d.toNat * 256 + a.toNat * 16384 + b.toNat * 1048576 + m.toNat * 67108864 ≠ 0 → (0x69 + d.toNat * 256 + a.toNat * 16384 + b.toNat * 1048576 + m.toNat * 67108864) % 2 = 1)
  omega
theorem LengthBit.vfmsF16X2 (d : BitVec 6) (a : BitVec 6) (b : BitVec 6) (m : BitVec 3) : LengthBit.Statement (.vfmsF16X2 d a b m) := by
  have h0 := d.isLt
  have h1 := a.isLt
  have h2 := b.isLt
  have h3 := m.isLt
  show 0x20000069 + d.toNat * 256 + a.toNat * 16384 + b.toNat * 1048576 + m.toNat * 67108864 < 4294967296 ∧ (0x20000069 + d.toNat * 256 + a.toNat * 16384 + b.toNat * 1048576 + m.toNat * 67108864 ≠ 0 → (0x20000069 + d.toNat * 256 + a.toNat * 16384 + b.toNat * 1048576 + m.toNat * 67108864) % 2 = 1)
  omega
theorem LengthBit.vfnmaF32 (d : BitVec 6) (a : BitVec 6) (b : BitVec 6) (m : BitVec 3) : LengthBit.Statement (.vfnmaF32 d a b m) := by
  have h0 := d.isLt
  have h1 := a.isLt
  have h2 := b.isLt
  have h3 := m.isLt
  show 0x6b + d.toNat * 256 + a.toNat * 16384 + b.toNat * 1048576 + m.toNat * 67108864 < 4294967296 ∧ (0x6b + d.toNat * 256 + a.toNat * 16384 + b.toNat * 1048576 + m.toNat * 67108864 ≠ 0 → (0x6b + d.toNat * 256 + a.toNat * 16384 + b.toNat * 1048576 + m.toNat * 67108864) % 2 = 1)
  omega
theorem LengthBit.vfnmaF16X2 (d : BitVec 6) (a : BitVec 6) (b : BitVec 6) (m : BitVec 3) : LengthBit.Statement (.vfnmaF16X2 d a b m) := by
  have h0 := d.isLt
  have h1 := a.isLt
  have h2 := b.isLt
  have h3 := m.isLt
  show 0x2000006b + d.toNat * 256 + a.toNat * 16384 + b.toNat * 1048576 + m.toNat * 67108864 < 4294967296 ∧ (0x2000006b + d.toNat * 256 + a.toNat * 16384 + b.toNat * 1048576 + m.toNat * 67108864 ≠ 0 → (0x2000006b + d.toNat * 256 + a.toNat * 16384 + b.toNat * 1048576 + m.toNat * 67108864) % 2 = 1)
  omega
theorem LengthBit.vfminF32 (d : BitVec 6) (a : BitVec 6) (b : BitVec 6) (m : BitVec 3) : LengthBit.Statement (.vfminF32 d a b m) := by
  have h0 := d.isLt
  have h1 := a.isLt
  have h2 := b.isLt
  have h3 := m.isLt
  show 0x6d + d.toNat * 256 + a.toNat * 16384 + b.toNat * 1048576 + m.toNat * 67108864 < 4294967296 ∧ (0x6d + d.toNat * 256 + a.toNat * 16384 + b.toNat * 1048576 + m.toNat * 67108864 ≠ 0 → (0x6d + d.toNat * 256 + a.toNat * 16384 + b.toNat * 1048576 + m.toNat * 67108864) % 2 = 1)
  omega
theorem LengthBit.vfmaxF32 (d : BitVec 6) (a : BitVec 6) (b : BitVec 6) (m : BitVec 3) : LengthBit.Statement (.vfmaxF32 d a b m) := by
  have h0 := d.isLt
  have h1 := a.isLt
  have h2 := b.isLt
  have h3 := m.isLt
  show 0x2000006d + d.toNat * 256 + a.toNat * 16384 + b.toNat * 1048576 + m.toNat * 67108864 < 4294967296 ∧ (0x2000006d + d.toNat * 256 + a.toNat * 16384 + b.toNat * 1048576 + m.toNat * 67108864 ≠ 0 → (0x2000006d + d.toNat * 256 + a.toNat * 16384 + b.toNat * 1048576 + m.toNat * 67108864) % 2 = 1)
  omega
theorem LengthBit.vfminF16X2 (d : BitVec 6) (a : BitVec 6) (b : BitVec 6) (m : BitVec 3) : LengthBit.Statement (.vfminF16X2 d a b m) := by
  have h0 := d.isLt
  have h1 := a.isLt
  have h2 := b.isLt
  have h3 := m.isLt
  show 0x4000006d + d.toNat * 256 + a.toNat * 16384 + b.toNat * 1048576 + m.toNat * 67108864 < 4294967296 ∧ (0x4000006d + d.toNat * 256 + a.toNat * 16384 + b.toNat * 1048576 + m.toNat * 67108864 ≠ 0 → (0x4000006d + d.toNat * 256 + a.toNat * 16384 + b.toNat * 1048576 + m.toNat * 67108864) % 2 = 1)
  omega
theorem LengthBit.vfmaxF16X2 (d : BitVec 6) (a : BitVec 6) (b : BitVec 6) (m : BitVec 3) : LengthBit.Statement (.vfmaxF16X2 d a b m) := by
  have h0 := d.isLt
  have h1 := a.isLt
  have h2 := b.isLt
  have h3 := m.isLt
  show 0x6000006d + d.toNat * 256 + a.toNat * 16384 + b.toNat * 1048576 + m.toNat * 67108864 < 4294967296 ∧ (0x6000006d + d.toNat * 256 + a.toNat * 16384 + b.toNat * 1048576 + m.toNat * 67108864 ≠ 0 → (0x6000006d + d.toNat * 256 + a.toNat * 16384 + b.toNat * 1048576 + m.toNat * 67108864) % 2 = 1)
  omega
theorem LengthBit.vfmaxlF16 (d : BitVec 6) (a : BitVec 6) (b : BitVec 6) (m : BitVec 3) : LengthBit.Statement (.vfmaxlF16 d a b m) := by
  have h0 := d.isLt
  have h1 := a.isLt
  have h2 := b.isLt
  have h3 := m.isLt
  show 0x8000006d + d.toNat * 256 + a.toNat * 16384 + b.toNat * 1048576 + m.toNat * 67108864 < 4294967296 ∧ (0x8000006d + d.toNat * 256 + a.toNat * 16384 + b.toNat * 1048576 + m.toNat * 67108864 ≠ 0 → (0x8000006d + d.toNat * 256 + a.toNat * 16384 + b.toNat * 1048576 + m.toNat * 67108864) % 2 = 1)
  omega
theorem LengthBit.vfminlF16 (d : BitVec 6) (a : BitVec 6) (b : BitVec 6) (m : BitVec 3) : LengthBit.Statement (.vfminlF16 d a b m) := by
  have h0 := d.isLt
  have h1 := a.isLt
  have h2 := b.isLt
  have h3 := m.isLt
  show 0xa000006d + d.toNat * 256 + a.toNat * 16384 + b.toNat * 1048576 + m.toNat * 67108864 < 4294967296 ∧ (0xa000006d + d.toNat * 256 + a.toNat * 16384 + b.toNat * 1048576 + m.toNat * 67108864 ≠ 0 → (0xa000006d + d.toNat * 256 + a.toNat * 16384 + b.toNat * 1048576 + m.toNat * 67108864) % 2 = 1)
  omega
theorem LengthBit.vfabsF32 (d : BitVec 6) (a : BitVec 6) (m : BitVec 3) : LengthBit.Statement (.vfabsF32 d a m) := by
  have h0 := d.isLt
  have h1 := a.isLt
  have h2 := m.isLt
  show 0x6f + d.toNat * 256 + a.toNat * 16384 + m.toNat * 67108864 < 4294967296 ∧ (0x6f + d.toNat * 256 + a.toNat * 16384 + m.toNat * 67108864 ≠ 0 → (0x6f + d.toNat * 256 + a.toNat * 16384 + m.toNat * 67108864) % 2 = 1)
  omega
theorem LengthBit.vfnegF32 (d : BitVec 6) (a : BitVec 6) (m : BitVec 3) : LengthBit.Statement (.vfnegF32 d a m) := by
  have h0 := d.isLt
  have h1 := a.isLt
  have h2 := m.isLt
  show 0x2000006f + d.toNat * 256 + a.toNat * 16384 + m.toNat * 67108864 < 4294967296 ∧ (0x2000006f + d.toNat * 256 + a.toNat * 16384 + m.toNat * 67108864 ≠ 0 → (0x2000006f + d.toNat * 256 + a.toNat * 16384 + m.toNat * 67108864) % 2 = 1)
  omega
theorem LengthBit.vfcopysignF32 (d : BitVec 6) (a : BitVec 6) (b : BitVec 6) (m : BitVec 3) : LengthBit.Statement (.vfcopysignF32 d a b m) := by
  have h0 := d.isLt
  have h1 := a.isLt
  have h2 := b.isLt
  have h3 := m.isLt
  show 0x4000006f + d.toNat * 256 + a.toNat * 16384 + b.toNat * 1048576 + m.toNat * 67108864 < 4294967296 ∧ (0x4000006f + d.toNat * 256 + a.toNat * 16384 + b.toNat * 1048576 + m.toNat * 67108864 ≠ 0 → (0x4000006f + d.toNat * 256 + a.toNat * 16384 + b.toNat * 1048576 + m.toNat * 67108864) % 2 = 1)
  omega
theorem LengthBit.vfabsF16X2 (d : BitVec 6) (a : BitVec 6) (m : BitVec 3) : LengthBit.Statement (.vfabsF16X2 d a m) := by
  have h0 := d.isLt
  have h1 := a.isLt
  have h2 := m.isLt
  show 0x6000006f + d.toNat * 256 + a.toNat * 16384 + m.toNat * 67108864 < 4294967296 ∧ (0x6000006f + d.toNat * 256 + a.toNat * 16384 + m.toNat * 67108864 ≠ 0 → (0x6000006f + d.toNat * 256 + a.toNat * 16384 + m.toNat * 67108864) % 2 = 1)
  omega
theorem LengthBit.vfnegF16X2 (d : BitVec 6) (a : BitVec 6) (m : BitVec 3) : LengthBit.Statement (.vfnegF16X2 d a m) := by
  have h0 := d.isLt
  have h1 := a.isLt
  have h2 := m.isLt
  show 0x8000006f + d.toNat * 256 + a.toNat * 16384 + m.toNat * 67108864 < 4294967296 ∧ (0x8000006f + d.toNat * 256 + a.toNat * 16384 + m.toNat * 67108864 ≠ 0 → (0x8000006f + d.toNat * 256 + a.toNat * 16384 + m.toNat * 67108864) % 2 = 1)
  omega
theorem LengthBit.vfcopysignF16X2 (d : BitVec 6) (a : BitVec 6) (b : BitVec 6) (m : BitVec 3) : LengthBit.Statement (.vfcopysignF16X2 d a b m) := by
  have h0 := d.isLt
  have h1 := a.isLt
  have h2 := b.isLt
  have h3 := m.isLt
  show 0xa000006f + d.toNat * 256 + a.toNat * 16384 + b.toNat * 1048576 + m.toNat * 67108864 < 4294967296 ∧ (0xa000006f + d.toNat * 256 + a.toNat * 16384 + b.toNat * 1048576 + m.toNat * 67108864 ≠ 0 → (0xa000006f + d.toNat * 256 + a.toNat * 16384 + b.toNat * 1048576 + m.toNat * 67108864) % 2 = 1)
  omega
theorem LengthBit.vfcmpF32 (d : BitVec 3) (a : BitVec 6) (b : BitVec 6) (m : BitVec 3) (c : BitVec 3) : LengthBit.Statement (.vfcmpF32 d a b m c) := by
  have h0 := d.isLt
  have h1 := a.isLt
  have h2 := b.isLt
  have h3 := m.isLt
  have h4 := c.isLt
  show 0x71 + d.toNat * 256 + a.toNat * 2048 + b.toNat * 131072 + m.toNat * 8388608 + c.toNat * 67108864 < 4294967296 ∧ (0x71 + d.toNat * 256 + a.toNat * 2048 + b.toNat * 131072 + m.toNat * 8388608 + c.toNat * 67108864 ≠ 0 → (0x71 + d.toNat * 256 + a.toNat * 2048 + b.toNat * 131072 + m.toNat * 8388608 + c.toNat * 67108864) % 2 = 1)
  omega
theorem LengthBit.vfrcpF32 (d : BitVec 6) (a : BitVec 6) (m : BitVec 3) : LengthBit.Statement (.vfrcpF32 d a m) := by
  have h0 := d.isLt
  have h1 := a.isLt
  have h2 := m.isLt
  show 0x73 + d.toNat * 256 + a.toNat * 16384 + m.toNat * 67108864 < 4294967296 ∧ (0x73 + d.toNat * 256 + a.toNat * 16384 + m.toNat * 67108864 ≠ 0 → (0x73 + d.toNat * 256 + a.toNat * 16384 + m.toNat * 67108864) % 2 = 1)
  omega
theorem LengthBit.vfrsqF32 (d : BitVec 6) (a : BitVec 6) (m : BitVec 3) : LengthBit.Statement (.vfrsqF32 d a m) := by
  have h0 := d.isLt
  have h1 := a.isLt
  have h2 := m.isLt
  show 0x20000073 + d.toNat * 256 + a.toNat * 16384 + m.toNat * 67108864 < 4294967296 ∧ (0x20000073 + d.toNat * 256 + a.toNat * 16384 + m.toNat * 67108864 ≠ 0 → (0x20000073 + d.toNat * 256 + a.toNat * 16384 + m.toNat * 67108864) % 2 = 1)
  omega
theorem LengthBit.vfrcpF16X2 (d : BitVec 6) (a : BitVec 6) (m : BitVec 3) : LengthBit.Statement (.vfrcpF16X2 d a m) := by
  have h0 := d.isLt
  have h1 := a.isLt
  have h2 := m.isLt
  show 0x40000073 + d.toNat * 256 + a.toNat * 16384 + m.toNat * 67108864 < 4294967296 ∧ (0x40000073 + d.toNat * 256 + a.toNat * 16384 + m.toNat * 67108864 ≠ 0 → (0x40000073 + d.toNat * 256 + a.toNat * 16384 + m.toNat * 67108864) % 2 = 1)
  omega
theorem LengthBit.vfrsqF16X2 (d : BitVec 6) (a : BitVec 6) (m : BitVec 3) : LengthBit.Statement (.vfrsqF16X2 d a m) := by
  have h0 := d.isLt
  have h1 := a.isLt
  have h2 := m.isLt
  show 0x60000073 + d.toNat * 256 + a.toNat * 16384 + m.toNat * 67108864 < 4294967296 ∧ (0x60000073 + d.toNat * 256 + a.toNat * 16384 + m.toNat * 67108864 ≠ 0 → (0x60000073 + d.toNat * 256 + a.toNat * 16384 + m.toNat * 67108864) % 2 = 1)
  omega
theorem LengthBit.vfdivF32 (d : BitVec 6) (a : BitVec 6) (b : BitVec 6) (m : BitVec 3) : LengthBit.Statement (.vfdivF32 d a b m) := by
  have h0 := d.isLt
  have h1 := a.isLt
  have h2 := b.isLt
  have h3 := m.isLt
  show 0x75 + d.toNat * 256 + a.toNat * 16384 + b.toNat * 1048576 + m.toNat * 67108864 < 4294967296 ∧ (0x75 + d.toNat * 256 + a.toNat * 16384 + b.toNat * 1048576 + m.toNat * 67108864 ≠ 0 → (0x75 + d.toNat * 256 + a.toNat * 16384 + b.toNat * 1048576 + m.toNat * 67108864) % 2 = 1)
  omega
theorem LengthBit.vfsqrtF32 (d : BitVec 6) (a : BitVec 6) (m : BitVec 3) : LengthBit.Statement (.vfsqrtF32 d a m) := by
  have h0 := d.isLt
  have h1 := a.isLt
  have h2 := m.isLt
  show 0x77 + d.toNat * 256 + a.toNat * 16384 + m.toNat * 67108864 < 4294967296 ∧ (0x77 + d.toNat * 256 + a.toNat * 16384 + m.toNat * 67108864 ≠ 0 → (0x77 + d.toNat * 256 + a.toNat * 16384 + m.toNat * 67108864) % 2 = 1)
  omega
theorem LengthBit.vcvt (d : BitVec 6) (a : BitVec 6) (p : BitVec 6) (m : BitVec 3) (r : BitVec 3) : LengthBit.Statement (.vcvt d a p m r) := by
  have h0 := d.isLt
  have h1 := a.isLt
  have h2 := p.isLt
  have h3 := m.isLt
  have h4 := r.isLt
  show 0x79 + d.toNat * 256 + a.toNat * 16384 + p.toNat * 1048576 + m.toNat * 67108864 + r.toNat * 536870912 < 4294967296 ∧ (0x79 + d.toNat * 256 + a.toNat * 16384 + p.toNat * 1048576 + m.toNat * 67108864 + r.toNat * 536870912 ≠ 0 → (0x79 + d.toNat * 256 + a.toNat * 16384 + p.toNat * 1048576 + m.toNat * 67108864 + r.toNat * 536870912) % 2 = 1)
  omega
theorem LengthBit.vpackF16X2 (d : BitVec 6) (a : BitVec 6) (b : BitVec 6) (m : BitVec 3) : LengthBit.Statement (.vpackF16X2 d a b m) := by
  have h0 := d.isLt
  have h1 := a.isLt
  have h2 := b.isLt
  have h3 := m.isLt
  show 0x7b + d.toNat * 256 + a.toNat * 16384 + b.toNat * 1048576 + m.toNat * 67108864 < 4294967296 ∧ (0x7b + d.toNat * 256 + a.toNat * 16384 + b.toNat * 1048576 + m.toNat * 67108864 ≠ 0 → (0x7b + d.toNat * 256 + a.toNat * 16384 + b.toNat * 1048576 + m.toNat * 67108864) % 2 = 1)
  omega
theorem LengthBit.vpackBf16x2 (d : BitVec 6) (a : BitVec 6) (b : BitVec 6) (m : BitVec 3) : LengthBit.Statement (.vpackBf16x2 d a b m) := by
  have h0 := d.isLt
  have h1 := a.isLt
  have h2 := b.isLt
  have h3 := m.isLt
  show 0x2000007b + d.toNat * 256 + a.toNat * 16384 + b.toNat * 1048576 + m.toNat * 67108864 < 4294967296 ∧ (0x2000007b + d.toNat * 256 + a.toNat * 16384 + b.toNat * 1048576 + m.toNat * 67108864 ≠ 0 → (0x2000007b + d.toNat * 256 + a.toNat * 16384 + b.toNat * 1048576 + m.toNat * 67108864) % 2 = 1)
  omega
theorem LengthBit.vpackE2M1X (d : BitVec 6) (a : BitVec 6) (m : BitVec 3) : LengthBit.Statement (.vpackE2M1X d a m) := by
  have h0 := d.isLt
  have h1 := a.isLt
  have h2 := m.isLt
  show 0x4000007b + d.toNat * 256 + a.toNat * 16384 + m.toNat * 67108864 < 4294967296 ∧ (0x4000007b + d.toNat * 256 + a.toNat * 16384 + m.toNat * 67108864 ≠ 0 → (0x4000007b + d.toNat * 256 + a.toNat * 16384 + m.toNat * 67108864) % 2 = 1)
  omega
theorem LengthBit.vunpklF16 (d : BitVec 6) (a : BitVec 6) (m : BitVec 3) : LengthBit.Statement (.vunpklF16 d a m) := by
  have h0 := d.isLt
  have h1 := a.isLt
  have h2 := m.isLt
  show 0x6000007b + d.toNat * 256 + a.toNat * 16384 + m.toNat * 67108864 < 4294967296 ∧ (0x6000007b + d.toNat * 256 + a.toNat * 16384 + m.toNat * 67108864 ≠ 0 → (0x6000007b + d.toNat * 256 + a.toNat * 16384 + m.toNat * 67108864) % 2 = 1)
  omega
theorem LengthBit.vunpkhF16 (d : BitVec 6) (a : BitVec 6) (m : BitVec 3) : LengthBit.Statement (.vunpkhF16 d a m) := by
  have h0 := d.isLt
  have h1 := a.isLt
  have h2 := m.isLt
  show 0x8000007b + d.toNat * 256 + a.toNat * 16384 + m.toNat * 67108864 < 4294967296 ∧ (0x8000007b + d.toNat * 256 + a.toNat * 16384 + m.toNat * 67108864 ≠ 0 → (0x8000007b + d.toNat * 256 + a.toNat * 16384 + m.toNat * 67108864) % 2 = 1)
  omega
theorem LengthBit.vunpklBf16 (d : BitVec 6) (a : BitVec 6) (m : BitVec 3) : LengthBit.Statement (.vunpklBf16 d a m) := by
  have h0 := d.isLt
  have h1 := a.isLt
  have h2 := m.isLt
  show 0xa000007b + d.toNat * 256 + a.toNat * 16384 + m.toNat * 67108864 < 4294967296 ∧ (0xa000007b + d.toNat * 256 + a.toNat * 16384 + m.toNat * 67108864 ≠ 0 → (0xa000007b + d.toNat * 256 + a.toNat * 16384 + m.toNat * 67108864) % 2 = 1)
  omega
theorem LengthBit.vunpkhBf16 (d : BitVec 6) (a : BitVec 6) (m : BitVec 3) : LengthBit.Statement (.vunpkhBf16 d a m) := by
  have h0 := d.isLt
  have h1 := a.isLt
  have h2 := m.isLt
  show 0xc000007b + d.toNat * 256 + a.toNat * 16384 + m.toNat * 67108864 < 4294967296 ∧ (0xc000007b + d.toNat * 256 + a.toNat * 16384 + m.toNat * 67108864 ≠ 0 → (0xc000007b + d.toNat * 256 + a.toNat * 16384 + m.toNat * 67108864) % 2 = 1)
  omega
theorem LengthBit.setfmt (a : BitVec 5) : LengthBit.Statement (.setfmt a) := by
  have h0 := a.isLt
  show 0x7d + a.toNat * 8192 < 4294967296 ∧ (0x7d + a.toNat * 8192 ≠ 0 → (0x7d + a.toNat * 8192) % 2 = 1)
  omega
theorem LengthBit.getfmt (d : BitVec 5) : LengthBit.Statement (.getfmt d) := by
  have h0 := d.isLt
  show 0x80007d + d.toNat * 256 < 4294967296 ∧ (0x80007d + d.toNat * 256 ≠ 0 → (0x80007d + d.toNat * 256) % 2 = 1)
  omega
theorem LengthBit.vfclassF32 (d : BitVec 6) (a : BitVec 6) (m : BitVec 3) : LengthBit.Statement (.vfclassF32 d a m) := by
  have h0 := d.isLt
  have h1 := a.isLt
  have h2 := m.isLt
  show 0x7f + d.toNat * 256 + a.toNat * 16384 + m.toNat * 67108864 < 4294967296 ∧ (0x7f + d.toNat * 256 + a.toNat * 16384 + m.toNat * 67108864 ≠ 0 → (0x7f + d.toNat * 256 + a.toNat * 16384 + m.toNat * 67108864) % 2 = 1)
  omega
theorem LengthBit.vfclassF16X2 (d : BitVec 6) (a : BitVec 6) (m : BitVec 3) : LengthBit.Statement (.vfclassF16X2 d a m) := by
  have h0 := d.isLt
  have h1 := a.isLt
  have h2 := m.isLt
  show 0x2000007f + d.toNat * 256 + a.toNat * 16384 + m.toNat * 67108864 < 4294967296 ∧ (0x2000007f + d.toNat * 256 + a.toNat * 16384 + m.toNat * 67108864 ≠ 0 → (0x2000007f + d.toNat * 256 + a.toNat * 16384 + m.toNat * 67108864) % 2 = 1)
  omega
theorem LengthBit.vshfl (d : BitVec 6) (a : BitVec 6) (b : BitVec 6) (m : BitVec 3) : LengthBit.Statement (.vshfl d a b m) := by
  have h0 := d.isLt
  have h1 := a.isLt
  have h2 := b.isLt
  have h3 := m.isLt
  show 0x81 + d.toNat * 256 + a.toNat * 16384 + b.toNat * 1048576 + m.toNat * 67108864 < 4294967296 ∧ (0x81 + d.toNat * 256 + a.toNat * 16384 + b.toNat * 1048576 + m.toNat * 67108864 ≠ 0 → (0x81 + d.toNat * 256 + a.toNat * 16384 + b.toNat * 1048576 + m.toNat * 67108864) % 2 = 1)
  omega
theorem LengthBit.vshfliXor (d : BitVec 6) (a : BitVec 6) (m : BitVec 3) (n : BitVec 5) : LengthBit.Statement (.vshfliXor d a m n) := by
  have h0 := d.isLt
  have h1 := a.isLt
  have h2 := m.isLt
  have h3 := n.isLt
  show 0x83 + d.toNat * 256 + a.toNat * 16384 + m.toNat * 1048576 + n.toNat * 8388608 < 4294967296 ∧ (0x83 + d.toNat * 256 + a.toNat * 16384 + m.toNat * 1048576 + n.toNat * 8388608 ≠ 0 → (0x83 + d.toNat * 256 + a.toNat * 16384 + m.toNat * 1048576 + n.toNat * 8388608) % 2 = 1)
  omega
theorem LengthBit.vshfliUp (d : BitVec 6) (a : BitVec 6) (m : BitVec 3) (n : BitVec 5) : LengthBit.Statement (.vshfliUp d a m n) := by
  have h0 := d.isLt
  have h1 := a.isLt
  have h2 := m.isLt
  have h3 := n.isLt
  show 0x10000083 + d.toNat * 256 + a.toNat * 16384 + m.toNat * 1048576 + n.toNat * 8388608 < 4294967296 ∧ (0x10000083 + d.toNat * 256 + a.toNat * 16384 + m.toNat * 1048576 + n.toNat * 8388608 ≠ 0 → (0x10000083 + d.toNat * 256 + a.toNat * 16384 + m.toNat * 1048576 + n.toNat * 8388608) % 2 = 1)
  omega
theorem LengthBit.vshfliDown (d : BitVec 6) (a : BitVec 6) (m : BitVec 3) (n : BitVec 5) : LengthBit.Statement (.vshfliDown d a m n) := by
  have h0 := d.isLt
  have h1 := a.isLt
  have h2 := m.isLt
  have h3 := n.isLt
  show 0x20000083 + d.toNat * 256 + a.toNat * 16384 + m.toNat * 1048576 + n.toNat * 8388608 < 4294967296 ∧ (0x20000083 + d.toNat * 256 + a.toNat * 16384 + m.toNat * 1048576 + n.toNat * 8388608 ≠ 0 → (0x20000083 + d.toNat * 256 + a.toNat * 16384 + m.toNat * 1048576 + n.toNat * 8388608) % 2 = 1)
  omega
theorem LengthBit.vbc (d : BitVec 6) (a : BitVec 6) (s : BitVec 5) (m : BitVec 3) : LengthBit.Statement (.vbc d a s m) := by
  have h0 := d.isLt
  have h1 := a.isLt
  have h2 := s.isLt
  have h3 := m.isLt
  show 0x85 + d.toNat * 256 + a.toNat * 16384 + s.toNat * 1048576 + m.toNat * 33554432 < 4294967296 ∧ (0x85 + d.toNat * 256 + a.toNat * 16384 + s.toNat * 1048576 + m.toNat * 33554432 ≠ 0 → (0x85 + d.toNat * 256 + a.toNat * 16384 + s.toNat * 1048576 + m.toNat * 33554432) % 2 = 1)
  omega
theorem LengthBit.vballot (d : BitVec 3) (a : BitVec 6) (m : BitVec 3) : LengthBit.Statement (.vballot d a m) := by
  have h0 := d.isLt
  have h1 := a.isLt
  have h2 := m.isLt
  show 0x87 + d.toNat * 256 + a.toNat * 2048 + m.toNat * 8388608 < 4294967296 ∧ (0x87 + d.toNat * 256 + a.toNat * 2048 + m.toNat * 8388608 ≠ 0 → (0x87 + d.toNat * 256 + a.toNat * 2048 + m.toNat * 8388608) % 2 = 1)
  omega
theorem LengthBit.voteAll (d : BitVec 3) (a : BitVec 6) (m : BitVec 3) : LengthBit.Statement (.voteAll d a m) := by
  have h0 := d.isLt
  have h1 := a.isLt
  have h2 := m.isLt
  show 0x89 + d.toNat * 256 + a.toNat * 2048 + m.toNat * 8388608 < 4294967296 ∧ (0x89 + d.toNat * 256 + a.toNat * 2048 + m.toNat * 8388608 ≠ 0 → (0x89 + d.toNat * 256 + a.toNat * 2048 + m.toNat * 8388608) % 2 = 1)
  omega
theorem LengthBit.voteAny (d : BitVec 3) (a : BitVec 6) (m : BitVec 3) : LengthBit.Statement (.voteAny d a m) := by
  have h0 := d.isLt
  have h1 := a.isLt
  have h2 := m.isLt
  show 0x20000089 + d.toNat * 256 + a.toNat * 2048 + m.toNat * 8388608 < 4294967296 ∧ (0x20000089 + d.toNat * 256 + a.toNat * 2048 + m.toNat * 8388608 ≠ 0 → (0x20000089 + d.toNat * 256 + a.toNat * 2048 + m.toNat * 8388608) % 2 = 1)
  omega
theorem LengthBit.voteNone (d : BitVec 3) (a : BitVec 6) (m : BitVec 3) : LengthBit.Statement (.voteNone d a m) := by
  have h0 := d.isLt
  have h1 := a.isLt
  have h2 := m.isLt
  show 0x40000089 + d.toNat * 256 + a.toNat * 2048 + m.toNat * 8388608 < 4294967296 ∧ (0x40000089 + d.toNat * 256 + a.toNat * 2048 + m.toNat * 8388608 ≠ 0 → (0x40000089 + d.toNat * 256 + a.toNat * 2048 + m.toNat * 8388608) % 2 = 1)
  omega
theorem LengthBit.voteUni (d : BitVec 3) (a : BitVec 6) (m : BitVec 3) : LengthBit.Statement (.voteUni d a m) := by
  have h0 := d.isLt
  have h1 := a.isLt
  have h2 := m.isLt
  show 0x60000089 + d.toNat * 256 + a.toNat * 2048 + m.toNat * 8388608 < 4294967296 ∧ (0x60000089 + d.toNat * 256 + a.toNat * 2048 + m.toNat * 8388608 ≠ 0 → (0x60000089 + d.toNat * 256 + a.toNat * 2048 + m.toNat * 8388608) % 2 = 1)
  omega
theorem LengthBit.vfirst (d : BitVec 6) (a : BitVec 6) (m : BitVec 3) : LengthBit.Statement (.vfirst d a m) := by
  have h0 := d.isLt
  have h1 := a.isLt
  have h2 := m.isLt
  show 0x8b + d.toNat * 256 + a.toNat * 16384 + m.toNat * 67108864 < 4294967296 ∧ (0x8b + d.toNat * 256 + a.toNat * 16384 + m.toNat * 67108864 ≠ 0 → (0x8b + d.toNat * 256 + a.toNat * 16384 + m.toNat * 67108864) % 2 = 1)
  omega
theorem LengthBit.mand (d : BitVec 3) (a : BitVec 3) (b : BitVec 3) : LengthBit.Statement (.mand d a b) := by
  have h0 := d.isLt
  have h1 := a.isLt
  have h2 := b.isLt
  show 0x8d + d.toNat * 256 + a.toNat * 2048 + b.toNat * 131072 < 4294967296 ∧ (0x8d + d.toNat * 256 + a.toNat * 2048 + b.toNat * 131072 ≠ 0 → (0x8d + d.toNat * 256 + a.toNat * 2048 + b.toNat * 131072) % 2 = 1)
  omega
theorem LengthBit.mor (d : BitVec 3) (a : BitVec 3) (b : BitVec 3) : LengthBit.Statement (.mor d a b) := by
  have h0 := d.isLt
  have h1 := a.isLt
  have h2 := b.isLt
  show 0x400008d + d.toNat * 256 + a.toNat * 2048 + b.toNat * 131072 < 4294967296 ∧ (0x400008d + d.toNat * 256 + a.toNat * 2048 + b.toNat * 131072 ≠ 0 → (0x400008d + d.toNat * 256 + a.toNat * 2048 + b.toNat * 131072) % 2 = 1)
  omega
theorem LengthBit.mxor (d : BitVec 3) (a : BitVec 3) (b : BitVec 3) : LengthBit.Statement (.mxor d a b) := by
  have h0 := d.isLt
  have h1 := a.isLt
  have h2 := b.isLt
  show 0x800008d + d.toNat * 256 + a.toNat * 2048 + b.toNat * 131072 < 4294967296 ∧ (0x800008d + d.toNat * 256 + a.toNat * 2048 + b.toNat * 131072 ≠ 0 → (0x800008d + d.toNat * 256 + a.toNat * 2048 + b.toNat * 131072) % 2 = 1)
  omega
theorem LengthBit.mnot (d : BitVec 3) (a : BitVec 3) : LengthBit.Statement (.mnot d a) := by
  have h0 := d.isLt
  have h1 := a.isLt
  show 0xc00008d + d.toNat * 256 + a.toNat * 2048 < 4294967296 ∧ (0xc00008d + d.toNat * 256 + a.toNat * 2048 ≠ 0 → (0xc00008d + d.toNat * 256 + a.toNat * 2048) % 2 = 1)
  omega
theorem LengthBit.mandn (d : BitVec 3) (a : BitVec 3) (b : BitVec 3) : LengthBit.Statement (.mandn d a b) := by
  have h0 := d.isLt
  have h1 := a.isLt
  have h2 := b.isLt
  show 0x1000008d + d.toNat * 256 + a.toNat * 2048 + b.toNat * 131072 < 4294967296 ∧ (0x1000008d + d.toNat * 256 + a.toNat * 2048 + b.toNat * 131072 ≠ 0 → (0x1000008d + d.toNat * 256 + a.toNat * 2048 + b.toNat * 131072) % 2 = 1)
  omega
theorem LengthBit.mmovs (d : BitVec 5) (a : BitVec 3) : LengthBit.Statement (.mmovs d a) := by
  have h0 := d.isLt
  have h1 := a.isLt
  show 0x8f + d.toNat * 256 + a.toNat * 8192 < 4294967296 ∧ (0x8f + d.toNat * 256 + a.toNat * 8192 ≠ 0 → (0x8f + d.toNat * 256 + a.toNat * 8192) % 2 = 1)
  omega
theorem LengthBit.mmovm (d : BitVec 3) (s : BitVec 5) : LengthBit.Statement (.mmovm d s) := by
  have h0 := d.isLt
  have h1 := s.isLt
  show 0x80008f + d.toNat * 256 + s.toNat * 8192 < 4294967296 ∧ (0x80008f + d.toNat * 256 + s.toNat * 8192 ≠ 0 → (0x80008f + d.toNat * 256 + s.toNat * 8192) % 2 = 1)
  omega
theorem LengthBit.mpopc (d : BitVec 5) (a : BitVec 3) : LengthBit.Statement (.mpopc d a) := by
  have h0 := d.isLt
  have h1 := a.isLt
  show 0x100008f + d.toNat * 256 + a.toNat * 8192 < 4294967296 ∧ (0x100008f + d.toNat * 256 + a.toNat * 8192 ≠ 0 → (0x100008f + d.toNat * 256 + a.toNat * 8192) % 2 = 1)
  omega
theorem LengthBit.vldc (t : BitVec 6) (n : BitVec 4) (k : BitVec 3) (m : BitVec 3) (o : BitVec 4) (i : BitVec 4) : LengthBit.Statement (.vldc t n k m o i) := by
  have h0 := t.isLt
  have h1 := n.isLt
  have h2 := k.isLt
  have h3 := m.isLt
  have h4 := o.isLt
  have h5 := i.isLt
  show 0x91 + t.toNat * 256 + n.toNat * 16384 + k.toNat * 262144 + m.toNat * 2097152 + o.toNat * 16777216 + i.toNat * 268435456 < 4294967296 ∧ (0x91 + t.toNat * 256 + n.toNat * 16384 + k.toNat * 262144 + m.toNat * 2097152 + o.toNat * 16777216 + i.toNat * 268435456 ≠ 0 → (0x91 + t.toNat * 256 + n.toNat * 16384 + k.toNat * 262144 + m.toNat * 2097152 + o.toNat * 16777216 + i.toNat * 268435456) % 2 = 1)
  omega
theorem LengthBit.vstc (t : BitVec 6) (n : BitVec 4) (k : BitVec 3) (m : BitVec 3) (o : BitVec 4) (i : BitVec 4) : LengthBit.Statement (.vstc t n k m o i) := by
  have h0 := t.isLt
  have h1 := n.isLt
  have h2 := k.isLt
  have h3 := m.isLt
  have h4 := o.isLt
  have h5 := i.isLt
  show 0x93 + t.toNat * 256 + n.toNat * 16384 + k.toNat * 262144 + m.toNat * 2097152 + o.toNat * 16777216 + i.toNat * 268435456 < 4294967296 ∧ (0x93 + t.toNat * 256 + n.toNat * 16384 + k.toNat * 262144 + m.toNat * 2097152 + o.toNat * 16777216 + i.toNat * 268435456 ≠ 0 → (0x93 + t.toNat * 256 + n.toNat * 16384 + k.toNat * 262144 + m.toNat * 2097152 + o.toNat * 16777216 + i.toNat * 268435456) % 2 = 1)
  omega
theorem LengthBit.vldg (t : BitVec 6) (n : BitVec 4) (b : BitVec 6) (m : BitVec 3) (o : BitVec 4) : LengthBit.Statement (.vldg t n b m o) := by
  have h0 := t.isLt
  have h1 := n.isLt
  have h2 := b.isLt
  have h3 := m.isLt
  have h4 := o.isLt
  show 0x95 + t.toNat * 256 + n.toNat * 16384 + b.toNat * 262144 + m.toNat * 16777216 + o.toNat * 134217728 < 4294967296 ∧ (0x95 + t.toNat * 256 + n.toNat * 16384 + b.toNat * 262144 + m.toNat * 16777216 + o.toNat * 134217728 ≠ 0 → (0x95 + t.toNat * 256 + n.toNat * 16384 + b.toNat * 262144 + m.toNat * 16777216 + o.toNat * 134217728) % 2 = 1)
  omega
theorem LengthBit.vstg (t : BitVec 6) (n : BitVec 4) (b : BitVec 6) (m : BitVec 3) (o : BitVec 4) : LengthBit.Statement (.vstg t n b m o) := by
  have h0 := t.isLt
  have h1 := n.isLt
  have h2 := b.isLt
  have h3 := m.isLt
  have h4 := o.isLt
  show 0x97 + t.toNat * 256 + n.toNat * 16384 + b.toNat * 262144 + m.toNat * 16777216 + o.toNat * 134217728 < 4294967296 ∧ (0x97 + t.toNat * 256 + n.toNat * 16384 + b.toNat * 262144 + m.toNat * 16777216 + o.toNat * 134217728 ≠ 0 → (0x97 + t.toNat * 256 + n.toNat * 16384 + b.toNat * 262144 + m.toNat * 16777216 + o.toNat * 134217728) % 2 = 1)
  omega
theorem LengthBit.vldb (t : BitVec 6) (n : BitVec 4) (k : BitVec 3) (m : BitVec 3) (o : BitVec 4) (i : BitVec 4) : LengthBit.Statement (.vldb t n k m o i) := by
  have h0 := t.isLt
  have h1 := n.isLt
  have h2 := k.isLt
  have h3 := m.isLt
  have h4 := o.isLt
  have h5 := i.isLt
  show 0x99 + t.toNat * 256 + n.toNat * 16384 + k.toNat * 262144 + m.toNat * 2097152 + o.toNat * 16777216 + i.toNat * 268435456 < 4294967296 ∧ (0x99 + t.toNat * 256 + n.toNat * 16384 + k.toNat * 262144 + m.toNat * 2097152 + o.toNat * 16777216 + i.toNat * 268435456 ≠ 0 → (0x99 + t.toNat * 256 + n.toNat * 16384 + k.toNat * 262144 + m.toNat * 2097152 + o.toNat * 16777216 + i.toNat * 268435456) % 2 = 1)
  omega
theorem LengthBit.sld (s : BitVec 5) (n : BitVec 4) (z : BitVec 2) (x : BitVec 1) (d : BitVec 11) : LengthBit.Statement (.sld s n z x d) := by
  have h0 := s.isLt
  have h1 := n.isLt
  have h2 := z.isLt
  have h3 := x.isLt
  have h4 := d.isLt
  show 0x9b + s.toNat * 256 + n.toNat * 8192 + z.toNat * 262144 + x.toNat * 1048576 + d.toNat * 2097152 < 4294967296 ∧ (0x9b + s.toNat * 256 + n.toNat * 8192 + z.toNat * 262144 + x.toNat * 1048576 + d.toNat * 2097152 ≠ 0 → (0x9b + s.toNat * 256 + n.toNat * 8192 + z.toNat * 262144 + x.toNat * 1048576 + d.toNat * 2097152) % 2 = 1)
  omega
theorem LengthBit.sst (s : BitVec 5) (n : BitVec 4) (z : BitVec 2) (d : BitVec 11) : LengthBit.Statement (.sst s n z d) := by
  have h0 := s.isLt
  have h1 := n.isLt
  have h2 := z.isLt
  have h3 := d.isLt
  show 0x9d + s.toNat * 256 + n.toNat * 8192 + z.toNat * 262144 + d.toNat * 2097152 < 4294967296 ∧ (0x9d + s.toNat * 256 + n.toNat * 8192 + z.toNat * 262144 + d.toNat * 2097152 ≠ 0 → (0x9d + s.toNat * 256 + n.toNat * 8192 + z.toNat * 262144 + d.toNat * 2097152) % 2 = 1)
  omega
theorem LengthBit.prfc (n : BitVec 4) (k : BitVec 3) (m : BitVec 3) (i : BitVec 4) : LengthBit.Statement (.prfc n k m i) := by
  have h0 := n.isLt
  have h1 := k.isLt
  have h2 := m.isLt
  have h3 := i.isLt
  show 0x9f + n.toNat * 16384 + k.toNat * 262144 + m.toNat * 2097152 + i.toNat * 268435456 < 4294967296 ∧ (0x9f + n.toNat * 16384 + k.toNat * 262144 + m.toNat * 2097152 + i.toNat * 268435456 ≠ 0 → (0x9f + n.toNat * 16384 + k.toNat * 262144 + m.toNat * 2097152 + i.toNat * 268435456) % 2 = 1)
  omega
theorem LengthBit.sprec (n : BitVec 4) (k : BitVec 3) : LengthBit.Statement (.sprec n k) := by
  have h0 := n.isLt
  have h1 := k.isLt
  show 0xa1 + n.toNat * 16384 + k.toNat * 262144 < 4294967296 ∧ (0xa1 + n.toNat * 16384 + k.toNat * 262144 ≠ 0 → (0xa1 + n.toNat * 16384 + k.toNat * 262144) % 2 = 1)
  omega
theorem LengthBit.spld (t : BitVec 6) (k : BitVec 3) (m : BitVec 3) : LengthBit.Statement (.spld t k m) := by
  have h0 := t.isLt
  have h1 := k.isLt
  have h2 := m.isLt
  show 0xa3 + t.toNat * 256 + k.toNat * 262144 + m.toNat * 2097152 < 4294967296 ∧ (0xa3 + t.toNat * 256 + k.toNat * 262144 + m.toNat * 2097152 ≠ 0 → (0xa3 + t.toNat * 256 + k.toNat * 262144 + m.toNat * 2097152) % 2 = 1)
  omega
theorem LengthBit.spst (t : BitVec 6) (k : BitVec 3) (m : BitVec 3) : LengthBit.Statement (.spst t k m) := by
  have h0 := t.isLt
  have h1 := k.isLt
  have h2 := m.isLt
  show 0xa5 + t.toNat * 256 + k.toNat * 262144 + m.toNat * 2097152 < 4294967296 ∧ (0xa5 + t.toNat * 256 + k.toNat * 262144 + m.toNat * 2097152 ≠ 0 → (0xa5 + t.toNat * 256 + k.toNat * 262144 + m.toNat * 2097152) % 2 = 1)
  omega
theorem LengthBit.atomvAddI32 (o : BitVec 2) (t : BitVec 6) (a : BitVec 6) (n : BitVec 4) (s : BitVec 3) (r : BitVec 1) : LengthBit.Statement (.atomvAddI32 o t a n s r) := by
  have h0 := o.isLt
  have h1 := t.isLt
  have h2 := a.isLt
  have h3 := n.isLt
  have h4 := s.isLt
  have h5 := r.isLt
  show 0xa9 + o.toNat * 2 + t.toNat * 256 + a.toNat * 16384 + n.toNat * 1048576 + s.toNat * 16777216 + r.toNat * 2147483648 < 4294967296 ∧ (0xa9 + o.toNat * 2 + t.toNat * 256 + a.toNat * 16384 + n.toNat * 1048576 + s.toNat * 16777216 + r.toNat * 2147483648 ≠ 0 → (0xa9 + o.toNat * 2 + t.toNat * 256 + a.toNat * 16384 + n.toNat * 1048576 + s.toNat * 16777216 + r.toNat * 2147483648) % 2 = 1)
  omega
theorem LengthBit.atomvAddF32 (o : BitVec 2) (t : BitVec 6) (a : BitVec 6) (n : BitVec 4) (s : BitVec 3) (r : BitVec 1) : LengthBit.Statement (.atomvAddF32 o t a n s r) := by
  have h0 := o.isLt
  have h1 := t.isLt
  have h2 := a.isLt
  have h3 := n.isLt
  have h4 := s.isLt
  have h5 := r.isLt
  show 0x80000a9 + o.toNat * 2 + t.toNat * 256 + a.toNat * 16384 + n.toNat * 1048576 + s.toNat * 16777216 + r.toNat * 2147483648 < 4294967296 ∧ (0x80000a9 + o.toNat * 2 + t.toNat * 256 + a.toNat * 16384 + n.toNat * 1048576 + s.toNat * 16777216 + r.toNat * 2147483648 ≠ 0 → (0x80000a9 + o.toNat * 2 + t.toNat * 256 + a.toNat * 16384 + n.toNat * 1048576 + s.toNat * 16777216 + r.toNat * 2147483648) % 2 = 1)
  omega
theorem LengthBit.atomvMinS32 (o : BitVec 2) (t : BitVec 6) (a : BitVec 6) (n : BitVec 4) (s : BitVec 3) (r : BitVec 1) : LengthBit.Statement (.atomvMinS32 o t a n s r) := by
  have h0 := o.isLt
  have h1 := t.isLt
  have h2 := a.isLt
  have h3 := n.isLt
  have h4 := s.isLt
  have h5 := r.isLt
  show 0x100000a9 + o.toNat * 2 + t.toNat * 256 + a.toNat * 16384 + n.toNat * 1048576 + s.toNat * 16777216 + r.toNat * 2147483648 < 4294967296 ∧ (0x100000a9 + o.toNat * 2 + t.toNat * 256 + a.toNat * 16384 + n.toNat * 1048576 + s.toNat * 16777216 + r.toNat * 2147483648 ≠ 0 → (0x100000a9 + o.toNat * 2 + t.toNat * 256 + a.toNat * 16384 + n.toNat * 1048576 + s.toNat * 16777216 + r.toNat * 2147483648) % 2 = 1)
  omega
theorem LengthBit.atomvMaxS32 (o : BitVec 2) (t : BitVec 6) (a : BitVec 6) (n : BitVec 4) (s : BitVec 3) (r : BitVec 1) : LengthBit.Statement (.atomvMaxS32 o t a n s r) := by
  have h0 := o.isLt
  have h1 := t.isLt
  have h2 := a.isLt
  have h3 := n.isLt
  have h4 := s.isLt
  have h5 := r.isLt
  show 0x180000a9 + o.toNat * 2 + t.toNat * 256 + a.toNat * 16384 + n.toNat * 1048576 + s.toNat * 16777216 + r.toNat * 2147483648 < 4294967296 ∧ (0x180000a9 + o.toNat * 2 + t.toNat * 256 + a.toNat * 16384 + n.toNat * 1048576 + s.toNat * 16777216 + r.toNat * 2147483648 ≠ 0 → (0x180000a9 + o.toNat * 2 + t.toNat * 256 + a.toNat * 16384 + n.toNat * 1048576 + s.toNat * 16777216 + r.toNat * 2147483648) % 2 = 1)
  omega
theorem LengthBit.atomvMinU32 (o : BitVec 2) (t : BitVec 6) (a : BitVec 6) (n : BitVec 4) (s : BitVec 3) (r : BitVec 1) : LengthBit.Statement (.atomvMinU32 o t a n s r) := by
  have h0 := o.isLt
  have h1 := t.isLt
  have h2 := a.isLt
  have h3 := n.isLt
  have h4 := s.isLt
  have h5 := r.isLt
  show 0x200000a9 + o.toNat * 2 + t.toNat * 256 + a.toNat * 16384 + n.toNat * 1048576 + s.toNat * 16777216 + r.toNat * 2147483648 < 4294967296 ∧ (0x200000a9 + o.toNat * 2 + t.toNat * 256 + a.toNat * 16384 + n.toNat * 1048576 + s.toNat * 16777216 + r.toNat * 2147483648 ≠ 0 → (0x200000a9 + o.toNat * 2 + t.toNat * 256 + a.toNat * 16384 + n.toNat * 1048576 + s.toNat * 16777216 + r.toNat * 2147483648) % 2 = 1)
  omega
theorem LengthBit.atomvMaxU32 (o : BitVec 2) (t : BitVec 6) (a : BitVec 6) (n : BitVec 4) (s : BitVec 3) (r : BitVec 1) : LengthBit.Statement (.atomvMaxU32 o t a n s r) := by
  have h0 := o.isLt
  have h1 := t.isLt
  have h2 := a.isLt
  have h3 := n.isLt
  have h4 := s.isLt
  have h5 := r.isLt
  show 0x280000a9 + o.toNat * 2 + t.toNat * 256 + a.toNat * 16384 + n.toNat * 1048576 + s.toNat * 16777216 + r.toNat * 2147483648 < 4294967296 ∧ (0x280000a9 + o.toNat * 2 + t.toNat * 256 + a.toNat * 16384 + n.toNat * 1048576 + s.toNat * 16777216 + r.toNat * 2147483648 ≠ 0 → (0x280000a9 + o.toNat * 2 + t.toNat * 256 + a.toNat * 16384 + n.toNat * 1048576 + s.toNat * 16777216 + r.toNat * 2147483648) % 2 = 1)
  omega
theorem LengthBit.atomvAnd (o : BitVec 2) (t : BitVec 6) (a : BitVec 6) (n : BitVec 4) (s : BitVec 3) (r : BitVec 1) : LengthBit.Statement (.atomvAnd o t a n s r) := by
  have h0 := o.isLt
  have h1 := t.isLt
  have h2 := a.isLt
  have h3 := n.isLt
  have h4 := s.isLt
  have h5 := r.isLt
  show 0x300000a9 + o.toNat * 2 + t.toNat * 256 + a.toNat * 16384 + n.toNat * 1048576 + s.toNat * 16777216 + r.toNat * 2147483648 < 4294967296 ∧ (0x300000a9 + o.toNat * 2 + t.toNat * 256 + a.toNat * 16384 + n.toNat * 1048576 + s.toNat * 16777216 + r.toNat * 2147483648 ≠ 0 → (0x300000a9 + o.toNat * 2 + t.toNat * 256 + a.toNat * 16384 + n.toNat * 1048576 + s.toNat * 16777216 + r.toNat * 2147483648) % 2 = 1)
  omega
theorem LengthBit.atomvOr (o : BitVec 2) (t : BitVec 6) (a : BitVec 6) (n : BitVec 4) (s : BitVec 3) (r : BitVec 1) : LengthBit.Statement (.atomvOr o t a n s r) := by
  have h0 := o.isLt
  have h1 := t.isLt
  have h2 := a.isLt
  have h3 := n.isLt
  have h4 := s.isLt
  have h5 := r.isLt
  show 0x380000a9 + o.toNat * 2 + t.toNat * 256 + a.toNat * 16384 + n.toNat * 1048576 + s.toNat * 16777216 + r.toNat * 2147483648 < 4294967296 ∧ (0x380000a9 + o.toNat * 2 + t.toNat * 256 + a.toNat * 16384 + n.toNat * 1048576 + s.toNat * 16777216 + r.toNat * 2147483648 ≠ 0 → (0x380000a9 + o.toNat * 2 + t.toNat * 256 + a.toNat * 16384 + n.toNat * 1048576 + s.toNat * 16777216 + r.toNat * 2147483648) % 2 = 1)
  omega
theorem LengthBit.atomvXor (o : BitVec 2) (t : BitVec 6) (a : BitVec 6) (n : BitVec 4) (s : BitVec 3) (r : BitVec 1) : LengthBit.Statement (.atomvXor o t a n s r) := by
  have h0 := o.isLt
  have h1 := t.isLt
  have h2 := a.isLt
  have h3 := n.isLt
  have h4 := s.isLt
  have h5 := r.isLt
  show 0x400000a9 + o.toNat * 2 + t.toNat * 256 + a.toNat * 16384 + n.toNat * 1048576 + s.toNat * 16777216 + r.toNat * 2147483648 < 4294967296 ∧ (0x400000a9 + o.toNat * 2 + t.toNat * 256 + a.toNat * 16384 + n.toNat * 1048576 + s.toNat * 16777216 + r.toNat * 2147483648 ≠ 0 → (0x400000a9 + o.toNat * 2 + t.toNat * 256 + a.toNat * 16384 + n.toNat * 1048576 + s.toNat * 16777216 + r.toNat * 2147483648) % 2 = 1)
  omega
theorem LengthBit.atomvXchg (o : BitVec 2) (t : BitVec 6) (a : BitVec 6) (n : BitVec 4) (s : BitVec 3) (r : BitVec 1) : LengthBit.Statement (.atomvXchg o t a n s r) := by
  have h0 := o.isLt
  have h1 := t.isLt
  have h2 := a.isLt
  have h3 := n.isLt
  have h4 := s.isLt
  have h5 := r.isLt
  show 0x480000a9 + o.toNat * 2 + t.toNat * 256 + a.toNat * 16384 + n.toNat * 1048576 + s.toNat * 16777216 + r.toNat * 2147483648 < 4294967296 ∧ (0x480000a9 + o.toNat * 2 + t.toNat * 256 + a.toNat * 16384 + n.toNat * 1048576 + s.toNat * 16777216 + r.toNat * 2147483648 ≠ 0 → (0x480000a9 + o.toNat * 2 + t.toNat * 256 + a.toNat * 16384 + n.toNat * 1048576 + s.toNat * 16777216 + r.toNat * 2147483648) % 2 = 1)
  omega
theorem LengthBit.atomvCas (o : BitVec 2) (t : BitVec 6) (a : BitVec 6) (n : BitVec 4) (s : BitVec 3) (r : BitVec 1) : LengthBit.Statement (.atomvCas o t a n s r) := by
  have h0 := o.isLt
  have h1 := t.isLt
  have h2 := a.isLt
  have h3 := n.isLt
  have h4 := s.isLt
  have h5 := r.isLt
  show 0x500000a9 + o.toNat * 2 + t.toNat * 256 + a.toNat * 16384 + n.toNat * 1048576 + s.toNat * 16777216 + r.toNat * 2147483648 < 4294967296 ∧ (0x500000a9 + o.toNat * 2 + t.toNat * 256 + a.toNat * 16384 + n.toNat * 1048576 + s.toNat * 16777216 + r.toNat * 2147483648 ≠ 0 → (0x500000a9 + o.toNat * 2 + t.toNat * 256 + a.toNat * 16384 + n.toNat * 1048576 + s.toNat * 16777216 + r.toNat * 2147483648) % 2 = 1)
  omega
theorem LengthBit.atomvMaxlF16 (o : BitVec 2) (t : BitVec 6) (a : BitVec 6) (n : BitVec 4) (s : BitVec 3) (r : BitVec 1) : LengthBit.Statement (.atomvMaxlF16 o t a n s r) := by
  have h0 := o.isLt
  have h1 := t.isLt
  have h2 := a.isLt
  have h3 := n.isLt
  have h4 := s.isLt
  have h5 := r.isLt
  show 0x580000a9 + o.toNat * 2 + t.toNat * 256 + a.toNat * 16384 + n.toNat * 1048576 + s.toNat * 16777216 + r.toNat * 2147483648 < 4294967296 ∧ (0x580000a9 + o.toNat * 2 + t.toNat * 256 + a.toNat * 16384 + n.toNat * 1048576 + s.toNat * 16777216 + r.toNat * 2147483648 ≠ 0 → (0x580000a9 + o.toNat * 2 + t.toNat * 256 + a.toNat * 16384 + n.toNat * 1048576 + s.toNat * 16777216 + r.toNat * 2147483648) % 2 = 1)
  omega
theorem LengthBit.atomvMinlF16 (o : BitVec 2) (t : BitVec 6) (a : BitVec 6) (n : BitVec 4) (s : BitVec 3) (r : BitVec 1) : LengthBit.Statement (.atomvMinlF16 o t a n s r) := by
  have h0 := o.isLt
  have h1 := t.isLt
  have h2 := a.isLt
  have h3 := n.isLt
  have h4 := s.isLt
  have h5 := r.isLt
  show 0x600000a9 + o.toNat * 2 + t.toNat * 256 + a.toNat * 16384 + n.toNat * 1048576 + s.toNat * 16777216 + r.toNat * 2147483648 < 4294967296 ∧ (0x600000a9 + o.toNat * 2 + t.toNat * 256 + a.toNat * 16384 + n.toNat * 1048576 + s.toNat * 16777216 + r.toNat * 2147483648 ≠ 0 → (0x600000a9 + o.toNat * 2 + t.toNat * 256 + a.toNat * 16384 + n.toNat * 1048576 + s.toNat * 16777216 + r.toNat * 2147483648) % 2 = 1)
  omega
theorem LengthBit.atomvAddI64 (o : BitVec 2) (t : BitVec 6) (a : BitVec 6) (n : BitVec 4) (s : BitVec 3) (r : BitVec 1) : LengthBit.Statement (.atomvAddI64 o t a n s r) := by
  have h0 := o.isLt
  have h1 := t.isLt
  have h2 := a.isLt
  have h3 := n.isLt
  have h4 := s.isLt
  have h5 := r.isLt
  show 0x680000a9 + o.toNat * 2 + t.toNat * 256 + a.toNat * 16384 + n.toNat * 1048576 + s.toNat * 16777216 + r.toNat * 2147483648 < 4294967296 ∧ (0x680000a9 + o.toNat * 2 + t.toNat * 256 + a.toNat * 16384 + n.toNat * 1048576 + s.toNat * 16777216 + r.toNat * 2147483648 ≠ 0 → (0x680000a9 + o.toNat * 2 + t.toNat * 256 + a.toNat * 16384 + n.toNat * 1048576 + s.toNat * 16777216 + r.toNat * 2147483648) % 2 = 1)
  omega
theorem LengthBit.atomsAddI32 (o : BitVec 2) (d : BitVec 5) (a : BitVec 5) (n : BitVec 4) (s : BitVec 3) (r : BitVec 1) : LengthBit.Statement (.atomsAddI32 o d a n s r) := by
  have h0 := o.isLt
  have h1 := d.isLt
  have h2 := a.isLt
  have h3 := n.isLt
  have h4 := s.isLt
  have h5 := r.isLt
  show 0xb1 + o.toNat * 2 + d.toNat * 256 + a.toNat * 16384 + n.toNat * 1048576 + s.toNat * 16777216 + r.toNat * 2147483648 < 4294967296 ∧ (0xb1 + o.toNat * 2 + d.toNat * 256 + a.toNat * 16384 + n.toNat * 1048576 + s.toNat * 16777216 + r.toNat * 2147483648 ≠ 0 → (0xb1 + o.toNat * 2 + d.toNat * 256 + a.toNat * 16384 + n.toNat * 1048576 + s.toNat * 16777216 + r.toNat * 2147483648) % 2 = 1)
  omega
theorem LengthBit.atomsAddF32 (o : BitVec 2) (d : BitVec 5) (a : BitVec 5) (n : BitVec 4) (s : BitVec 3) (r : BitVec 1) : LengthBit.Statement (.atomsAddF32 o d a n s r) := by
  have h0 := o.isLt
  have h1 := d.isLt
  have h2 := a.isLt
  have h3 := n.isLt
  have h4 := s.isLt
  have h5 := r.isLt
  show 0x80000b1 + o.toNat * 2 + d.toNat * 256 + a.toNat * 16384 + n.toNat * 1048576 + s.toNat * 16777216 + r.toNat * 2147483648 < 4294967296 ∧ (0x80000b1 + o.toNat * 2 + d.toNat * 256 + a.toNat * 16384 + n.toNat * 1048576 + s.toNat * 16777216 + r.toNat * 2147483648 ≠ 0 → (0x80000b1 + o.toNat * 2 + d.toNat * 256 + a.toNat * 16384 + n.toNat * 1048576 + s.toNat * 16777216 + r.toNat * 2147483648) % 2 = 1)
  omega
theorem LengthBit.atomsMinS32 (o : BitVec 2) (d : BitVec 5) (a : BitVec 5) (n : BitVec 4) (s : BitVec 3) (r : BitVec 1) : LengthBit.Statement (.atomsMinS32 o d a n s r) := by
  have h0 := o.isLt
  have h1 := d.isLt
  have h2 := a.isLt
  have h3 := n.isLt
  have h4 := s.isLt
  have h5 := r.isLt
  show 0x100000b1 + o.toNat * 2 + d.toNat * 256 + a.toNat * 16384 + n.toNat * 1048576 + s.toNat * 16777216 + r.toNat * 2147483648 < 4294967296 ∧ (0x100000b1 + o.toNat * 2 + d.toNat * 256 + a.toNat * 16384 + n.toNat * 1048576 + s.toNat * 16777216 + r.toNat * 2147483648 ≠ 0 → (0x100000b1 + o.toNat * 2 + d.toNat * 256 + a.toNat * 16384 + n.toNat * 1048576 + s.toNat * 16777216 + r.toNat * 2147483648) % 2 = 1)
  omega
theorem LengthBit.atomsMaxS32 (o : BitVec 2) (d : BitVec 5) (a : BitVec 5) (n : BitVec 4) (s : BitVec 3) (r : BitVec 1) : LengthBit.Statement (.atomsMaxS32 o d a n s r) := by
  have h0 := o.isLt
  have h1 := d.isLt
  have h2 := a.isLt
  have h3 := n.isLt
  have h4 := s.isLt
  have h5 := r.isLt
  show 0x180000b1 + o.toNat * 2 + d.toNat * 256 + a.toNat * 16384 + n.toNat * 1048576 + s.toNat * 16777216 + r.toNat * 2147483648 < 4294967296 ∧ (0x180000b1 + o.toNat * 2 + d.toNat * 256 + a.toNat * 16384 + n.toNat * 1048576 + s.toNat * 16777216 + r.toNat * 2147483648 ≠ 0 → (0x180000b1 + o.toNat * 2 + d.toNat * 256 + a.toNat * 16384 + n.toNat * 1048576 + s.toNat * 16777216 + r.toNat * 2147483648) % 2 = 1)
  omega
theorem LengthBit.atomsMinU32 (o : BitVec 2) (d : BitVec 5) (a : BitVec 5) (n : BitVec 4) (s : BitVec 3) (r : BitVec 1) : LengthBit.Statement (.atomsMinU32 o d a n s r) := by
  have h0 := o.isLt
  have h1 := d.isLt
  have h2 := a.isLt
  have h3 := n.isLt
  have h4 := s.isLt
  have h5 := r.isLt
  show 0x200000b1 + o.toNat * 2 + d.toNat * 256 + a.toNat * 16384 + n.toNat * 1048576 + s.toNat * 16777216 + r.toNat * 2147483648 < 4294967296 ∧ (0x200000b1 + o.toNat * 2 + d.toNat * 256 + a.toNat * 16384 + n.toNat * 1048576 + s.toNat * 16777216 + r.toNat * 2147483648 ≠ 0 → (0x200000b1 + o.toNat * 2 + d.toNat * 256 + a.toNat * 16384 + n.toNat * 1048576 + s.toNat * 16777216 + r.toNat * 2147483648) % 2 = 1)
  omega
theorem LengthBit.atomsMaxU32 (o : BitVec 2) (d : BitVec 5) (a : BitVec 5) (n : BitVec 4) (s : BitVec 3) (r : BitVec 1) : LengthBit.Statement (.atomsMaxU32 o d a n s r) := by
  have h0 := o.isLt
  have h1 := d.isLt
  have h2 := a.isLt
  have h3 := n.isLt
  have h4 := s.isLt
  have h5 := r.isLt
  show 0x280000b1 + o.toNat * 2 + d.toNat * 256 + a.toNat * 16384 + n.toNat * 1048576 + s.toNat * 16777216 + r.toNat * 2147483648 < 4294967296 ∧ (0x280000b1 + o.toNat * 2 + d.toNat * 256 + a.toNat * 16384 + n.toNat * 1048576 + s.toNat * 16777216 + r.toNat * 2147483648 ≠ 0 → (0x280000b1 + o.toNat * 2 + d.toNat * 256 + a.toNat * 16384 + n.toNat * 1048576 + s.toNat * 16777216 + r.toNat * 2147483648) % 2 = 1)
  omega
theorem LengthBit.atomsAnd (o : BitVec 2) (d : BitVec 5) (a : BitVec 5) (n : BitVec 4) (s : BitVec 3) (r : BitVec 1) : LengthBit.Statement (.atomsAnd o d a n s r) := by
  have h0 := o.isLt
  have h1 := d.isLt
  have h2 := a.isLt
  have h3 := n.isLt
  have h4 := s.isLt
  have h5 := r.isLt
  show 0x300000b1 + o.toNat * 2 + d.toNat * 256 + a.toNat * 16384 + n.toNat * 1048576 + s.toNat * 16777216 + r.toNat * 2147483648 < 4294967296 ∧ (0x300000b1 + o.toNat * 2 + d.toNat * 256 + a.toNat * 16384 + n.toNat * 1048576 + s.toNat * 16777216 + r.toNat * 2147483648 ≠ 0 → (0x300000b1 + o.toNat * 2 + d.toNat * 256 + a.toNat * 16384 + n.toNat * 1048576 + s.toNat * 16777216 + r.toNat * 2147483648) % 2 = 1)
  omega
theorem LengthBit.atomsOr (o : BitVec 2) (d : BitVec 5) (a : BitVec 5) (n : BitVec 4) (s : BitVec 3) (r : BitVec 1) : LengthBit.Statement (.atomsOr o d a n s r) := by
  have h0 := o.isLt
  have h1 := d.isLt
  have h2 := a.isLt
  have h3 := n.isLt
  have h4 := s.isLt
  have h5 := r.isLt
  show 0x380000b1 + o.toNat * 2 + d.toNat * 256 + a.toNat * 16384 + n.toNat * 1048576 + s.toNat * 16777216 + r.toNat * 2147483648 < 4294967296 ∧ (0x380000b1 + o.toNat * 2 + d.toNat * 256 + a.toNat * 16384 + n.toNat * 1048576 + s.toNat * 16777216 + r.toNat * 2147483648 ≠ 0 → (0x380000b1 + o.toNat * 2 + d.toNat * 256 + a.toNat * 16384 + n.toNat * 1048576 + s.toNat * 16777216 + r.toNat * 2147483648) % 2 = 1)
  omega
theorem LengthBit.atomsXor (o : BitVec 2) (d : BitVec 5) (a : BitVec 5) (n : BitVec 4) (s : BitVec 3) (r : BitVec 1) : LengthBit.Statement (.atomsXor o d a n s r) := by
  have h0 := o.isLt
  have h1 := d.isLt
  have h2 := a.isLt
  have h3 := n.isLt
  have h4 := s.isLt
  have h5 := r.isLt
  show 0x400000b1 + o.toNat * 2 + d.toNat * 256 + a.toNat * 16384 + n.toNat * 1048576 + s.toNat * 16777216 + r.toNat * 2147483648 < 4294967296 ∧ (0x400000b1 + o.toNat * 2 + d.toNat * 256 + a.toNat * 16384 + n.toNat * 1048576 + s.toNat * 16777216 + r.toNat * 2147483648 ≠ 0 → (0x400000b1 + o.toNat * 2 + d.toNat * 256 + a.toNat * 16384 + n.toNat * 1048576 + s.toNat * 16777216 + r.toNat * 2147483648) % 2 = 1)
  omega
theorem LengthBit.atomsXchg (o : BitVec 2) (d : BitVec 5) (a : BitVec 5) (n : BitVec 4) (s : BitVec 3) (r : BitVec 1) : LengthBit.Statement (.atomsXchg o d a n s r) := by
  have h0 := o.isLt
  have h1 := d.isLt
  have h2 := a.isLt
  have h3 := n.isLt
  have h4 := s.isLt
  have h5 := r.isLt
  show 0x480000b1 + o.toNat * 2 + d.toNat * 256 + a.toNat * 16384 + n.toNat * 1048576 + s.toNat * 16777216 + r.toNat * 2147483648 < 4294967296 ∧ (0x480000b1 + o.toNat * 2 + d.toNat * 256 + a.toNat * 16384 + n.toNat * 1048576 + s.toNat * 16777216 + r.toNat * 2147483648 ≠ 0 → (0x480000b1 + o.toNat * 2 + d.toNat * 256 + a.toNat * 16384 + n.toNat * 1048576 + s.toNat * 16777216 + r.toNat * 2147483648) % 2 = 1)
  omega
theorem LengthBit.atomsCas (o : BitVec 2) (d : BitVec 5) (a : BitVec 5) (n : BitVec 4) (s : BitVec 3) (r : BitVec 1) : LengthBit.Statement (.atomsCas o d a n s r) := by
  have h0 := o.isLt
  have h1 := d.isLt
  have h2 := a.isLt
  have h3 := n.isLt
  have h4 := s.isLt
  have h5 := r.isLt
  show 0x500000b1 + o.toNat * 2 + d.toNat * 256 + a.toNat * 16384 + n.toNat * 1048576 + s.toNat * 16777216 + r.toNat * 2147483648 < 4294967296 ∧ (0x500000b1 + o.toNat * 2 + d.toNat * 256 + a.toNat * 16384 + n.toNat * 1048576 + s.toNat * 16777216 + r.toNat * 2147483648 ≠ 0 → (0x500000b1 + o.toNat * 2 + d.toNat * 256 + a.toNat * 16384 + n.toNat * 1048576 + s.toNat * 16777216 + r.toNat * 2147483648) % 2 = 1)
  omega
theorem LengthBit.atomsMaxlF16 (o : BitVec 2) (d : BitVec 5) (a : BitVec 5) (n : BitVec 4) (s : BitVec 3) (r : BitVec 1) : LengthBit.Statement (.atomsMaxlF16 o d a n s r) := by
  have h0 := o.isLt
  have h1 := d.isLt
  have h2 := a.isLt
  have h3 := n.isLt
  have h4 := s.isLt
  have h5 := r.isLt
  show 0x580000b1 + o.toNat * 2 + d.toNat * 256 + a.toNat * 16384 + n.toNat * 1048576 + s.toNat * 16777216 + r.toNat * 2147483648 < 4294967296 ∧ (0x580000b1 + o.toNat * 2 + d.toNat * 256 + a.toNat * 16384 + n.toNat * 1048576 + s.toNat * 16777216 + r.toNat * 2147483648 ≠ 0 → (0x580000b1 + o.toNat * 2 + d.toNat * 256 + a.toNat * 16384 + n.toNat * 1048576 + s.toNat * 16777216 + r.toNat * 2147483648) % 2 = 1)
  omega
theorem LengthBit.atomsMinlF16 (o : BitVec 2) (d : BitVec 5) (a : BitVec 5) (n : BitVec 4) (s : BitVec 3) (r : BitVec 1) : LengthBit.Statement (.atomsMinlF16 o d a n s r) := by
  have h0 := o.isLt
  have h1 := d.isLt
  have h2 := a.isLt
  have h3 := n.isLt
  have h4 := s.isLt
  have h5 := r.isLt
  show 0x600000b1 + o.toNat * 2 + d.toNat * 256 + a.toNat * 16384 + n.toNat * 1048576 + s.toNat * 16777216 + r.toNat * 2147483648 < 4294967296 ∧ (0x600000b1 + o.toNat * 2 + d.toNat * 256 + a.toNat * 16384 + n.toNat * 1048576 + s.toNat * 16777216 + r.toNat * 2147483648 ≠ 0 → (0x600000b1 + o.toNat * 2 + d.toNat * 256 + a.toNat * 16384 + n.toNat * 1048576 + s.toNat * 16777216 + r.toNat * 2147483648) % 2 = 1)
  omega
theorem LengthBit.atomsAddI64 (o : BitVec 2) (d : BitVec 5) (a : BitVec 5) (n : BitVec 4) (s : BitVec 3) (r : BitVec 1) : LengthBit.Statement (.atomsAddI64 o d a n s r) := by
  have h0 := o.isLt
  have h1 := d.isLt
  have h2 := a.isLt
  have h3 := n.isLt
  have h4 := s.isLt
  have h5 := r.isLt
  show 0x680000b1 + o.toNat * 2 + d.toNat * 256 + a.toNat * 16384 + n.toNat * 1048576 + s.toNat * 16777216 + r.toNat * 2147483648 < 4294967296 ∧ (0x680000b1 + o.toNat * 2 + d.toNat * 256 + a.toNat * 16384 + n.toNat * 1048576 + s.toNat * 16777216 + r.toNat * 2147483648 ≠ 0 → (0x680000b1 + o.toNat * 2 + d.toNat * 256 + a.toNat * 16384 + n.toNat * 1048576 + s.toNat * 16777216 + r.toNat * 2147483648) % 2 = 1)
  omega
theorem LengthBit.binit (n : BitVec 4) (b : BitVec 5) (w : BitVec 3) : LengthBit.Statement (.binit n b w) := by
  have h0 := n.isLt
  have h1 := b.isLt
  have h2 := w.isLt
  show 0xb9 + n.toNat * 8192 + b.toNat * 262144 + w.toNat * 8388608 < 4294967296 ∧ (0xb9 + n.toNat * 8192 + b.toNat * 262144 + w.toNat * 8388608 ≠ 0 → (0xb9 + n.toNat * 8192 + b.toNat * 262144 + w.toNat * 8388608) % 2 = 1)
  omega
theorem LengthBit.barv (n : BitVec 4) (r : BitVec 1) : LengthBit.Statement (.barv n r) := by
  have h0 := n.isLt
  have h1 := r.isLt
  show 0xbb + n.toNat * 8192 + r.toNat * 8388608 < 4294967296 ∧ (0xbb + n.toNat * 8192 + r.toNat * 8388608 ≠ 0 → (0xbb + n.toNat * 8192 + r.toNat * 8388608) % 2 = 1)
  omega
theorem LengthBit.barx (n : BitVec 4) (b : BitVec 5) (r : BitVec 1) : LengthBit.Statement (.barx n b r) := by
  have h0 := n.isLt
  have h1 := b.isLt
  have h2 := r.isLt
  show 0x10000bb + n.toNat * 8192 + b.toNat * 262144 + r.toNat * 8388608 < 4294967296 ∧ (0x10000bb + n.toNat * 8192 + b.toNat * 262144 + r.toNat * 8388608 ≠ 0 → (0x10000bb + n.toNat * 8192 + b.toNat * 262144 + r.toNat * 8388608) % 2 = 1)
  omega
theorem LengthBit.btry (d : BitVec 5) (n : BitVec 4) (b : BitVec 5) : LengthBit.Statement (.btry d n b) := by
  have h0 := d.isLt
  have h1 := n.isLt
  have h2 := b.isLt
  show 0x20000bb + d.toNat * 256 + n.toNat * 8192 + b.toNat * 262144 < 4294967296 ∧ (0x20000bb + d.toNat * 256 + n.toNat * 8192 + b.toNat * 262144 ≠ 0 → (0x20000bb + d.toNat * 256 + n.toNat * 8192 + b.toNat * 262144) % 2 = 1)
  omega
theorem LengthBit.bwait (n : BitVec 4) (b : BitVec 5) : LengthBit.Statement (.bwait n b) := by
  have h0 := n.isLt
  have h1 := b.isLt
  show 0xbd + n.toNat * 8192 + b.toNat * 262144 < 4294967296 ∧ (0xbd + n.toNat * 8192 + b.toNat * 262144 ≠ 0 → (0xbd + n.toNat * 8192 + b.toNat * 262144) % 2 = 1)
  omega
theorem LengthBit.waitc (n : BitVec 4) (b : BitVec 5) (c : BitVec 3) (w : BitVec 1) : LengthBit.Statement (.waitc n b c w) := by
  have h0 := n.isLt
  have h1 := b.isLt
  have h2 := c.isLt
  have h3 := w.isLt
  show 0xc1 + n.toNat * 8192 + b.toNat * 262144 + c.toNat * 8388608 + w.toNat * 67108864 < 4294967296 ∧ (0xc1 + n.toNat * 8192 + b.toNat * 262144 + c.toNat * 8388608 + w.toNat * 67108864 ≠ 0 → (0xc1 + n.toNat * 8192 + b.toNat * 262144 + c.toNat * 8388608 + w.toNat * 67108864) % 2 = 1)
  omega
theorem LengthBit.fence (s : BitVec 3) : LengthBit.Statement (.fence s) := by
  have h0 := s.isLt
  show 0xc3 + s.toNat * 8388608 < 4294967296 ∧ (0xc3 + s.toNat * 8388608 ≠ 0 → (0xc3 + s.toNat * 8388608) % 2 = 1)
  omega
theorem LengthBit.acq (d : BitVec 5) (a : BitVec 5) : LengthBit.Statement (.acq d a) := by
  have h0 := d.isLt
  have h1 := a.isLt
  show 0xc9 + d.toNat * 256 + a.toNat * 8192 < 4294967296 ∧ (0xc9 + d.toNat * 256 + a.toNat * 8192 ≠ 0 → (0xc9 + d.toNat * 256 + a.toNat * 8192) % 2 = 1)
  omega
theorem LengthBit.acrel (a : BitVec 5) (b : BitVec 5) : LengthBit.Statement (.acrel a b) := by
  have h0 := a.isLt
  have h1 := b.isLt
  show 0xcb + a.toNat * 8192 + b.toNat * 262144 < 4294967296 ∧ (0xcb + a.toNat * 8192 + b.toNat * 262144 ≠ 0 → (0xcb + a.toNat * 8192 + b.toNat * 262144) % 2 = 1)
  omega
theorem LengthBit.aczero (h : BitVec 4) (s : BitVec 5) (m : BitVec 3) : LengthBit.Statement (.aczero h s m) := by
  have h0 := h.isLt
  have h1 := s.isLt
  have h2 := m.isLt
  show 0xcd + h.toNat * 256 + s.toNat * 4096 + m.toNat * 16777216 < 4294967296 ∧ (0xcd + h.toNat * 256 + s.toNat * 4096 + m.toNat * 16777216 ≠ 0 → (0xcd + h.toNat * 256 + s.toNat * 4096 + m.toNat * 16777216) % 2 = 1)
  omega
theorem LengthBit.acrd (h : BitVec 4) (s : BitVec 5) (n : BitVec 4) (k : BitVec 3) (m : BitVec 3) : LengthBit.Statement (.acrd h s n k m) := by
  have h0 := h.isLt
  have h1 := s.isLt
  have h2 := n.isLt
  have h3 := k.isLt
  have h4 := m.isLt
  show 0xcf + h.toNat * 256 + s.toNat * 4096 + n.toNat * 131072 + k.toNat * 2097152 + m.toNat * 16777216 < 4294967296 ∧ (0xcf + h.toNat * 256 + s.toNat * 4096 + n.toNat * 131072 + k.toNat * 2097152 + m.toNat * 16777216 ≠ 0 → (0xcf + h.toNat * 256 + s.toNat * 4096 + n.toNat * 131072 + k.toNat * 2097152 + m.toNat * 16777216) % 2 = 1)
  omega
theorem LengthBit.acwr (h : BitVec 4) (s : BitVec 5) (n : BitVec 4) (k : BitVec 3) (m : BitVec 3) : LengthBit.Statement (.acwr h s n k m) := by
  have h0 := h.isLt
  have h1 := s.isLt
  have h2 := n.isLt
  have h3 := k.isLt
  have h4 := m.isLt
  show 0xd1 + h.toNat * 256 + s.toNat * 4096 + n.toNat * 131072 + k.toNat * 2097152 + m.toNat * 16777216 < 4294967296 ∧ (0xd1 + h.toNat * 256 + s.toNat * 4096 + n.toNat * 131072 + k.toNat * 2097152 + m.toNat * 16777216 ≠ 0 → (0xd1 + h.toNat * 256 + s.toNat * 4096 + n.toNat * 131072 + k.toNat * 2097152 + m.toNat * 16777216) % 2 = 1)
  omega
theorem LengthBit.accvt (h : BitVec 4) (s : BitVec 5) (n : BitVec 4) (k : BitVec 3) (m : BitVec 3) : LengthBit.Statement (.accvt h s n k m) := by
  have h0 := h.isLt
  have h1 := s.isLt
  have h2 := n.isLt
  have h3 := k.isLt
  have h4 := m.isLt
  show 0xd3 + h.toNat * 256 + s.toNat * 4096 + n.toNat * 131072 + k.toNat * 2097152 + m.toNat * 16777216 < 4294967296 ∧ (0xd3 + h.toNat * 256 + s.toNat * 4096 + n.toNat * 131072 + k.toNat * 2097152 + m.toNat * 16777216 ≠ 0 → (0xd3 + h.toNat * 256 + s.toNat * 4096 + n.toNat * 131072 + k.toNat * 2097152 + m.toNat * 16777216) % 2 = 1)
  omega
theorem LengthBit.ldsw (h : BitVec 4) (n : BitVec 4) (k : BitVec 3) (t : BitVec 1) (e : BitVec 1) : LengthBit.Statement (.ldsw h n k t e) := by
  have h0 := h.isLt
  have h1 := n.isLt
  have h2 := k.isLt
  have h3 := t.isLt
  have h4 := e.isLt
  show 0xd5 + h.toNat * 256 + n.toNat * 131072 + k.toNat * 2097152 + t.toNat * 134217728 + e.toNat * 536870912 < 4294967296 ∧ (0xd5 + h.toNat * 256 + n.toNat * 131072 + k.toNat * 2097152 + t.toNat * 134217728 + e.toNat * 536870912 ≠ 0 → (0xd5 + h.toNat * 256 + n.toNat * 131072 + k.toNat * 2097152 + t.toNat * 134217728 + e.toNat * 536870912) % 2 = 1)
  omega
theorem LengthBit.swapw (h : BitVec 4) : LengthBit.Statement (.swapw h) := by
  have h0 := h.isLt
  show 0x800000d5 + h.toNat * 256 < 4294967296 ∧ (0x800000d5 + h.toNat * 256 ≠ 0 → (0x800000d5 + h.toNat * 256) % 2 = 1)
  omega
theorem LengthBit.mma (h : BitVec 4) (s : BitVec 5) (n : BitVec 4) (k : BitVec 3) (m : BitVec 3) (t : BitVec 1) (o : BitVec 1) (e : BitVec 1) : LengthBit.Statement (.mma h s n k m t o e) := by
  have h0 := h.isLt
  have h1 := s.isLt
  have h2 := n.isLt
  have h3 := k.isLt
  have h4 := m.isLt
  have h5 := t.isLt
  have h6 := o.isLt
  have h7 := e.isLt
  show 0xd7 + h.toNat * 256 + s.toNat * 4096 + n.toNat * 131072 + k.toNat * 2097152 + m.toNat * 16777216 + t.toNat * 134217728 + o.toNat * 268435456 + e.toNat * 536870912 < 4294967296 ∧ (0xd7 + h.toNat * 256 + s.toNat * 4096 + n.toNat * 131072 + k.toNat * 2097152 + m.toNat * 16777216 + t.toNat * 134217728 + o.toNat * 268435456 + e.toNat * 536870912 ≠ 0 → (0xd7 + h.toNat * 256 + s.toNat * 4096 + n.toNat * 131072 + k.toNat * 2097152 + m.toNat * 16777216 + t.toNat * 134217728 + o.toNat * 268435456 + e.toNat * 536870912) % 2 = 1)
  omega
theorem LengthBit.fwait (h : BitVec 4) : LengthBit.Statement (.fwait h) := by
  have h0 := h.isLt
  show 0xd9 + h.toNat * 8192 < 4294967296 ∧ (0xd9 + h.toNat * 8192 ≠ 0 → (0xd9 + h.toNat * 8192) % 2 = 1)
  omega
theorem LengthBit.ftest (d : BitVec 5) (h : BitVec 4) : LengthBit.Statement (.ftest d h) := by
  have h0 := d.isLt
  have h1 := h.isLt
  show 0xdb + d.toNat * 256 + h.toNat * 8192 < 4294967296 ∧ (0xdb + d.toNat * 256 + h.toNat * 8192 ≠ 0 → (0xdb + d.toNat * 256 + h.toNat * 8192) % 2 = 1)
  omega
theorem LengthBit.fcancel (h : BitVec 4) : LengthBit.Statement (.fcancel h) := by
  have h0 := h.isLt
  show 0xdd + h.toNat * 8192 < 4294967296 ∧ (0xdd + h.toNat * 8192 ≠ 0 → (0xdd + h.toNat * 8192) % 2 = 1)
  omega
theorem LengthBit.fmov (d : BitVec 4) (a : BitVec 4) : LengthBit.Statement (.fmov d a) := by
  have h0 := d.isLt
  have h1 := a.isLt
  show 0xdf + d.toNat * 256 + a.toNat * 8192 < 4294967296 ∧ (0xdf + d.toNat * 256 + a.toNat * 8192 ≠ 0 → (0xdf + d.toNat * 256 + a.toNat * 8192) % 2 = 1)
  omega
theorem LengthBit.fbind (d : BitVec 4) (a : BitVec 4) : LengthBit.Statement (.fbind d a) := by
  have h0 := d.isLt
  have h1 := a.isLt
  show 0x8000df + d.toNat * 256 + a.toNat * 8192 < 4294967296 ∧ (0x8000df + d.toNat * 256 + a.toNat * 8192 ≠ 0 → (0x8000df + d.toNat * 256 + a.toNat * 8192) % 2 = 1)
  omega
theorem LengthBit.dhset (a : BitVec 5) (b : BitVec 5) : LengthBit.Statement (.dhset a b) := by
  have h0 := a.isLt
  have h1 := b.isLt
  show 0xe1 + a.toNat * 8192 + b.toNat * 262144 < 4294967296 ∧ (0xe1 + a.toNat * 8192 + b.toNat * 262144 ≠ 0 → (0xe1 + a.toNat * 8192 + b.toNat * 262144) % 2 = 1)
  omega
theorem LengthBit.dhwait (a : BitVec 5) : LengthBit.Statement (.dhwait a) := by
  have h0 := a.isLt
  show 0x8000e1 + a.toNat * 8192 < 4294967296 ∧ (0x8000e1 + a.toNat * 8192 ≠ 0 → (0x8000e1 + a.toNat * 8192) % 2 = 1)
  omega
theorem LengthBit.dhget (d : BitVec 5) (a : BitVec 5) : LengthBit.Statement (.dhget d a) := by
  have h0 := d.isLt
  have h1 := a.isLt
  show 0x10000e1 + d.toNat * 256 + a.toNat * 8192 < 4294967296 ∧ (0x10000e1 + d.toNat * 256 + a.toNat * 8192 ≠ 0 → (0x10000e1 + d.toNat * 256 + a.toNat * 8192) % 2 = 1)
  omega
theorem LengthBit.dhrel (a : BitVec 5) : LengthBit.Statement (.dhrel a) := by
  have h0 := a.isLt
  show 0x18000e1 + a.toNat * 8192 < 4294967296 ∧ (0x18000e1 + a.toNat * 8192 ≠ 0 → (0x18000e1 + a.toNat * 8192) % 2 = 1)
  omega
theorem LengthBit.wptr (d : BitVec 5) (h : BitVec 4) (b : BitVec 5) : LengthBit.Statement (.wptr d h b) := by
  have h0 := d.isLt
  have h1 := h.isLt
  have h2 := b.isLt
  show 0xe3 + d.toNat * 256 + h.toNat * 8192 + b.toNat * 262144 < 4294967296 ∧ (0xe3 + d.toNat * 256 + h.toNat * 8192 + b.toNat * 262144 ≠ 0 → (0xe3 + d.toNat * 256 + h.toNat * 8192 + b.toNat * 262144) % 2 = 1)
  omega
theorem LengthBit.cpyq (h : BitVec 4) (n : BitVec 4) (a : BitVec 5) (b : BitVec 5) : LengthBit.Statement (.cpyq h n a b) := by
  have h0 := h.isLt
  have h1 := n.isLt
  have h2 := a.isLt
  have h3 := b.isLt
  show 0xe9 + h.toNat * 256 + n.toNat * 4096 + a.toNat * 65536 + b.toNat * 2097152 < 4294967296 ∧ (0xe9 + h.toNat * 256 + n.toNat * 4096 + a.toNat * 65536 + b.toNat * 2097152 ≠ 0 → (0xe9 + h.toNat * 256 + n.toNat * 4096 + a.toNat * 65536 + b.toNat * 2097152) % 2 = 1)
  omega
theorem LengthBit.pub (n : BitVec 4) (b : BitVec 5) : LengthBit.Statement (.pub n b) := by
  have h0 := n.isLt
  have h1 := b.isLt
  show 0xeb + n.toNat * 4096 + b.toNat * 2097152 < 4294967296 ∧ (0xeb + n.toNat * 4096 + b.toNat * 2097152 ≠ 0 → (0xeb + n.toNat * 4096 + b.toNat * 2097152) % 2 = 1)
  omega
theorem LengthBit.opbeg (b : BitVec 5) : LengthBit.Statement (.opbeg b) := by
  have h0 := b.isLt
  show 0xed + b.toNat * 2097152 < 4294967296 ∧ (0xed + b.toNat * 2097152 ≠ 0 → (0xed + b.toNat * 2097152) % 2 = 1)
  omega
theorem LengthBit.oparg (n : BitVec 4) (a : BitVec 5) (b : BitVec 5) : LengthBit.Statement (.oparg n a b) := by
  have h0 := n.isLt
  have h1 := a.isLt
  have h2 := b.isLt
  show 0x40000ed + n.toNat * 4096 + a.toNat * 65536 + b.toNat * 2097152 < 4294967296 ∧ (0x40000ed + n.toNat * 4096 + a.toNat * 65536 + b.toNat * 2097152 ≠ 0 → (0x40000ed + n.toNat * 4096 + a.toNat * 65536 + b.toNat * 2097152) % 2 = 1)
  omega
theorem LengthBit.opend (h : BitVec 4) (n : BitVec 4) (b : BitVec 5) : LengthBit.Statement (.opend h n b) := by
  have h0 := h.isLt
  have h1 := n.isLt
  have h2 := b.isLt
  show 0x80000ed + h.toNat * 256 + n.toNat * 4096 + b.toNat * 2097152 < 4294967296 ∧ (0x80000ed + h.toNat * 256 + n.toNat * 4096 + b.toNat * 2097152 ≠ 0 → (0x80000ed + h.toNat * 256 + n.toNat * 4096 + b.toNat * 2097152) % 2 = 1)
  omega
theorem LengthBit.lnch (h : BitVec 4) (n : BitVec 4) : LengthBit.Statement (.lnch h n) := by
  have h0 := h.isLt
  have h1 := n.isLt
  show 0xef + h.toNat * 256 + n.toNat * 4096 < 4294967296 ∧ (0xef + h.toNat * 256 + n.toNat * 4096 ≠ 0 → (0xef + h.toNat * 256 + n.toNat * 4096) % 2 = 1)
  omega
theorem LengthBit.chrd (d : BitVec 5) : LengthBit.Statement (.chrd d) := by
  have h0 := d.isLt
  show 0xf1 + d.toNat * 256 < 4294967296 ∧ (0xf1 + d.toNat * 256 ≠ 0 → (0xf1 + d.toNat * 256) % 2 = 1)
  omega
theorem LengthBit.chbase (d : BitVec 5) : LengthBit.Statement (.chbase d) := by
  have h0 := d.isLt
  show 0x8000f1 + d.toNat * 256 < 4294967296 ∧ (0x8000f1 + d.toNat * 256 ≠ 0 → (0x8000f1 + d.toNat * 256) % 2 = 1)
  omega
theorem LengthBit.chwait (a : BitVec 5) : LengthBit.Statement (.chwait a) := by
  have h0 := a.isLt
  show 0xf3 + a.toNat * 65536 < 4294967296 ∧ (0xf3 + a.toNat * 65536 ≠ 0 → (0xf3 + a.toNat * 65536) % 2 = 1)
  omega
theorem LengthBit.chslipHold (a : BitVec 5) : LengthBit.Statement (.chslipHold a) := by
  have h0 := a.isLt
  show 0xf5 + a.toNat * 65536 < 4294967296 ∧ (0xf5 + a.toNat * 65536 ≠ 0 → (0xf5 + a.toNat * 65536) % 2 = 1)
  omega
theorem LengthBit.chslipSkip (a : BitVec 5) : LengthBit.Statement (.chslipSkip a) := by
  have h0 := a.isLt
  show 0x40000f5 + a.toNat * 65536 < 4294967296 ∧ (0x40000f5 + a.toNat * 65536 ≠ 0 → (0x40000f5 + a.toNat * 65536) % 2 = 1)
  omega
theorem LengthBit.tsend (h : BitVec 4) (n : BitVec 4) (a : BitVec 5) (b : BitVec 5) : LengthBit.Statement (.tsend h n a b) := by
  have h0 := h.isLt
  have h1 := n.isLt
  have h2 := a.isLt
  have h3 := b.isLt
  show 0xf7 + h.toNat * 256 + n.toNat * 4096 + a.toNat * 65536 + b.toNat * 2097152 < 4294967296 ∧ (0xf7 + h.toNat * 256 + n.toNat * 4096 + a.toNat * 65536 + b.toNat * 2097152 ≠ 0 → (0xf7 + h.toNat * 256 + n.toNat * 4096 + a.toNat * 65536 + b.toNat * 2097152) % 2 = 1)
  omega
theorem LengthBit.trecv (a : BitVec 5) (b : BitVec 5) : LengthBit.Statement (.trecv a b) := by
  have h0 := a.isLt
  have h1 := b.isLt
  show 0x40000f7 + a.toNat * 65536 + b.toNat * 2097152 < 4294967296 ∧ (0x40000f7 + a.toNat * 65536 + b.toNat * 2097152 ≠ 0 → (0x40000f7 + a.toNat * 65536 + b.toNat * 2097152) % 2 = 1)
  omega
theorem LengthBit.barg : LengthBit.Statement (.barg) := by
  show 0xbf < 4294967296 ∧ (0xbf ≠ 0 → (0xbf) % 2 = 1)
  omega
theorem LengthBit.fenceSc : LengthBit.Statement (.fenceSc) := by
  show 0x28000c3 < 4294967296 ∧ (0x28000c3 ≠ 0 → (0x28000c3) % 2 = 1)
  omega
theorem LengthBit.fwaitc : LengthBit.Statement (.fwaitc) := by
  show 0xc5 < 4294967296 ∧ (0xc5 ≠ 0 → (0xc5) % 2 = 1)
  omega
theorem LengthBit.yield : LengthBit.Statement (.yield) := by
  show 0xc7 < 4294967296 ∧ (0xc7 ≠ 0 → (0xc7) % 2 = 1)
  omega
theorem LengthBit.qend : LengthBit.Statement (.qend) := by
  show 0x8000c7 < 4294967296 ∧ (0x8000c7 ≠ 0 → (0x8000c7) % 2 = 1)
  omega
theorem LengthBit.dispre : LengthBit.Statement (.dispre) := by
  show 0x10000c7 < 4294967296 ∧ (0x10000c7 ≠ 0 → (0x10000c7) % 2 = 1)
  omega
theorem LengthBit.enpre : LengthBit.Statement (.enpre) := by
  show 0x18000c7 < 4294967296 ∧ (0x18000c7 ≠ 0 → (0x18000c7) % 2 = 1)
  omega
theorem LengthBit.exit : LengthBit.Statement (.exit) := by
  show 0x20000c7 < 4294967296 ∧ (0x20000c7 ≠ 0 → (0x20000c7) % 2 = 1)
  omega
theorem LengthBit.rpt (b : BitVec 5) : LengthBit.Statement (.rpt b) := by
  have h0 := b.isLt
  show 0x80000f7 + b.toNat * 2097152 < 4294967296 ∧ (0x80000f7 + b.toNat * 2097152 ≠ 0 → (0x80000f7 + b.toNat * 2097152) % 2 = 1)
  omega
theorem LengthBit.trap (c : BitVec 7) : LengthBit.Statement (.trap c) := by
  have h0 := c.isLt
  show 0xf9 + c.toNat * 262144 < 4294967296 ∧ (0xf9 + c.toNat * 262144 ≠ 0 → (0xf9 + c.toNat * 262144) % 2 = 1)
  omega
theorem LengthBit.eret : LengthBit.Statement (.eret) := by
  show 0xfb < 4294967296 ∧ (0xfb ≠ 0 → (0xfb) % 2 = 1)
  omega
theorem LengthBit.brk : LengthBit.Statement (.brk) := by
  show 0x8000fb < 4294967296 ∧ (0x8000fb ≠ 0 → (0x8000fb) % 2 = 1)
  omega
theorem LengthBit.sigck (a : BitVec 5) : LengthBit.Statement (.sigck a) := by
  have h0 := a.isLt
  show 0x10000fb + a.toNat * 8192 < 4294967296 ∧ (0x10000fb + a.toNat * 8192 ≠ 0 → (0x10000fb + a.toNat * 8192) % 2 = 1)
  omega
theorem LengthBit.udf : LengthBit.Statement (.udf) := by
  show 0xff < 4294967296 ∧ (0xff ≠ 0 → (0xff) % 2 = 1)
  omega
theorem LengthBit.resultLand : LengthBit.Statement (.resultLand) := by
  exact ⟨Nat.two_pow_pos _, fun h => (h rfl).elim⟩
theorem LengthBit.farValueLand (acc : Nat) : LengthBit.Statement (.farValueLand acc) := by
  exact ⟨Nat.two_pow_pos _, fun h => (h rfl).elim⟩
theorem LengthBit.farAccessEffect (acc : Nat) : LengthBit.Statement (.farAccessEffect acc) := by
  exact ⟨Nat.two_pow_pos _, fun h => (h rfl).elim⟩
theorem LengthBit.quantumCommit (tree : Nat) : LengthBit.Statement (.quantumCommit tree) := by
  exact ⟨Nat.two_pow_pos _, fun h => (h rfl).elim⟩
theorem LengthBit.pubExchange (desk lo len : Nat) : LengthBit.Statement (.pubExchange desk lo len) := by
  exact ⟨Nat.two_pow_pos _, fun h => (h rfl).elim⟩
theorem LengthBit.heartbeatTick (wid : Nat) : LengthBit.Statement (.heartbeatTick wid) := by
  exact ⟨Nat.two_pow_pos _, fun h => (h rfl).elim⟩
theorem LengthBit.teamStart (tree grid core : Nat) : LengthBit.Statement (.teamStart tree grid core) := by
  exact ⟨Nat.two_pow_pos _, fun h => (h rfl).elim⟩
theorem LengthBit.gridRetire (tree grid : Nat) : LengthBit.Statement (.gridRetire tree grid) := by
  exact ⟨Nat.two_pow_pos _, fun h => (h rfl).elim⟩
theorem LengthBit.quantumTimeLimit (tree : Nat) : LengthBit.Statement (.quantumTimeLimit tree) := by
  exact ⟨Nat.two_pow_pos _, fun h => (h rfl).elim⟩
theorem LengthBit.preemptionTimeLimit (tree : Nat) : LengthBit.Statement (.preemptionTimeLimit tree) := by
  exact ⟨Nat.two_pow_pos _, fun h => (h rfl).elim⟩
theorem LengthBit.dispreWindowLapse (wid : Nat) : LengthBit.Statement (.dispreWindowLapse wid) := by
  exact ⟨Nat.two_pow_pos _, fun h => (h rfl).elim⟩
theorem LengthBit.operatorWindowLapse (wid : Nat) : LengthBit.Statement (.operatorWindowLapse wid) := by
  exact ⟨Nat.two_pow_pos _, fun h => (h rfl).elim⟩
theorem LengthBit.contextSave (tree : Nat) : LengthBit.Statement (.contextSave tree) := by
  exact ⟨Nat.two_pow_pos _, fun h => (h rfl).elim⟩
theorem LengthBit.autoResume (tree : Nat) : LengthBit.Statement (.autoResume tree) := by
  exact ⟨Nat.two_pow_pos _, fun h => (h rfl).elim⟩
theorem LengthBit.treeFaultStop (tree : Nat) : LengthBit.Statement (.treeFaultStop tree) := by
  exact ⟨Nat.two_pow_pos _, fun h => (h rfl).elim⟩
theorem LengthBit.matrixOpComplete (core op : Nat) : LengthBit.Statement (.matrixOpComplete core op) := by
  exact ⟨Nat.two_pow_pos _, fun h => (h rfl).elim⟩
theorem LengthBit.ldswLoadStart (core op : Nat) : LengthBit.Statement (.ldswLoadStart core op) := by
  exact ⟨Nat.two_pow_pos _, fun h => (h rfl).elim⟩
theorem LengthBit.copy (chan : Nat) : LengthBit.Statement (.copy chan) := by
  exact ⟨Nat.two_pow_pos _, fun h => (h rfl).elim⟩
theorem LengthBit.fill (chan : Nat) : LengthBit.Statement (.fill chan) := by
  exact ⟨Nat.two_pow_pos _, fun h => (h rfl).elim⟩
theorem LengthBit.level (chan : Nat) : LengthBit.Statement (.level chan) := by
  exact ⟨Nat.two_pow_pos _, fun h => (h rfl).elim⟩
theorem LengthBit.coll (chan : Nat) : LengthBit.Statement (.coll chan) := by
  exact ⟨Nat.two_pow_pos _, fun h => (h rfl).elim⟩
theorem LengthBit.sectorDelivery (chan : Nat) : LengthBit.Statement (.sectorDelivery chan) := by
  exact ⟨Nat.two_pow_pos _, fun h => (h rfl).elim⟩
theorem LengthBit.sharedQueueConsume (chan desk descr : Nat) : LengthBit.Statement (.sharedQueueConsume chan desk descr) := by
  exact ⟨Nat.two_pow_pos _, fun h => (h rfl).elim⟩
theorem LengthBit.tsendFlitSend (send idx : Nat) : LengthBit.Statement (.tsendFlitSend send idx) := by
  exact ⟨Nat.two_pow_pos _, fun h => (h rfl).elim⟩
theorem LengthBit.trecvCheck (wid : Nat) : LengthBit.Statement (.trecvCheck wid) := by
  exact ⟨Nat.two_pow_pos _, fun h => (h rfl).elim⟩
theorem LengthBit.slip : LengthBit.Statement (.slip) := by
  exact ⟨Nat.two_pow_pos _, fun h => (h rfl).elim⟩
theorem LengthBit.driftMeasurement (value : BitVec 64) : LengthBit.Statement (.driftMeasurement value) := by
  exact ⟨Nat.two_pow_pos _, fun h => (h rfl).elim⟩
theorem LengthBit.parentPortFailure : LengthBit.Statement (.parentPortFailure) := by
  exact ⟨Nat.two_pow_pos _, fun h => (h rfl).elim⟩
theorem LengthBit.flitArrival (port : Nat) (flit : BitVec 512) (check : BitVec 32) : LengthBit.Statement (.flitArrival port flit check) := by
  exact ⟨Nat.two_pow_pos _, fun h => (h rfl).elim⟩
theorem LengthBit.flitEffect (flit : Nat) : LengthBit.Statement (.flitEffect flit) := by
  exact ⟨Nat.two_pow_pos _, fun h => (h rfl).elim⟩
theorem LengthBit.abortToken (att count : Nat) : LengthBit.Statement (.abortToken att count) := by
  exact ⟨Nat.two_pow_pos _, fun h => (h rfl).elim⟩
theorem LengthBit.epochReport (dev epoch count : Nat) : LengthBit.Statement (.epochReport dev epoch count) := by
  exact ⟨Nat.two_pow_pos _, fun h => (h rfl).elim⟩
theorem LengthBit.restartDeadline : LengthBit.Statement (.restartDeadline) := by
  exact ⟨Nat.two_pow_pos _, fun h => (h rfl).elim⟩
theorem LengthBit.restartToken (att epoch count : Nat) : LengthBit.Statement (.restartToken att epoch count) := by
  exact ⟨Nat.two_pow_pos _, fun h => (h rfl).elim⟩
theorem LengthBit.ack (dev chan seq : Nat) : LengthBit.Statement (.ack dev chan seq) := by
  exact ⟨Nat.two_pow_pos _, fun h => (h rfl).elim⟩
theorem LengthBit.flowResendTimeout (chan dev : Nat) : LengthBit.Statement (.flowResendTimeout chan dev) := by
  exact ⟨Nat.two_pow_pos _, fun h => (h rfl).elim⟩
theorem LengthBit.runWrite (src chan seq dest : Nat) (group att exp : Nat) (payload : List Byte) : LengthBit.Statement (.runWrite src chan seq dest group att exp payload) := by
  exact ⟨Nat.two_pow_pos _, fun h => (h rfl).elim⟩
theorem LengthBit.runSumF32 (src chan seq dest : Nat) (group att exp : Nat) (payload : List Byte) : LengthBit.Statement (.runSumF32 src chan seq dest group att exp payload) := by
  exact ⟨Nat.two_pow_pos _, fun h => (h rfl).elim⟩
theorem LengthBit.runSumI32 (src chan seq dest : Nat) (group att exp : Nat) (payload : List Byte) : LengthBit.Statement (.runSumI32 src chan seq dest group att exp payload) := by
  exact ⟨Nat.two_pow_pos _, fun h => (h rfl).elim⟩
theorem LengthBit.runMaxS32 (src chan seq dest : Nat) (group att exp : Nat) (payload : List Byte) : LengthBit.Statement (.runMaxS32 src chan seq dest group att exp payload) := by
  exact ⟨Nat.two_pow_pos _, fun h => (h rfl).elim⟩
theorem LengthBit.runAddI64 (src chan seq dest : Nat) (operand : BitVec 64) : LengthBit.Statement (.runAddI64 src chan seq dest operand) := by
  exact ⟨Nat.two_pow_pos _, fun h => (h rfl).elim⟩
theorem LengthBit.atomreply (src chan seq : Nat) (old : BitVec 64) : LengthBit.Statement (.atomreply src chan seq old) := by
  exact ⟨Nat.two_pow_pos _, fun h => (h rfl).elim⟩
theorem LengthBit.releaseNotice (src exp : Nat) : LengthBit.Statement (.releaseNotice src exp) := by
  exact ⟨Nat.two_pow_pos _, fun h => (h rfl).elim⟩
theorem LengthBit.revokeNotice (src exp : Nat) : LengthBit.Statement (.revokeNotice src exp) := by
  exact ⟨Nat.two_pow_pos _, fun h => (h rfl).elim⟩
theorem LengthBit.chorusTaskDispatch (ctask : Nat) : LengthBit.Statement (.chorusTaskDispatch ctask) := by
  exact ⟨Nat.two_pow_pos _, fun h => (h rfl).elim⟩
theorem LengthBit.chorusMemberTimeout (ctask : Nat) : LengthBit.Statement (.chorusMemberTimeout ctask) := by
  exact ⟨Nat.two_pow_pos _, fun h => (h rfl).elim⟩
theorem LengthBit.operatorAccept (op : Nat) : LengthBit.Statement (.operatorAccept op) := by
  exact ⟨Nat.two_pow_pos _, fun h => (h rfl).elim⟩
theorem LengthBit.grade (op : Nat) : LengthBit.Statement (.grade op) := by
  exact ⟨Nat.two_pow_pos _, fun h => (h rfl).elim⟩
theorem LengthBit.gradeDeadline (op : Nat) : LengthBit.Statement (.gradeDeadline op) := by
  exact ⟨Nat.two_pow_pos _, fun h => (h rfl).elim⟩
theorem LengthBit.replayStart (tree : Nat) : LengthBit.Statement (.replayStart tree) := by
  exact ⟨Nat.two_pow_pos _, fun h => (h rfl).elim⟩
theorem LengthBit.slotFetch (desk queue : Nat) : LengthBit.Statement (.slotFetch desk queue) := by
  exact ⟨Nat.two_pow_pos _, fun h => (h rfl).elim⟩
theorem LengthBit.slotRecheck (desk queue : Nat) : LengthBit.Statement (.slotRecheck desk queue) := by
  exact ⟨Nat.two_pow_pos _, fun h => (h rfl).elim⟩
theorem LengthBit.queueSweep : LengthBit.Statement (.queueSweep) := by
  exact ⟨Nat.two_pow_pos _, fun h => (h rfl).elim⟩
theorem LengthBit.slotNop (desk queue index : Nat) : LengthBit.Statement (.slotNop desk queue index) := by
  exact ⟨Nat.two_pow_pos _, fun h => (h rfl).elim⟩
theorem LengthBit.slotLaunch (desk queue index : Nat) : LengthBit.Statement (.slotLaunch desk queue index) := by
  exact ⟨Nat.two_pow_pos _, fun h => (h rfl).elim⟩
theorem LengthBit.slotLaunchInd (desk queue index : Nat) : LengthBit.Statement (.slotLaunchInd desk queue index) := by
  exact ⟨Nat.two_pow_pos _, fun h => (h rfl).elim⟩
theorem LengthBit.slotEngine (desk queue index : Nat) : LengthBit.Statement (.slotEngine desk queue index) := by
  exact ⟨Nat.two_pow_pos _, fun h => (h rfl).elim⟩
theorem LengthBit.slotSqreg (desk queue index : Nat) : LengthBit.Statement (.slotSqreg desk queue index) := by
  exact ⟨Nat.two_pow_pos _, fun h => (h rfl).elim⟩
theorem LengthBit.slotRegrade (desk queue index : Nat) : LengthBit.Statement (.slotRegrade desk queue index) := by
  exact ⟨Nat.two_pow_pos _, fun h => (h rfl).elim⟩
theorem LengthBit.slotResume (desk queue index : Nat) : LengthBit.Statement (.slotResume desk queue index) := by
  exact ⟨Nat.two_pow_pos _, fun h => (h rfl).elim⟩
theorem LengthBit.dbgHalt (desk queue index : Nat) : LengthBit.Statement (.dbgHalt desk queue index) := by
  exact ⟨Nat.two_pow_pos _, fun h => (h rfl).elim⟩
theorem LengthBit.dbgContinue (desk queue index : Nat) : LengthBit.Statement (.dbgContinue desk queue index) := by
  exact ⟨Nat.two_pow_pos _, fun h => (h rfl).elim⟩
theorem LengthBit.dbgStep (desk queue index : Nat) : LengthBit.Statement (.dbgStep desk queue index) := by
  exact ⟨Nat.two_pow_pos _, fun h => (h rfl).elim⟩
theorem LengthBit.dbgDeliver (desk queue index : Nat) : LengthBit.Statement (.dbgDeliver desk queue index) := by
  exact ⟨Nat.two_pow_pos _, fun h => (h rfl).elim⟩
theorem LengthBit.dbgReadctx (desk queue index : Nat) : LengthBit.Statement (.dbgReadctx desk queue index) := by
  exact ⟨Nat.two_pow_pos _, fun h => (h rfl).elim⟩
theorem LengthBit.dbgWritectx (desk queue index : Nat) : LengthBit.Statement (.dbgWritectx desk queue index) := by
  exact ⟨Nat.two_pow_pos _, fun h => (h rfl).elim⟩
theorem LengthBit.dbgOpen (desk queue index : Nat) : LengthBit.Statement (.dbgOpen desk queue index) := by
  exact ⟨Nat.two_pow_pos _, fun h => (h rfl).elim⟩
theorem LengthBit.dbgClose (desk queue index : Nat) : LengthBit.Statement (.dbgClose desk queue index) := by
  exact ⟨Nat.two_pow_pos _, fun h => (h rfl).elim⟩
theorem LengthBit.dbgFaults (desk queue index : Nat) : LengthBit.Statement (.dbgFaults desk queue index) := by
  exact ⟨Nat.two_pow_pos _, fun h => (h rfl).elim⟩
theorem LengthBit.kick (desk queue : Nat) (value : BitVec 64) : LengthBit.Statement (.kick desk queue value) := by
  exact ⟨Nat.two_pow_pos _, fun h => (h rfl).elim⟩
theorem LengthBit.gradecons (desk : Nat) (value : BitVec 64) : LengthBit.Statement (.gradecons desk value) := by
  exact ⟨Nat.two_pow_pos _, fun h => (h rfl).elim⟩
theorem LengthBit.hostRdmaRead (desk port va len : Nat) : LengthBit.Statement (.hostRdmaRead desk port va len) := by
  exact ⟨Nat.two_pow_pos _, fun h => (h rfl).elim⟩
theorem LengthBit.hostRdmaWrite (desk port va : Nat) (data : List Byte) : LengthBit.Statement (.hostRdmaWrite desk port va data) := by
  exact ⟨Nat.two_pow_pos _, fun h => (h rfl).elim⟩
theorem LengthBit.qfetch (d : BitVec 5) (s : BitVec 5) (t : BitVec 5) : LengthBit.Statement (.qfetch d s t) := by
  have h0 := d.isLt
  have h1 := s.isLt
  have h2 := t.isLt
  show 0xb + d.toNat * 128 + s.toNat * 32768 + t.toNat * 1048576 < 4294967296 ∧ (0xb + d.toNat * 128 + s.toNat * 32768 + t.toNat * 1048576 ≠ 0 → (0xb + d.toNat * 128 + s.toNat * 32768 + t.toNat * 1048576) % 2 = 1)
  omega
theorem LengthBit.xaedqBfx (d : BitVec 5) (s : BitVec 5) (t : BitVec 5) : LengthBit.Statement (.xaedqBfx d s t) := by
  have h0 := d.isLt
  have h1 := s.isLt
  have h2 := t.isLt
  show 0x100b + d.toNat * 128 + s.toNat * 32768 + t.toNat * 1048576 < 4294967296 ∧ (0x100b + d.toNat * 128 + s.toNat * 32768 + t.toNat * 1048576 ≠ 0 → (0x100b + d.toNat * 128 + s.toNat * 32768 + t.toNat * 1048576) % 2 = 1)
  omega
theorem LengthBit.xaedqBfxS (d : BitVec 5) (s : BitVec 5) (t : BitVec 5) : LengthBit.Statement (.xaedqBfxS d s t) := by
  have h0 := d.isLt
  have h1 := s.isLt
  have h2 := t.isLt
  show 0x200b + d.toNat * 128 + s.toNat * 32768 + t.toNat * 1048576 < 4294967296 ∧ (0x200b + d.toNat * 128 + s.toNat * 32768 + t.toNat * 1048576 ≠ 0 → (0x200b + d.toNat * 128 + s.toNat * 32768 + t.toNat * 1048576) % 2 = 1)
  omega
theorem LengthBit.sigwait (d : BitVec 5) (s : BitVec 5) (t : BitVec 5) : LengthBit.Statement (.sigwait d s t) := by
  have h0 := d.isLt
  have h1 := s.isLt
  have h2 := t.isLt
  show 0x300b + d.toNat * 128 + s.toNat * 32768 + t.toNat * 1048576 < 4294967296 ∧ (0x300b + d.toNat * 128 + s.toNat * 32768 + t.toNat * 1048576 ≠ 0 → (0x300b + d.toNat * 128 + s.toNat * 32768 + t.toNat * 1048576) % 2 = 1)
  omega
theorem LengthBit.dispatch (d : BitVec 5) (s : BitVec 5) (t : BitVec 5) : LengthBit.Statement (.dispatch d s t) := by
  have h0 := d.isLt
  have h1 := s.isLt
  have h2 := t.isLt
  show 0x400b + d.toNat * 128 + s.toNat * 32768 + t.toNat * 1048576 < 4294967296 ∧ (0x400b + d.toNat * 128 + s.toNat * 32768 + t.toNat * 1048576 ≠ 0 → (0x400b + d.toNat * 128 + s.toNat * 32768 + t.toNat * 1048576) % 2 = 1)
  omega
theorem LengthBit.quote (tag : BitVec 16) (body : List Byte) : LengthBit.Statement (.quote tag body) := by
  exact ⟨Nat.two_pow_pos _, fun h => (h rfl).elim⟩
theorem LengthBit.nonce (tag : BitVec 16) (body : List Byte) : LengthBit.Statement (.nonce tag body) := by
  exact ⟨Nat.two_pow_pos _, fun h => (h rfl).elim⟩
theorem LengthBit.unlock (tag : BitVec 16) (body : List Byte) : LengthBit.Statement (.unlock tag body) := by
  exact ⟨Nat.two_pow_pos _, fun h => (h rfl).elim⟩
theorem LengthBit.provision (tag : BitVec 16) (body : List Byte) : LengthBit.Statement (.provision tag body) := by
  exact ⟨Nat.two_pow_pos _, fun h => (h rfl).elim⟩
theorem LengthBit.lifecycle (tag : BitVec 16) (body : List Byte) : LengthBit.Statement (.lifecycle tag body) := by
  exact ⟨Nat.two_pow_pos _, fun h => (h rfl).elim⟩
theorem LengthBit.desknew (tag : BitVec 16) (body : List Byte) : LengthBit.Statement (.desknew tag body) := by
  exact ⟨Nat.two_pow_pos _, fun h => (h rfl).elim⟩
theorem LengthBit.deskset (tag : BitVec 16) (body : List Byte) : LengthBit.Statement (.deskset tag body) := by
  exact ⟨Nat.two_pow_pos _, fun h => (h rfl).elim⟩
theorem LengthBit.deskdel (tag : BitVec 16) (body : List Byte) : LengthBit.Statement (.deskdel tag body) := by
  exact ⟨Nat.two_pow_pos _, fun h => (h rfl).elim⟩
theorem LengthBit.domjoin (tag : BitVec 16) (body : List Byte) : LengthBit.Statement (.domjoin tag body) := by
  exact ⟨Nat.two_pow_pos _, fun h => (h rfl).elim⟩
theorem LengthBit.domleave (tag : BitVec 16) (body : List Byte) : LengthBit.Statement (.domleave tag body) := by
  exact ⟨Nat.two_pow_pos _, fun h => (h rfl).elim⟩
theorem LengthBit.shutdown (tag : BitVec 16) (body : List Byte) : LengthBit.Statement (.shutdown tag body) := by
  exact ⟨Nat.two_pow_pos _, fun h => (h rfl).elim⟩
theorem LengthBit.faultrd (tag : BitVec 16) (body : List Byte) : LengthBit.Statement (.faultrd tag body) := by
  exact ⟨Nat.two_pow_pos _, fun h => (h rfl).elim⟩
theorem LengthBit.logrd (tag : BitVec 16) (body : List Byte) : LengthBit.Statement (.logrd tag body) := by
  exact ⟨Nat.two_pow_pos _, fun h => (h rfl).elim⟩
theorem LengthBit.fwchunk (tag : BitVec 16) (body : List Byte) : LengthBit.Statement (.fwchunk tag body) := by
  exact ⟨Nat.two_pow_pos _, fun h => (h rfl).elim⟩
theorem LengthBit.fwcommit (tag : BitVec 16) (body : List Byte) : LengthBit.Statement (.fwcommit tag body) := by
  exact ⟨Nat.two_pow_pos _, fun h => (h rfl).elim⟩
theorem LengthBit.receipt (tag : BitVec 16) (body : List Byte) : LengthBit.Statement (.receipt tag body) := by
  exact ⟨Nat.two_pow_pos _, fun h => (h rfl).elim⟩
theorem LengthBit.powerOn : LengthBit.Statement (.powerOn) := by
  exact ⟨Nat.two_pow_pos _, fun h => (h rfl).elim⟩
theorem LengthBit.powerRemoval : LengthBit.Statement (.powerRemoval) := by
  exact ⟨Nat.two_pow_pos _, fun h => (h rfl).elim⟩
theorem LengthBit.undervoltageTurnoff : LengthBit.Statement (.undervoltageTurnoff) := by
  exact ⟨Nat.two_pow_pos _, fun h => (h rfl).elim⟩
theorem LengthBit.supplyDroop : LengthBit.Statement (.supplyDroop) := by
  exact ⟨Nat.two_pow_pos _, fun h => (h rfl).elim⟩
theorem LengthBit.powerMeasurement (milliwatts : Nat) : LengthBit.Statement (.powerMeasurement milliwatts) := by
  exact ⟨Nat.two_pow_pos _, fun h => (h rfl).elim⟩
theorem LengthBit.throttlePoint (unit : Nat) : LengthBit.Statement (.throttlePoint unit) := by
  exact ⟨Nat.two_pow_pos _, fun h => (h rfl).elim⟩
theorem LengthBit.throttleRecovery (unit : Nat) : LengthBit.Statement (.throttleRecovery unit) := by
  exact ⟨Nat.two_pow_pos _, fun h => (h rfl).elim⟩
theorem LengthBit.tripPoint (unit : Nat) : LengthBit.Statement (.tripPoint unit) := by
  exact ⟨Nat.two_pow_pos _, fun h => (h rfl).elim⟩
theorem LengthBit.logbookWrite : LengthBit.Statement (.logbookWrite) := by
  exact ⟨Nat.two_pow_pos _, fun h => (h rfl).elim⟩
theorem LengthBit.infieldTestDue (die place : Nat) : LengthBit.Statement (.infieldTestDue die place) := by
  exact ⟨Nat.two_pow_pos _, fun h => (h rfl).elim⟩
theorem LengthBit.infieldTestComplete (die place : Nat) (failed : Bool) (block : Nat) : LengthBit.Statement (.infieldTestComplete die place failed block) := by
  exact ⟨Nat.two_pow_pos _, fun h => (h rfl).elim⟩
theorem LengthBit.forcedSaveSecondPeriod (tree : Nat) : LengthBit.Statement (.forcedSaveSecondPeriod tree) := by
  exact ⟨Nat.two_pow_pos _, fun h => (h rfl).elim⟩
theorem LengthBit.testOverdue (die place : Nat) : LengthBit.Statement (.testOverdue die place) := by
  exact ⟨Nat.two_pow_pos _, fun h => (h rfl).elim⟩

end Sys2Proof.Laws
end

