-- ==== Sys2Proof/Tests/Slice0.lean ====
section
/-! SUPPORT. The model's own tests: words of the spec's tables decoded; ill-formed instructions refused; a state and operands that meet the hypotheses of
each statement, clause by clause; small steps whose results the spec gives. -/

namespace Sys2Proof.Tests

open Sys2Proof Sys2Proof.Machine Sys2Proof.Stmt

/-- Words that the spec itself writes out for its examples (09, 10, 11 to 17). -/
theorem test_spec_words_1 :
    decodeTableWord 32 0x0000E07D = some (.setfmt 7) ∧
    decodeTableWord 32 0x0080037D = some (.getfmt 3) ∧
    decodeTableWord 32 0x1006118D = some (.mandn 1 2 3) ∧
    decodeTableWord 32 0x262D4291 = some (.vldc 2 5 3 1 6 2) ∧
    decodeTableWord 32 0x0118249B = some (.sld 4 1 2 1 8) ∧
    decodeTableWord 32 0x8321C6AB = some (.atomvAddI32 1 6 7 2 3 1) ∧
    decodeTableWord 32 0xD32185B7 = some (.atomsCas 3 5 6 2 3 1) ∧
    decodeTableWord 32 0x008C40B9 = some (.binit 2 3 1) ∧
    decodeTableWord 32 0x001060C1 = some (.waitc 3 4 0 0) ∧
    decodeTableWord 32 0x0000A4C9 = some (.acq 4 5) ∧
    decodeTableWord 32 0x001480CB = some (.acrel 4 5) ∧
    decodeTableWord 32 0x110642D7 = some (.mma 2 4 3 0 1 0 1 0) ∧
    decodeTableWord 32 0x000401D5 = some (.ldsw 1 2 0 0 0) ∧
    decodeTableWord 32 0x800003D5 = some (.swapw 3) ∧
    decodeTableWord 32 0x000A44D3 = some (.accvt 4 4 5 0 0) ∧
    decodeTableWord 32 0x00C532E9 = some (.cpyq 2 3 5 6) := by
  refine ⟨?_, ?_, ?_, ?_, ?_, ?_, ?_, ?_, ?_, ?_, ?_, ?_, ?_, ?_, ?_, ?_⟩ <;> rfl

/-- Words that the spec itself writes out for its examples (09, 10, 11 to 17). -/
theorem test_spec_words_2 :
    decodeTableWord 32 0x00E040EB = some (.pub 4 7) ∧
    decodeTableWord 32 0x000C40E1 = some (.dhset 2 3) ∧
    decodeTableWord 32 0x008040E1 = some (.dhwait 2) ∧
    decodeTableWord 32 0x010044E1 = some (.dhget 4 2) ∧
    decodeTableWord 32 0x018040E1 = some (.dhrel 2) ∧
    decodeTableWord 32 0x001845E3 = some (.wptr 5 2 6) ∧
    decodeTableWord 32 0x004000ED = some (.opbeg 2) ∧
    decodeTableWord 32 0x048350ED = some (.oparg 5 3 4) ∧
    decodeTableWord 32 0x08C021ED = some (.opend 1 2 6) ∧
    decodeTableWord 32 0x000031EF = some (.lnch 1 3) ∧
    decodeTableWord 32 0x000003F1 = some (.chrd 3) ∧
    decodeTableWord 32 0x008003F1 = some (.chbase 3) ∧
    decodeTableWord 32 0x000400F3 = some (.chwait 4) ∧
    decodeTableWord 32 0x040500F5 = some (.chslipSkip 5) ∧
    decodeTableWord 32 0x006241F7 = some (.tsend 1 4 2 3) ∧
    decodeTableWord 32 0x04C500F7 = some (.trecv 5 6) := by
  refine ⟨?_, ?_, ?_, ?_, ?_, ?_, ?_, ?_, ?_, ?_, ?_, ?_, ?_, ?_, ?_, ?_⟩ <;> rfl

/-- Words that the spec itself writes out for its examples (09, 10, 11 to 17). -/
theorem test_spec_words_3 :
    decodeTableWord 32 0x08E000F7 = some (.rpt 7) ∧
    decodeTableWord 32 0x00082301 = some (.add 3 1 2) ∧
    decodeTableWord 32 0xFFFC8417 = some (.addi 4 4 16383) ∧
    decodeTableWord 32 0x04002121 = some (.adda 1 1 256) ∧
    decodeTableWord 32 0x02824961 = some (.vfaddF32 9 9 40 0) ∧
    decodeTableWord 32 0x14080A53 = some (.vcmpS32 2 1 4 0 5) ∧
    decodeTableWord 32 0x10004191 = some (.vldc 1 1 0 0 0 1) ∧
    decodeTableWord 32 0xE044C291 = some (.vldc 2 3 1 2 0 14) ∧
    decodeTableWord 32 0x01402239 = some (.bv 2 4 10) ∧
    decodeTableWord 32 0xFFFF9C33 = some (.j 16777116) ∧
    decodeTableWord 32 0x028000C3 = some (.fenceSc) ∧
    decodeTableWord 32 0x001400F9 = some (.trap 5) ∧
    decodeTableWord 32 0x0C204467 = some (.vfmaF32 4 1 2 3) ∧
    decodeTableWord 32 0xFF440131 = some (.bc 1 0 1 2042) ∧
    decodeTableWord 32 0x00314541 = some (.vaddI32 5 5 3 0) ∧
    decodeTableWord 32 0x0014012B = some (.mfs 1 5) := by
  refine ⟨?_, ?_, ?_, ?_, ?_, ?_, ?_, ?_, ?_, ?_, ?_, ?_, ?_, ?_, ?_, ?_⟩ <;> rfl

/-- Words that the spec itself writes out for its examples (09, 10, 11 to 17). -/
theorem test_spec_words_4 :
    decodeTableWord 32 0x1000015D = some (.vlane 1 0) ∧
    decodeTableWord 32 0x0B90C53B = some (.jtv 5 3 4 23) ∧
    decodeTableWord 32 0x00001433 = some (.j 20) ∧
    decodeTableWord 32 0x32004259 = some (.vaddiI32 2 1 0 100) ∧
    decodeTableWord 32 0x00104245 = some (.vmulI32 2 1 1 0) ∧
    decodeTableWord 32 0x2000424F = some (.vnegI32 2 1 0) ∧
    decodeTableWord 32 0x0200425B = some (.vshli 2 1 0 4) ∧
    decodeTableWord 32 0x0380025F = some (.vmovi 2 0 7) ∧
    decodeTableWord 32 0x00004293 = some (.vstc 2 1 0 0 0 0) ∧
    decodeTableWord 32 0x020000C7 = some (.exit) ∧
    decodeTableWord 32 0x000000C5 = some (.fwaitc) ∧
    decodeTableWord 32 0x00000001 = some (.add 0 0 0) ∧
    decodeTableWord 16 0x18A2 = some (.vaddI32x16 5 3) ∧
    decodeTableWord 16 0x0000 = some (.vmov 0 0) ∧
    decodeTableWord 32 0x00882301 = none := by
  refine ⟨?_, ?_, ?_, ?_, ?_, ?_, ?_, ?_, ?_, ?_, ?_, ?_, ?_, ?_, ?_⟩ <;> rfl

theorem test_decode_01 :
    decodeTableWord 32 0x001C8101 = some (.add 1 4 7) ∧
    decodeTableWord 32 0x0020A203 = some (.sub 2 5 8) ∧
    decodeTableWord 32 0x0024C305 = some (.mul 3 6 9) ∧
    decodeTableWord 32 0x00A8E405 = some (.mulh 4 7 10) ∧
    decodeTableWord 32 0x012D0505 = some (.mulhu 5 8 11) ∧
    decodeTableWord 32 0x00312607 = some (.div 6 9 12) ∧
    decodeTableWord 32 0x00B54707 = some (.divu 7 10 13) ∧
    decodeTableWord 32 0x01396807 = some (.rem 8 11 14) ∧
    decodeTableWord 32 0x01BD8907 = some (.remu 9 12 15) ∧
    decodeTableWord 32 0x0041AA09 = some (.and 10 13 16) ∧
    decodeTableWord 32 0x00C5CB09 = some (.or 11 14 17) ∧
    decodeTableWord 32 0x0149EC09 = some (.xor 12 15 18) := by
  refine ⟨?_, ?_, ?_, ?_, ?_, ?_, ?_, ?_, ?_, ?_, ?_, ?_⟩ <;> rfl

theorem test_decode_02 :
    decodeTableWord 32 0x01CE0D09 = some (.andn 13 16 19) ∧
    decodeTableWord 32 0x00522E0B = some (.shl 14 17 20) ∧
    decodeTableWord 32 0x00D64F0B = some (.shr 15 18 21) ∧
    decodeTableWord 32 0x015A700B = some (.sra 16 19 22) ∧
    decodeTableWord 32 0x8B82910B = some (.shli 17 20 23) ∧
    decodeTableWord 32 0xAC02B20B = some (.shri 18 21 24) ∧
    decodeTableWord 32 0xCC82D30B = some (.srai 19 22 25) ∧
    decodeTableWord 32 0x006AF40D = some (.slt 20 23 26) ∧
    decodeTableWord 32 0x00EF150D = some (.sltu 21 24 27) ∧
    decodeTableWord 32 0x0173360D = some (.min 22 25 28) ∧
    decodeTableWord 32 0x01F7570D = some (.max 23 26 29) ∧
    decodeTableWord 32 0x027B780D = some (.minu 24 27 30) := by
  refine ⟨?_, ?_, ?_, ?_, ?_, ?_, ?_, ?_, ?_, ?_, ?_, ?_⟩ <;> rfl

theorem test_decode_03 :
    decodeTableWord 32 0x02FF990D = some (.maxu 25 28 31) ∧
    decodeTableWord 32 0x0003BA0F = some (.clz 26 29) ∧
    decodeTableWord 32 0x0083DB0F = some (.ctz 27 30) ∧
    decodeTableWord 32 0x0103FC0F = some (.popc 28 31) ∧
    decodeTableWord 32 0x72341D11 = some (.bfx 29 0 13 50 1) ∧
    decodeTableWord 32 0x32343E13 = some (.bfi 30 1 13 50) ∧
    decodeTableWord 32 0x04145F15 = some (.sel 31 2 5 8) ∧
    decodeTableWord 32 0x00986017 = some (.addi 0 3 38) ∧
    decodeTableWord 32 0x009C8119 = some (.andi 1 4 39) ∧
    decodeTableWord 32 0x00A0A21B = some (.ori 2 5 40) ∧
    decodeTableWord 32 0x00A4C31D = some (.xori 3 6 41) ∧
    decodeTableWord 32 0x0004E41F = some (.lih 4 39) := by
  refine ⟨?_, ?_, ?_, ?_, ?_, ?_, ?_, ?_, ?_, ?_, ?_, ?_⟩ <;> rfl

theorem test_decode_04 :
    decodeTableWord 32 0x00AD0521 = some (.adda 5 8 43) ∧
    decodeTableWord 32 0x00B12623 = some (.mova 6 9 44) ∧
    decodeTableWord 32 0x00B54725 = some (.movsa 7 10 45) ∧
    decodeTableWord 32 0x00016027 = some (.setk 0 11) ∧
    decodeTableWord 32 0x00008929 = some (.getk 9 4) ∧
    decodeTableWord 32 0x01140A2B = some (.mfs 10 69) ∧
    decodeTableWord 32 0x0111602D = some (.mts 11 68) ∧
    decodeTableWord 32 0x06B5EC31 = some (.bc 12 15 5 53) ∧
    decodeTableWord 32 0x00002D33 = some (.j 45) ∧
    decodeTableWord 32 0x00002E35 = some (.jal 46) ∧
    decodeTableWord 32 0x0001E037 = some (.jr 15) ∧
    decodeTableWord 32 0x06C19839 = some (.bv 0 51 54) := by
  refine ⟨?_, ?_, ?_, ?_, ?_, ?_, ?_, ?_, ?_, ?_, ?_, ?_⟩ <;> rfl

theorem test_decode_05 :
    decodeTableWord 32 0x1D5D313B = some (.jtv 49 4 23 58) ∧
    decodeTableWord 32 0x06A0123D = some (.loopl 18 53) ∧
    decodeTableWord 32 0x06C0133F = some (.loopb 19 54) ∧
    decodeTableWord 16 0xBE80 = some (.vmov 52 23) ∧
    decodeTableWord 16 0xC6A2 = some (.vaddI32x16 53 24) ∧
    decodeTableWord 16 0xCEC4 = some (.vsubI32x16 54 25) ∧
    decodeTableWord 16 0xD6E6 = some (.vmulI32x16 55 26) ∧
    decodeTableWord 16 0xDF08 = some (.vandx16 56 27) ∧
    decodeTableWord 16 0xE72A = some (.vorx16 57 28) ∧
    decodeTableWord 16 0xEF4C = some (.vxorx16 58 29) ∧
    decodeTableWord 16 0xF76E = some (.vshlI32x16 59 30) ∧
    decodeTableWord 16 0xFF90 = some (.vsraI32x16 60 31) := by
  refine ⟨?_, ?_, ?_, ?_, ?_, ?_, ?_, ?_, ?_, ?_, ?_, ?_⟩ <;> rfl

theorem test_decode_06 :
    decodeTableWord 16 0x07B2 = some (.vminS32x16 61 0) ∧
    decodeTableWord 16 0x0FD4 = some (.vmaxS32x16 62 1) ∧
    decodeTableWord 16 0x17F6 = some (.vfaddF32x16 63 2) ∧
    decodeTableWord 16 0x1818 = some (.vfsubF32x16 0 3) ∧
    decodeTableWord 16 0x203A = some (.vfmulF32x16 1 4) ∧
    decodeTableWord 16 0x285C = some (.vfminF32x16 2 5) ∧
    decodeTableWord 16 0x307E = some (.vfmaxF32x16 3 6) ∧
    decodeTableWord 32 0x14A1C441 = some (.vaddI32 4 7 10 5) ∧
    decodeTableWord 32 0x38B20541 = some (.vaddS32 5 8 11 6) ∧
    decodeTableWord 32 0x5CC24641 = some (.vaddU32 6 9 12 7) ∧
    decodeTableWord 32 0x00D28743 = some (.vsubI32 7 10 13 0) ∧
    decodeTableWord 32 0x24E2C843 = some (.vsubS32 8 11 14 1) := by
  refine ⟨?_, ?_, ?_, ?_, ?_, ?_, ?_, ?_, ?_, ?_, ?_, ?_⟩ <;> rfl

theorem test_decode_07 :
    decodeTableWord 32 0x48F30943 = some (.vsubU32 9 12 15 2) ∧
    decodeTableWord 32 0x0D034A45 = some (.vmulI32 10 13 16 3) ∧
    decodeTableWord 32 0x31138B45 = some (.vmulhS32 11 14 17 4) ∧
    decodeTableWord 32 0x5523CC45 = some (.vmulhU32 12 15 18 5) ∧
    decodeTableWord 32 0x19340D47 = some (.vmadI32 13 16 19 6) ∧
    decodeTableWord 32 0x1D444E49 = some (.vand 14 17 20 7) ∧
    decodeTableWord 32 0x21548F49 = some (.vor 15 18 21 0) ∧
    decodeTableWord 32 0x4564D049 = some (.vxor 16 19 22 1) ∧
    decodeTableWord 32 0x69751149 = some (.vandn 17 20 23 2) ∧
    decodeTableWord 32 0x0D85524B = some (.vshlI32 18 21 24 3) ∧
    decodeTableWord 32 0x3195934B = some (.vshrI32 19 22 25 4) ∧
    decodeTableWord 32 0x55A5D44B = some (.vsraI32 20 23 26 5) := by
  refine ⟨?_, ?_, ?_, ?_, ?_, ?_, ?_, ?_, ?_, ?_, ?_, ?_⟩ <;> rfl

theorem test_decode_08 :
    decodeTableWord 32 0x19B6154D = some (.vminS32 21 24 27 6) ∧
    decodeTableWord 32 0x3DC6564D = some (.vmaxS32 22 25 28 7) ∧
    decodeTableWord 32 0x41D6974D = some (.vminU32 23 26 29 0) ∧
    decodeTableWord 32 0x65E6D84D = some (.vmaxU32 24 27 30 1) ∧
    decodeTableWord 32 0x1C07194F = some (.vabsS32 25 28 7) ∧
    decodeTableWord 32 0x20075A4F = some (.vnegI32 26 29 0) ∧
    decodeTableWord 32 0x12179B51 = some (.vsel 27 30 33 4) ∧
    decodeTableWord 32 0x16C4FC53 = some (.vcmpS32 4 31 34 5 5) ∧
    decodeTableWord 32 0x37470553 = some (.vcmpU32 5 32 35 6 5) ∧
    decodeTableWord 32 0x10085E55 = some (.vpopc 30 33 4) ∧
    decodeTableWord 32 0x34089F55 = some (.vclz 31 34 5) ∧
    decodeTableWord 32 0x0268E057 = some (.vbfxU32 32 35 6 1) := by
  refine ⟨?_, ?_, ?_, ?_, ?_, ?_, ?_, ?_, ?_, ?_, ?_, ?_⟩ <;> rfl

theorem test_decode_09 :
    decodeTableWord 32 0x14792157 = some (.vbfxS32 33 36 7 2) ∧
    decodeTableWord 32 0x35896259 = some (.vaddiI32 34 37 0 107) ∧
    decodeTableWord 32 0x0619A35B = some (.vshli 35 38 1 12) ∧
    decodeTableWord 32 0x16A9E45B = some (.vshri 36 39 2 13) ∧
    decodeTableWord 32 0x273A255B = some (.vsrai 37 40 3 14) ∧
    decodeTableWord 32 0x0890265D = some (.vmovs 38 9 4) ∧
    decodeTableWord 32 0x1400275D = some (.vlane 39 2) ∧
    decodeTableWord 32 0x3730285F = some (.vmovi 40 3 110) ∧
    decodeTableWord 32 0x0AFB2961 = some (.vfaddF32 41 44 47 2) ∧
    decodeTableWord 32 0x2F0B6A61 = some (.vfaddF16X2 42 45 48 3) ∧
    decodeTableWord 32 0x131BAB63 = some (.vfsubF32 43 46 49 4) ∧
    decodeTableWord 32 0x372BEC63 = some (.vfsubF16X2 44 47 50 5) := by
  refine ⟨?_, ?_, ?_, ?_, ?_, ?_, ?_, ?_, ?_, ?_, ?_, ?_⟩ <;> rfl

theorem test_decode_10 :
    decodeTableWord 32 0x1B3C2D65 = some (.vfmulF32 45 48 51 6) ∧
    decodeTableWord 32 0x3F4C6E65 = some (.vfmulF16X2 46 49 52 7) ∧
    decodeTableWord 32 0x035CAF67 = some (.vfmaF32 47 50 53 0) ∧
    decodeTableWord 32 0x276CF067 = some (.vfmaF16X2 48 51 54 1) ∧
    decodeTableWord 32 0x0B7D3169 = some (.vfmsF32 49 52 55 2) ∧
    decodeTableWord 32 0x2F8D7269 = some (.vfmsF16X2 50 53 56 3) ∧
    decodeTableWord 32 0x139DB36B = some (.vfnmaF32 51 54 57 4) ∧
    decodeTableWord 32 0x37ADF46B = some (.vfnmaF16X2 52 55 58 5) ∧
    decodeTableWord 32 0x1BBE356D = some (.vfminF32 53 56 59 6) ∧
    decodeTableWord 32 0x3FCE766D = some (.vfmaxF32 54 57 60 7) ∧
    decodeTableWord 32 0x43DEB76D = some (.vfminF16X2 55 58 61 0) ∧
    decodeTableWord 32 0x67EEF86D = some (.vfmaxF16X2 56 59 62 1) := by
  refine ⟨?_, ?_, ?_, ?_, ?_, ?_, ?_, ?_, ?_, ?_, ?_, ?_⟩ <;> rfl

theorem test_decode_11 :
    decodeTableWord 32 0x8BFF396D = some (.vfmaxlF16 57 60 63 2) ∧
    decodeTableWord 32 0xAC0F7A6D = some (.vfminlF16 58 61 0 3) ∧
    decodeTableWord 32 0x040FBB6F = some (.vfabsF32 59 62 1) ∧
    decodeTableWord 32 0x280FFC6F = some (.vfnegF32 60 63 2) ∧
    decodeTableWord 32 0x58303D6F = some (.vfcopysignF32 61 0 3 6) ∧
    decodeTableWord 32 0x70007E6F = some (.vfabsF16X2 62 1 4) ∧
    decodeTableWord 32 0x9400BF6F = some (.vfnegF16X2 63 2 5) ∧
    decodeTableWord 32 0xA460C06F = some (.vfcopysignF16X2 0 3 6 1) ∧
    decodeTableWord 32 0x150E2171 = some (.vfcmpF32 1 4 7 2 5) ∧
    decodeTableWord 32 0x00014273 = some (.vfrcpF32 2 5 0) ∧
    decodeTableWord 32 0x24018373 = some (.vfrsqF32 3 6 1) ∧
    decodeTableWord 32 0x4801C473 = some (.vfrcpF16X2 4 7 2) := by
  refine ⟨?_, ?_, ?_, ?_, ?_, ?_, ?_, ?_, ?_, ?_, ?_, ?_⟩ <;> rfl

theorem test_decode_12 :
    decodeTableWord 32 0x6C020573 = some (.vfrsqF16X2 5 8 3) ∧
    decodeTableWord 32 0x1CC24675 = some (.vfdivF32 6 9 12 7) ∧
    decodeTableWord 32 0x14028777 = some (.vfsqrtF32 7 10 5) ∧
    decodeTableWord 32 0xA4F2C879 = some (.vcvt 8 11 15 1 5) ∧
    decodeTableWord 32 0x08F3097B = some (.vpackF16X2 9 12 15 2) ∧
    decodeTableWord 32 0x2D034A7B = some (.vpackBf16x2 10 13 16 3) ∧
    decodeTableWord 32 0x44038B7B = some (.vpackE2M1X 11 14 1) ∧
    decodeTableWord 32 0x6803CC7B = some (.vunpklF16 12 15 2) ∧
    decodeTableWord 32 0x8C040D7B = some (.vunpkhF16 13 16 3) ∧
    decodeTableWord 32 0xB0044E7B = some (.vunpklBf16 14 17 4) ∧
    decodeTableWord 32 0xD4048F7B = some (.vunpkhBf16 15 18 5) ∧
    decodeTableWord 32 0x0002007D = some (.setfmt 16) := by
  refine ⟨?_, ?_, ?_, ?_, ?_, ?_, ?_, ?_, ?_, ?_, ?_, ?_⟩ <;> rfl

theorem test_decode_13 :
    decodeTableWord 32 0x0080117D = some (.getfmt 17) ∧
    decodeTableWord 32 0x0005527F = some (.vfclassF32 18 21 0) ∧
    decodeTableWord 32 0x2405937F = some (.vfclassF16X2 19 22 1) ∧
    decodeTableWord 32 0x15A5D481 = some (.vshfl 20 23 26 5) ∧
    decodeTableWord 32 0x0F361583 = some (.vshfliXor 21 24 3 30) ∧
    decodeTableWord 32 0x1FC65683 = some (.vshfliUp 22 25 4 31) ∧
    decodeTableWord 32 0x20569783 = some (.vshfliDown 23 26 5 0) ∧
    decodeTableWord 32 0x03E6D885 = some (.vbc 24 27 30 1) ∧
    decodeTableWord 32 0x0380E187 = some (.vballot 1 28 7) ∧
    decodeTableWord 32 0x0000EA89 = some (.voteAll 2 29 0) ∧
    decodeTableWord 32 0x2080F389 = some (.voteAny 3 30 1) ∧
    decodeTableWord 32 0x4100FC89 = some (.voteNone 4 31 2) := by
  refine ⟨?_, ?_, ?_, ?_, ?_, ?_, ?_, ?_, ?_, ?_, ?_, ?_⟩ <;> rfl

theorem test_decode_14 :
    decodeTableWord 32 0x61810589 = some (.voteUni 5 32 3) ∧
    decodeTableWord 32 0x10085E8B = some (.vfirst 30 33 4) ∧
    decodeTableWord 32 0x000A178D = some (.mand 7 2 5) ∧
    decodeTableWord 32 0x040C188D = some (.mor 0 3 6) ∧
    decodeTableWord 32 0x080E218D = some (.mxor 1 4 7) ∧
    decodeTableWord 32 0x0C002A8D = some (.mnot 2 5) ∧
    decodeTableWord 32 0x1002338D = some (.mandn 3 6 1) ∧
    decodeTableWord 32 0x0000E48F = some (.mmovs 4 7) ∧
    decodeTableWord 32 0x0081058F = some (.mmovm 5 8) ∧
    decodeTableWord 32 0x0100268F = some (.mpopc 6 1) ∧
    decodeTableWord 32 0x6716A791 = some (.vldc 39 10 5 0 7 6) ∧
    decodeTableWord 32 0x7A3AE893 = some (.vstc 40 11 6 1 10 7) := by
  refine ⟨?_, ?_, ?_, ?_, ?_, ?_, ?_, ?_, ?_, ?_, ?_, ?_⟩ <;> rfl

theorem test_decode_15 :
    decodeTableWord 32 0x3ABF2995 = some (.vldg 41 12 47 2 7) ∧
    decodeTableWord 32 0x53C36A97 = some (.vstg 42 13 48 3 10) ∧
    decodeTableWord 32 0xA787AB99 = some (.vldb 43 14 1 4 7 10) ∧
    decodeTableWord 32 0x1719EC9B = some (.sld 12 15 2 1 184) ∧
    decodeTableWord 32 0x16CC0D9D = some (.sst 13 0 3 182) ∧
    decodeTableWord 32 0x7087809F = some (.prfc 14 1 4 7) ∧
    decodeTableWord 32 0x000BC0A1 = some (.sprec 15 2) ∧
    decodeTableWord 32 0x00CC30A3 = some (.spld 48 3 6) ∧
    decodeTableWord 32 0x00F031A5 = some (.spst 49 4 7) ∧
    decodeTableWord 32 0x84BE35AD = some (.atomvAddI32 2 53 56 11 4 1) ∧
    decodeTableWord 32 0x0CCE76AF = some (.atomvAddF32 3 54 57 12 4 0) ∧
    decodeTableWord 32 0x94DEB7A9 = some (.atomvMinS32 0 55 58 13 4 1) := by
  refine ⟨?_, ?_, ?_, ?_, ?_, ?_, ?_, ?_, ?_, ?_, ?_, ?_⟩ <;> rfl

theorem test_decode_16 :
    decodeTableWord 32 0x1CEEF8AB = some (.atomvMaxS32 1 56 59 14 4 0) ∧
    decodeTableWord 32 0xA4FF39AD = some (.atomvMinU32 2 57 60 15 4 1) ∧
    decodeTableWord 32 0x2C0F7AAF = some (.atomvMaxU32 3 58 61 0 4 0) ∧
    decodeTableWord 32 0xB41FBBA9 = some (.atomvAnd 0 59 62 1 4 1) ∧
    decodeTableWord 32 0x3C2FFCAB = some (.atomvOr 1 60 63 2 4 0) ∧
    decodeTableWord 32 0xC4303DAD = some (.atomvXor 2 61 0 3 4 1) ∧
    decodeTableWord 32 0x4C407EAF = some (.atomvXchg 3 62 1 4 4 0) ∧
    decodeTableWord 32 0xD450BFA9 = some (.atomvCas 0 63 2 5 4 1) ∧
    decodeTableWord 32 0x5C60C0AB = some (.atomvMaxlF16 1 0 3 6 4 0) ∧
    decodeTableWord 32 0xE47101AD = some (.atomvMinlF16 2 1 4 7 4 1) ∧
    decodeTableWord 32 0x6C8206AF = some (.atomvAddI64 3 6 8 8 4 0) ∧
    decodeTableWord 32 0x849183B1 = some (.atomsAddI32 0 3 6 9 4 1) := by
  refine ⟨?_, ?_, ?_, ?_, ?_, ?_, ?_, ?_, ?_, ?_, ?_, ?_⟩ <;> rfl

theorem test_decode_17 :
    decodeTableWord 32 0x0CA1C4B3 = some (.atomsAddF32 1 4 7 10 4 0) ∧
    decodeTableWord 32 0x94B205B5 = some (.atomsMinS32 2 5 8 11 4 1) ∧
    decodeTableWord 32 0x1CC246B7 = some (.atomsMaxS32 3 6 9 12 4 0) ∧
    decodeTableWord 32 0xA4D287B1 = some (.atomsMinU32 0 7 10 13 4 1) ∧
    decodeTableWord 32 0x2CE2C8B3 = some (.atomsMaxU32 1 8 11 14 4 0) ∧
    decodeTableWord 32 0xB4F309B5 = some (.atomsAnd 2 9 12 15 4 1) ∧
    decodeTableWord 32 0x3C034AB7 = some (.atomsOr 3 10 13 0 4 0) ∧
    decodeTableWord 32 0xC4138BB1 = some (.atomsXor 0 11 14 1 4 1) ∧
    decodeTableWord 32 0x4C23CCB3 = some (.atomsXchg 1 12 15 2 4 0) ∧
    decodeTableWord 32 0xD4340DB5 = some (.atomsCas 2 13 16 3 4 1) ∧
    decodeTableWord 32 0x5C444EB7 = some (.atomsMaxlF16 3 14 17 4 4 0) ∧
    decodeTableWord 32 0xE4548FB1 = some (.atomsMinlF16 0 15 18 5 4 1) := by
  refine ⟨?_, ?_, ?_, ?_, ?_, ?_, ?_, ?_, ?_, ?_, ?_, ?_⟩ <;> rfl

theorem test_decode_18 :
    decodeTableWord 32 0x6C64D0B3 = some (.atomsAddI64 1 16 19 6 4 0) ∧
    decodeTableWord 32 0x01C5C0B9 = some (.binit 14 17 3) ∧
    decodeTableWord 32 0x0001E0BB = some (.barv 15 0) ∧
    decodeTableWord 32 0x014C00BB = some (.barx 0 19 0) ∧
    decodeTableWord 32 0x025C91BB = some (.btry 17 4 23) ∧
    decodeTableWord 32 0x005440BD = some (.bwait 2 21) ∧
    decodeTableWord 32 0x000000BF = some (.barg) ∧
    decodeTableWord 32 0x06DC80C1 = some (.waitc 4 23 5 1) ∧
    decodeTableWord 32 0x020000C3 = some (.fence 4) ∧
    decodeTableWord 32 0x028000C3 = some (.fenceSc) ∧
    decodeTableWord 32 0x000000C5 = some (.fwaitc) ∧
    decodeTableWord 32 0x000000C7 = some (.yield) := by
  refine ⟨?_, ?_, ?_, ?_, ?_, ?_, ?_, ?_, ?_, ?_, ?_, ?_⟩ <;> rfl

theorem test_decode_19 :
    decodeTableWord 32 0x008000C7 = some (.qend) ∧
    decodeTableWord 32 0x010000C7 = some (.dispre) ∧
    decodeTableWord 32 0x018000C7 = some (.enpre) ∧
    decodeTableWord 32 0x020000C7 = some (.exit) ∧
    decodeTableWord 32 0x00001DC9 = some (.acq 29 0) ∧
    decodeTableWord 32 0x0007C0CB = some (.acrel 30 1) ∧
    decodeTableWord 32 0x05002FCD = some (.aczero 15 2 5) ∧
    decodeTableWord 32 0x042C39CF = some (.acrd 9 3 6 1 4) ∧
    decodeTableWord 32 0x054E41D1 = some (.acwr 1 4 7 2 5) ∧
    decodeTableWord 32 0x067052D3 = some (.accvt 2 5 8 3 6) ∧
    decodeTableWord 32 0x202C03D5 = some (.ldsw 3 6 1 0 1) ∧
    decodeTableWord 32 0x800004D5 = some (.swapw 4) := by
  refine ⟨?_, ?_, ?_, ?_, ?_, ?_, ?_, ?_, ?_, ?_, ?_, ?_⟩ <;> rfl

theorem test_decode_20 :
    decodeTableWord 32 0x11D685D7 = some (.mma 5 8 11 6 1 0 1 0) ∧
    decodeTableWord 32 0x0000C0D9 = some (.fwait 6) ∧
    decodeTableWord 32 0x000147DB = some (.ftest 7 10) ∧
    decodeTableWord 32 0x000100DD = some (.fcancel 8) ∧
    decodeTableWord 32 0x000189DF = some (.fmov 9 12) ∧
    decodeTableWord 32 0x0081AADF = some (.fbind 10 13) ∧
    decodeTableWord 32 0x003960E1 = some (.dhset 11 14) ∧
    decodeTableWord 32 0x008180E1 = some (.dhwait 12) ∧
    decodeTableWord 32 0x01020DE1 = some (.dhget 13 16) ∧
    decodeTableWord 32 0x0181C0E1 = some (.dhrel 14) ∧
    decodeTableWord 32 0x00544FE3 = some (.wptr 15 2 21) ∧
    decodeTableWord 32 0x033639E9 = some (.cpyq 9 3 22 25) := by
  refine ⟨?_, ?_, ?_, ?_, ?_, ?_, ?_, ?_, ?_, ?_, ?_, ?_⟩ <;> rfl

theorem test_decode_21 :
    decodeTableWord 32 0x028010EB = some (.pub 1 20) ∧
    decodeTableWord 32 0x024000ED = some (.opbeg 18) ∧
    decodeTableWord 32 0x073630ED = some (.oparg 3 22 25) ∧
    decodeTableWord 32 0x0B4074ED = some (.opend 4 7 26) ∧
    decodeTableWord 32 0x000085EF = some (.lnch 5 8) ∧
    decodeTableWord 32 0x000016F1 = some (.chrd 22) ∧
    decodeTableWord 32 0x008017F1 = some (.chbase 23) ∧
    decodeTableWord 32 0x001800F3 = some (.chwait 24) ∧
    decodeTableWord 32 0x001900F5 = some (.chslipHold 25) ∧
    decodeTableWord 32 0x041A00F5 = some (.chslipSkip 26) ∧
    decodeTableWord 32 0x0081EBF7 = some (.tsend 11 14 1 4) ∧
    decodeTableWord 32 0x07FC00F7 = some (.trecv 28 31) := by
  refine ⟨?_, ?_, ?_, ?_, ?_, ?_, ?_, ?_, ?_, ?_, ?_, ?_⟩ <;> rfl

theorem test_decode_22 :
    decodeTableWord 32 0x0BA000F7 = some (.rpt 29) ∧
    decodeTableWord 32 0x01F800F9 = some (.trap 126) ∧
    decodeTableWord 32 0x000000FB = some (.eret) ∧
    decodeTableWord 32 0x008000FB = some (.brk) ∧
    decodeTableWord 32 0x010020FB = some (.sigck 1) ∧
    decodeTableWord 32 0x000102FF = some (.udf) := by
  refine ⟨?_, ?_, ?_, ?_, ?_, ?_⟩ <;> rfl

theorem test_decode_xaedq :
    decodeXaedq 0x0093018B = some (.qfetch 3 6 9) ∧
    decodeXaedq 0x0093118B = some (.xaedqBfx 3 6 9) ∧
    decodeXaedq 0x0093218B = some (.xaedqBfxS 3 6 9) ∧
    decodeXaedq 0x0003318B = some (.sigwait 3 6 0) ∧
    decodeXaedq 0x0093418B = some (.dispatch 3 6 9) := by
  refine ⟨?_, ?_, ?_, ?_, ?_⟩ <;> rfl

/-! ## Checks on the fields of an instruction, each with a term it refuses -/

theorem test_ill_formed_fields :
    ∀ i ∈ [Instr.bfx 1 2 0 63 0, .bfx 1 2 63 0 1, .bfi 1 2 1 62, .mfs 1 0x045, .mts 1 0x044, .bc 1 2 5 0, .loopl 1 2, .loopb 1 2, .vcmpS32 1 2 3 4 5,
        .vcmpU32 1 2 3 4 5, .vcvt 1 2 15 0 5, .vldc 1 2 3 4 7 0, .vldc 1 2 3 4 0 0, .vstc 1 2 3 4 11 0, .vldg 1 2 3 4 4, .vstg 1 2 3 4 8, .vldb 1 2 3 4 0 0,
        .sld 1 2 3 0 0, .sld 1 2 2 1 0, .atomvAnd 0 1 2 3 4 1, .atomvCas 0 1 62 3 0 1, .atomvAddI64 0 62 62 3 0 1, .atomsAnd 0 1 2 3 4 1, .atomsCas 0 1 30 3 0 1,
        .binit 1 2 1, .binit 1 2 4, .waitc 1 2 5 0, .fence 4, .aczero 1 2 3, .swapw 1], i.wellFormed = true := by decide

theorem test_ill_formed_refused :
    ∀ i ∈ [Instr.bfx 1 2 1 63 0, .bfi 1 2 63 1, .mfs 1 0x00A, .mfs 1 0x046, .mts 1 0x020, .bc 1 2 6 0, .loopl 1 1, .loopb 1 1, .vcmpS32 1 2 3 4 6,
        .vcmpU32 1 2 3 4 7, .vcvt 1 2 16 0 0, .vcvt 1 2 0 0 6, .vldc 1 2 3 4 1 0, .vldc 1 2 3 4 8 0, .vstc 1 2 3 4 4 0, .vldg 1 2 3 4 12, .vstg 1 2 3 4 12, .vldb 1 2 3 4 15 0,
        .sld 1 2 3 1 0] ++
      [.atomvAddI32 0 1 2 3 5 1, .atomvAddF32 0 1 2 3 5 1, .atomvMinS32 0 1 2 3 5 1, .atomvMaxS32 0 1 2 3 5 1, .atomvMinU32 0 1 2 3 5 1, .atomvMaxU32 0 1 2 3 5 1,
        .atomvAnd 0 1 2 3 5 1, .atomvOr 0 1 2 3 5 1, .atomvXor 0 1 2 3 5 1, .atomvXchg 0 1 2 3 5 1, .atomvCas 0 1 2 3 5 1, .atomvCas 0 1 63 3 0 1, .atomvMaxlF16 0 1 2 3 5 1,
        .atomvMinlF16 0 1 2 3 5 1, .atomvAddI64 0 2 2 3 5 1, .atomvAddI64 0 3 2 3 0 1, .atomvAddI64 0 2 3 3 0 1] ++
      [.atomsAddI32 0 1 2 3 5 1, .atomsAddF32 0 1 2 3 5 1, .atomsMinS32 0 1 2 3 5 1, .atomsMaxS32 0 1 2 3 5 1, .atomsMinU32 0 1 2 3 5 1, .atomsMaxU32 0 1 2 3 5 1,
        .atomsAnd 0 1 2 3 5 1, .atomsOr 0 1 2 3 5 1, .atomsXor 0 1 2 3 5 1, .atomsXchg 0 1 2 3 5 1, .atomsCas 0 1 2 3 5 1, .atomsCas 0 1 31 3 0 1, .atomsMaxlF16 0 1 2 3 5 1,
        .atomsMinlF16 0 1 2 3 5 1, .atomsAddI64 0 1 2 3 5 1] ++
      [.binit 1 2 0, .binit 1 2 5, .waitc 1 2 6 0, .fence 5, .aczero 0 2 3, .acrd 0 1 2 3 4, .acwr 0 1 2 3 4, .accvt 0 1 2 3 4, .ldsw 0 1 2 0 0, .swapw 0,
        .mma 0 1 2 3 4 0 0 0], i.wellFormed = false := by decide

/-! ## Small states -/

/-- One wave with all its lanes on core 0 of desk 0, outside chorus mode, with all of R32's values. -/
def calm : State := State.reset.withFetchWord 32 1

/-- Its fragment. -/
def calmFrag : Frag := { pc := 0x2000000, mask := 0xFFFFFFFF }

/-- `calm` with its wave changed. -/
def waved (g : Wave → Wave) : State := { calm with wave := g calm.wave }

/-- The launch tree of `calm` in chorus mode, its one page pinned. -/
def chorusT : Tree := { fetchTree with cmode := true, pins := [{ va := 0x2000000, pte := 0x4008, raw := 0x200003F, size := 0x2000000 }] }

/-- `calm` in chorus mode, its wave changed. -/
def chorus (g : Wave → Wave) : State := { calm with wave := g calm.wave, trees := [chorusT] }

theorem ready_of {i : Instr} {s : State} {f : Frag} {t : Tree} (h1 : s.wave.frag = some f) (h2 : s.tree? s.wave.tree = some t)
    (h3 : s.wave.sigmis = none) (h4 : s.wave.errs = []) (h5 : i.wellFormed = true) (h6 : s.wave.lcnt = 0) (h7 : f.after = none) (h8 : s.wave.far = []) :
    Ready i s f t :=
  ⟨h1, h2, .inl h3, .inl h4, h5, fun h => absurd h6 h, fun _ => h7, by rw [Wave.pendingOn, h8]; rfl⟩

theorem calm_ready (i : Instr) (h : i.wellFormed = true) : Ready i calm calmFrag fetchTree := ready_of rfl rfl rfl rfl h rfl rfl rfl

theorem chorus_ready (i : Instr) (h : i.wellFormed = true) : Ready i (chorus id) calmFrag chorusT := ready_of rfl rfl rfl rfl h rfl rfl rfl

/-- Address registers of the witnesses: a1 in the own slice, a2 in a page of device memory, a3 odd, a4 even. -/
def addresses (w : Wave) : Wave := (((w.wa 1 0x100).wa 2 0x2000100).wa 3 0x2000001).wa 4 0x2000004

/-! ## Every statement's hypotheses are met somewhere: scalar, control, vector -/

theorem witness_ScalarTwoSourceResults : ∀ x ∈ scalarTwo, Ready (x.1 31 31 31) calm calmFrag fetchTree := by
  intro x h
  simp only [scalarTwo, List.mem_cons, List.not_mem_nil, or_false] at h
  rcases h with rfl | rfl | rfl | rfl | rfl | rfl | rfl | rfl | rfl | rfl | rfl | rfl | rfl | rfl | rfl | rfl | rfl | rfl | rfl | rfl | rfl | rfl <;>
    exact calm_ready _ rfl

theorem witness_OneSourceAndMoveResults :
    (∀ i ∈ [Instr.shli 31 31 63, .shri 31 31 63, .srai 31 31 63, .clz 31 31, .ctz 31 31, .popc 31 31, .bfx 31 31 0 63 0, .bfx 31 31 63 0 1, .bfi 31 31 0 63,
      .bfi 31 31 63 0, .sel 31 31 31 31, .addi 31 31 8191, .andi 31 31 8192, .ori 31 31 0, .xori 31 31 16383, .lih 31 524287, .adda 15 15 16383, .mova 15 31 8192,
      .movsa 31 15 8191, .setk 7 31, .getk 31 7], Ready i calm calmFrag fetchTree) ∧
    ∃ v : Dword, ∀ j < 64, v.getLsbD j = if (63 : Nat) ≤ j ∧ j ≤ 63 + 0 then (calm.wave.rs 31).getLsbD (j - 63) else (calm.wave.rs 31).getLsbD j := by
  refine ⟨fun i h => calm_ready i ((by decide : ∀ i ∈ [Instr.shli 31 31 63, .shri 31 31 63, .srai 31 31 63, .clz 31 31, .ctz 31 31, .popc 31 31, .bfx 31 31 0 63 0,
      .bfx 31 31 63 0 1, .bfi 31 31 0 63, .bfi 31 31 63 0, .sel 31 31 31 31, .addi 31 31 8191, .andi 31 31 8192, .ori 31 31 0, .xori 31 31 16383, .lih 31 524287,
      .adda 15 15 16383, .mova 15 31 8192, .movsa 31 15 8191, .setk 7 31, .getk 31 7], i.wellFormed = true) i h), 0, by decide⟩

theorem witness_BitCounts : Ready (.clz 31 31) calm calmFrag fetchTree ∧ (1 : Dword) ≠ 0 ∧ 64 - leadingZeros (1 : Dword) ≤ 63 ∧ (0 : Nat) < trailingZeros (0 : Dword) :=
  ⟨calm_ready _ rfl, by decide, by decide, by decide⟩

theorem reads : ∀ n ∈ [(0x000 : BitVec 14), 0x001, 0x002, 0x003, 0x004, 0x005, 0x006, 0x007, 0x008, 0x009, 0x010, 0x011, 0x020, 0x021, 0x022, 0x040, 0x041, 0x042, 0x043, 0x044,
    0x045], (Instr.mfs 31 n).wellFormed = true := by
  intro n h
  simp only [List.mem_cons, List.not_mem_nil, or_false] at h
  rcases h with rfl | rfl | rfl | rfl | rfl | rfl | rfl | rfl | rfl | rfl | rfl | rfl | rfl | rfl | rfl | rfl | rfl | rfl | rfl | rfl | rfl <;> rfl

theorem writes : ∀ n ∈ [(0x010 : BitVec 14), 0x011, 0x042, 0x043, 0x044], (Instr.mts 31 n).wellFormed = true := by
  intro n h
  simp only [List.mem_cons, List.not_mem_nil, or_false] at h
  rcases h with rfl | rfl | rfl | rfl | rfl <;> rfl

theorem witness_StateRegisters :
    (∀ n ∈ [(0x000 : BitVec 14), 0x001, 0x002, 0x003, 0x004, 0x005, 0x006, 0x007, 0x008, 0x009, 0x010, 0x011, 0x020, 0x021, 0x022, 0x040, 0x041, 0x042, 0x043, 0x044, 0x045],
      Ready (.mfs 31 n) calm calmFrag fetchTree) ∧
    ∀ n ∈ [(0x010 : BitVec 14), 0x011, 0x042, 0x043, 0x044], Ready (.mts 31 n) calm calmFrag fetchTree :=
  ⟨fun n h => calm_ready _ (reads n h), fun n h => calm_ready _ (writes n h)⟩

theorem witness_BranchResults :
    (∀ c ∈ [(0 : BitVec 3), 1, 2, 3, 4, 5], Ready (.bc 31 31 c 1024) calm calmFrag fetchTree) ∧ Ready (.j 8388608) calm calmFrag fetchTree ∧
    Ready (.jal 8388607) calm calmFrag fetchTree ∧ Ready (.jr 15) calm calmFrag fetchTree ∧ ((waved addresses).wave.ra 4).toNat % 2 = 0 ∧
    ((waved addresses).wave.ra 3).toNat % 2 = 1 ∧ Ready (.jr 3) (waved addresses) calmFrag fetchTree :=
  ⟨fun c h => calm_ready _ ((by decide : ∀ c ∈ [(0 : BitVec 3), 1, 2, 3, 4, 5], (Instr.bc 31 31 c 1024).wellFormed = true) c h), calm_ready _ rfl, calm_ready _ rfl,
   calm_ready _ rfl, by decide, by decide, ready_of rfl rfl rfl rfl rfl rfl rfl rfl⟩

/-- BV in handler state, without room (a full split stack), and with room to its last entry. -/
theorem witness_VectorBranchSplits :
    Ready (.bv 7 512 1024) (waved fun w => { w with fault := 0x8000 }) calmFrag fetchTree ∧ (waved fun w => { w with fault := 0x8000 }).wave.hnd = true ∧
    Ready (.bv 7 512 1024) (waved fun w => { w with depth := 64, m := [(7, 1)] }) calmFrag fetchTree ∧ calm.wave.hnd = false ∧ 64 < 64 + splitNeed 2 true ∧
    Ready (.bv 7 511 1023) (waved fun w => { w with depth := 63, m := [(7, 1)] }) calmFrag fetchTree ∧ 63 + splitNeed 2 true ≤ 64 ∧ 63 + splitNeed 2 false = 65 :=
  ⟨ready_of rfl rfl rfl rfl rfl rfl rfl rfl, by decide, ready_of rfl rfl rfl rfl rfl rfl rfl rfl, by decide, by decide, ready_of rfl rfl rfl rfl rfl rfl rfl rfl, by decide, by decide⟩

/-- One lane, a table of one even entry in the own slice; an index at the bound. -/
def tabled : State :=
  { waved fun w => ({ (addresses w) with slotA := some { calmFrag with mask := 1 }, live := 1 } : Wave).ws 1 1 with slices := [(0x100, 8)] }

theorem witness_TableJump :
    Ready (.jtv 63 1 1 256) (waved fun w => { w with fault := 0x8000 }) calmFrag fetchTree ∧
    (Ready (.jtv 63 1 0 256) calm calmFrag fetchTree ∧ (calm.wave.rs 0).toNat ≤ (calm.wave.rv 63 0).toNat) ∧
    Ready (.jtv 63 1 1 255) tabled { calmFrag with mask := 1 } fetchTree ∧ (tabled.wave.rv 63 0).toNat < (tabled.wave.rs 1).toNat ∧
    MayAccess tabled fetchTree .read 4 [(0, 0x100)] ∧ tabled.laneBad 0 1 [(0, 0x100)] = none ∧ tabled.allNear 0 1 [(0, 0x100)] = true ∧
    readNat (tabled.nowByte 0 1) 0x100 4 % 2 = 0 :=
  ⟨ready_of rfl rfl rfl rfl rfl rfl rfl rfl, ⟨calm_ready _ rfl, by decide⟩, ready_of rfl rfl rfl rfl rfl rfl rfl rfl, by decide,
   ⟨by decide, fun _ => by decide, fun h => absurd h (by decide)⟩, by decide, by decide, by decide⟩

theorem witness_TableGroups :
    (∀ x ∈ [(31, 7, (0x20 : Dword)), (0, 7, 0x20), (5, 2, 0x10)], x.1 < 32) ∧ ([(31, 7, (0x20 : Dword)), (0, 7, 0x20), (5, 2, 0x10)].map (·.1)).Nodup := by decide

/-- A loop of a chorus grid whose body is the one instruction after LOOPB, and one whose body is too long. -/
theorem witness_LoopStarts :
    Ready (.loopl 31 2) calm calmFrag fetchTree ∧ Ready (.loopl 31 2) (waved fun w => { w with fault := 0x8000 }) calmFrag fetchTree ∧
    Ready (.loopl 31 1023) (waved fun w => { w with lcnt := 1, loopEnd := 0x2000100 }) calmFrag fetchTree ∧
    ((waved fun w => w.ws 1 1).wave.rs 1).setWidth 32 ≠ (0 : Word) ∧ Ready (.loopb 1 2) (chorus fun w => w.ws 1 1) calmFrag chorusT ∧
    (chorus id).wave.tw = 0 ∧ (0x2000004 - (0x2000000 + 4) : Dword).toNat + (chorus id).lenAt chorusT 0 0x2000004 ≤ 257 ∧
    257 < (0x2000000 + 2 * (1023 : Dword) - (0x2000000 + 4)).toNat :=
  ⟨calm_ready _ (by decide), ready_of rfl rfl rfl rfl (by decide) rfl rfl rfl,
   ⟨rfl, rfl, .inl rfl, .inl rfl, by decide, fun _ h => absurd h (by decide), fun _ => rfl, rfl⟩, by decide, ready_of rfl rfl rfl rfl (by decide) rfl rfl rfl, rfl, by decide,
   by decide⟩

theorem witness_VectorIntegerAndFieldResults :
    (∀ x ∈ vectorTwo, Ready (x.1 63 63 63 7) calm calmFrag fetchTree) ∧ (∀ x ∈ vectorOne, Ready (x.1 63 63 7) calm calmFrag fetchTree) ∧
    (∀ x ∈ shortTwo, Ready (x.1 63 31) calm calmFrag fetchTree) ∧
    (∀ i ∈ [Instr.vmadI32 63 63 63 7, .vsel 63 63 63 7, .vaddiI32 63 63 7 256, .vshli 63 63 7 31, .vshri 63 63 7 31, .vsrai 63 63 7 31, .vmovs 63 31 7, .vlane 63 7, .vmovi 63 7 511,
      .vbfxU32 63 63 31 7, .vbfxS32 63 63 31 7], Ready i calm calmFrag fetchTree) ∧
    ∃ op : Nat → Word, ∀ l, ∀ j < 32, (op l).getLsbD j = if j < 32 then (if 31 + j < 32 then (calm.wave.rv 63 l).getLsbD (31 + j) else false) else false :=
  ⟨fun x h => calm_ready _ ((by decide : ∀ x ∈ vectorTwo, (x.1 63 63 63 7).wellFormed = true) x h),
   fun x h => calm_ready _ ((by decide : ∀ x ∈ vectorOne, (x.1 63 63 7).wellFormed = true) x h),
   fun x h => calm_ready _ ((by decide : ∀ x ∈ shortTwo, (x.1 63 31).wellFormed = true) x h),
   fun i h => calm_ready i ((by decide : ∀ i ∈ [Instr.vmadI32 63 63 63 7, .vsel 63 63 63 7, .vaddiI32 63 63 7 256, .vshli 63 63 7 31, .vshri 63 63 7 31, .vsrai 63 63 7 31,
      .vmovs 63 31 7, .vlane 63 7, .vmovi 63 7 511, .vbfxU32 63 63 31 7, .vbfxS32 63 63 31 7], i.wellFormed = true) i h),
   fun l => calm.wave.rv 63 l >>> 31, fun l j h => by rw [BitVec.getLsbD_ushiftRight]; by_cases h' : 31 + j < 32 <;> simp [h, h', BitVec.getLsbD_of_ge, Nat.le_of_not_lt]⟩

theorem witness_CompareShuffleAndVoteResults :
    ∀ i ∈ [Instr.vcmpS32 7 63 63 7 0, .vcmpS32 7 63 63 7 5, .vcmpU32 7 63 63 7 5, .vfcmpF32 7 63 63 7 7, .vballot 7 63 7, .vshfl 63 63 63 7, .vshfliXor 63 63 7 31, .vshfliUp 63 63 7 31,
      .vshfliDown 63 63 7 31, .vbc 63 63 31 7, .vfirst 63 63 0, .vfirst 63 63 7, .voteAll 7 63 7, .voteAny 7 63 7, .voteNone 7 63 7, .voteUni 7 63 7, .mand 7 7 7, .mor 7 7 7, .mxor 7 7 7,
      .mnot 7 7, .mandn 7 7 7, .mmovs 31 7, .mmovm 7 31, .mpopc 31 7], Ready i calm calmFrag fetchTree :=
  fun i h => calm_ready i ((by decide : ∀ i ∈ [Instr.vcmpS32 7 63 63 7 0, .vcmpS32 7 63 63 7 5, .vcmpU32 7 63 63 7 5, .vfcmpF32 7 63 63 7 7, .vballot 7 63 7, .vshfl 63 63 63 7,
      .vshfliXor 63 63 7 31, .vshfliUp 63 63 7 31, .vshfliDown 63 63 7 31, .vbc 63 63 31 7, .vfirst 63 63 0, .vfirst 63 63 7, .voteAll 7 63 7, .voteAny 7 63 7, .voteNone 7 63 7,
      .voteUni 7 63 7, .mand 7 7 7, .mor 7 7 7, .mxor 7 7 7, .mnot 7 7, .mandn 7 7 7, .mmovs 31 7, .mmovm 7 31, .mpopc 31 7], i.wellFormed = true) i h)

/-- VFIRST with all lanes and with none. -/
theorem witness_ShuffleResults : (calmFrag.mask &&& calm.wave.rm 0).getLsbD 0 = true ∧ calmFrag.mask &&& calm.wave.rm 7 = 0 := by decide

theorem witness_VectorFloatResults :
    (∀ x ∈ floatTwo, Ready (x.1 63 63 63 7) calm calmFrag fetchTree) ∧ (∀ x ∈ shortFloat, Ready (x.1 63 31) calm calmFrag fetchTree) ∧
    (∀ x ∈ floatHalves, Ready (x.1 63 63 63 7) calm calmFrag fetchTree) ∧ (∀ x ∈ floatOne, Ready (x.1 63 63 7) calm calmFrag fetchTree) ∧
    (∀ x ∈ floatFused, Ready (x.1 63 63 63 7) calm calmFrag fetchTree ∧ Ready (x.2.1 63 63 63 7) calm calmFrag fetchTree) ∧
    Ready (.vfrcpF16X2 63 63 7) calm calmFrag fetchTree ∧ Ready (.vfrsqF16X2 63 63 7) calm calmFrag fetchTree :=
  ⟨fun x h => calm_ready _ ((by decide : ∀ x ∈ floatTwo, (x.1 63 63 63 7).wellFormed = true) x h),
   fun x h => calm_ready _ ((by decide : ∀ x ∈ shortFloat, (x.1 63 31).wellFormed = true) x h),
   fun x h => calm_ready _ ((by decide : ∀ x ∈ floatHalves, (x.1 63 63 63 7).wellFormed = true) x h),
   fun x h => calm_ready _ ((by decide : ∀ x ∈ floatOne, (x.1 63 63 7).wellFormed = true) x h),
   fun x h => ⟨calm_ready _ ((by decide : ∀ x ∈ floatFused, (x.1 63 63 63 7).wellFormed = true) x h), calm_ready _ ((by decide : ∀ x ∈ floatFused, (x.2.1 63 63 63 7).wellFormed = true) x h)⟩,
   calm_ready _ rfl, calm_ready _ rfl⟩

theorem witness_RoundingOfALane : (31 < 32) ∧ (0 : Word).getLsbD 19 = false ∧ (0x80000 : Word).getLsbD 19 = true := by decide

/-- A fragment whose FMT holds a reserved rounding, and one that rounds at random. -/
theorem witness_ConversionAndPackResults :
    (∀ i ∈ [Instr.vcvt 63 63 15 7 4, .vcvt 63 63 0 7 5, .vpackF16X2 63 63 63 7, .vpackBf16x2 63 63 63 7, .vpackE2M1X 63 63 7, .setfmt 31, .getfmt 31], Ready i calm calmFrag fetchTree) ∧
    Ready (.vcvt 63 63 0 7 5) (waved fun w => w.setFrag { calmFrag with fmt := 0x50000 }) { calmFrag with fmt := 0x50000 } fetchTree ∧ 5 ≤ (0x50000 : Word).toNat / 65536 % 8 ∧
    Ready (.vcvt 63 63 0 7 5) (waved fun w => w.setFrag { calmFrag with fmt := 0xC0000 }) { calmFrag with fmt := 0xC0000 } fetchTree ∧ (0xC0000 : Word).toNat / 65536 % 8 = 4 :=
  ⟨fun i h => calm_ready i ((by decide : ∀ i ∈ [Instr.vcvt 63 63 15 7 4, .vcvt 63 63 0 7 5, .vpackF16X2 63 63 63 7, .vpackBf16x2 63 63 63 7, .vpackE2M1X 63 63 7, .setfmt 31,
      .getfmt 31], i.wellFormed = true) i h), ready_of rfl rfl rfl rfl (by decide) rfl rfl rfl, by decide, ready_of rfl rfl rfl rfl (by decide) rfl rfl rfl, by decide⟩

/-! ## Loads, stores, patterns, atomics: near, far, of no lane, in chorus mode -/

/-- Lanes at consecutive words. -/
def lanes32 (a : Nat) : List (Nat × Nat) := (List.range 32).map fun l => (l, a + 4 * l)

theorem near_may : MayAccess (waved addresses) fetchTree .read 4 (lanes32 0x100) ∧ MayAccess (waved addresses) fetchTree .write 4 (lanes32 0x100) := by
  refine ⟨⟨by decide, fun _ => by decide, fun h => absurd h (by decide)⟩, ⟨by decide, fun _ => by decide, fun h => absurd h (by decide)⟩⟩

theorem far_may : MayAccess (waved addresses) fetchTree .read 4 [(31, 0x2000100)] ∧ MayAccess (waved addresses) fetchTree .write 4 [(31, 0x2000100)] := by
  refine ⟨⟨by decide, fun _ => by decide, fun h => absurd h (by decide)⟩, ⟨by decide, fun _ => by decide, fun h => absurd h (by decide)⟩⟩

theorem none_may (s : State) (need : Need) (size : Nat) (h : s.wave.qnt ≤ 0) : MayAccess s fetchTree need size [] :=
  ⟨by unfold State.checkLanes; rfl, fun _ => ⟨h, by simp [State.nearBusy, State.ownOffsets], by simp [State.engineWaits]⟩, fun h => absurd h (by decide)⟩

theorem chorus_may : MayAccess (chorus addresses) chorusT .read 4 [(31, 0x100)] ∧ MayAccess (chorus addresses) chorusT .write 4 [(31, 0x100)] := by
  refine ⟨⟨by decide, fun h => absurd h (by decide), fun _ => by decide⟩, ⟨by decide, fun h => absurd h (by decide), fun _ => by decide⟩⟩

theorem addresses_ready (i : Instr) (h : i.wellFormed = true) : Ready i (waved addresses) calmFrag fetchTree := ready_of rfl rfl rfl rfl h rfl rfl rfl

/-- A modulo region of one byte: an address at its end lies outside. -/
def modulo (w : Wave) : Wave := ((w.wk 1 0x100000000).wa 5 1)

/-- Pattern slot 7 valid. -/
def patterned (w : Wave) : Wave := { w with pats := w.pats.put {} 7 { base := 0x200, lstr := 4, astr := 128, count := 1, cur := 0x200, valid := true } }

/-- The loads: the address form holds with modulo off and faults at the end of a region; a pattern slot empty and valid; BTRY on an object of the own slice. The lanes of an
access near, far, and none; a form that makes a result. -/
theorem witness_LoadResults :
    (∀ i ∈ [Instr.vldc 63 1 0 0 0 7, .vldb 63 1 0 0 0 8, .vldg 63 63 1 7 0, .sld 31 1 3 0 1024, .sld 0 1 0 1 1023, .btry 31 1 31, .spld 63 7 7],
      Ready i (waved addresses) calmFrag fetchTree) ∧
    (∀ l, wrap ((waved addresses).wave.ra 1) ((waved addresses).wave.rk 0) (BitVec.ofNat 64 (4 * l)) = some (0x100 + BitVec.ofNat 64 (4 * l))) ∧
    (wrap ((waved modulo).wave.ra 5) ((waved modulo).wave.rk 1) 0 = none ∧ Ready (.vldc 63 5 1 0 0 0) (waved modulo) calmFrag fetchTree) ∧
    (waved addresses).wave.pats.get {} 7 = {} ∧ ((waved patterned).wave.pats.get {} 7).valid = true ∧ Ready (.spld 63 7 7) (waved patterned) calmFrag fetchTree ∧
    OnSlice (waved addresses) fetchTree 1 16 .read 0x100 ∧
    MayAccess (waved addresses) fetchTree .read 4 (lanes32 0x100) ∧ (waved addresses).laneBad 0 1 (lanes32 0x100) = none ∧ (waved addresses).allNear 0 1 (lanes32 0x100) = true ∧
    MayAccess (waved addresses) fetchTree .read 4 [(31, 0x2000100)] ∧ (waved addresses).laneBad 0 1 [(31, 0x2000100)] = none ∧
    (waved addresses).allNear 0 1 [(31, 0x2000100)] = false ∧ MayAccess (waved addresses) fetchTree .read 4 [] ∧
    (∃ r, (LoadAs.lanes 63).form [(31, 0)] = some r) ∧ MayAccess (chorus addresses) chorusT .read 4 [(31, 0x100)] := by
  refine ⟨fun i h => addresses_ready i ?_, fun l => rfl, ⟨by decide, ready_of rfl rfl rfl rfl rfl rfl rfl rfl⟩, by decide, by decide, ready_of rfl rfl rfl rfl rfl rfl rfl rfl,
    ⟨rfl, by decide, fun _ => by decide, fun h => absurd h (by decide)⟩, near_may.1, by decide, by decide, far_may.1, by decide, by decide, none_may _ _ _ (Nat.le_refl 0), ⟨_, rfl⟩,
    chorus_may.1⟩
  simp only [List.mem_cons, List.not_mem_nil, or_false] at h
  rcases h with rfl | rfl | rfl | rfl | rfl | rfl | rfl <;> rfl

theorem witness_StoreResults :
    (∀ i ∈ [Instr.vstc 63 1 0 7 8 8, .vstg 63 63 1 7 8, .sst 31 1 3 1024, .spst 63 7 7], Ready i (waved addresses) calmFrag fetchTree) ∧
    MayAccess (waved addresses) fetchTree .write 4 (lanes32 0x100) ∧ MayAccess (waved addresses) fetchTree .write 4 [(31, 0x2000100)] ∧
    MayAccess (waved addresses) fetchTree .write 4 [] ∧ MayAccess (chorus addresses) chorusT .write 4 [(31, 0x100)] ∧ (chorus addresses).lastEffect = none ∧
    Ready (.spst 63 7 7) (waved patterned) calmFrag fetchTree := by
  refine ⟨fun i h => addresses_ready i ?_, near_may.2, far_may.2, none_may _ _ _ (Nat.le_refl 0), chorus_may.2, by decide, ready_of rfl rfl rfl rfl rfl rfl rfl rfl⟩
  simp only [List.mem_cons, List.not_mem_nil, or_false] at h
  rcases h with rfl | rfl | rfl | rfl <;> rfl

/-- Lanes of which one is good and the others fail each check; and lanes that all pass. -/
theorem witness_AccessFaults :
    (∀ x ∈ [(0, 1, (none : Option (Nat × Bool))), (30, 2, some (ALIGN, true)), (31, 3, some (PERM, true)), (29, 4, some (XLATE, true))], x.1 < 32) ∧
    (worst [(0, 1, none), (30, 2, some (ALIGN, true)), (31, 3, some (PERM, true)), (29, 4, some (XLATE, true))]).isSome = true ∧
    worst [(31, 1, none)] = none := by decide

/-- A pattern slot before its last access, at it, and one that never ends; a record of the own slice. -/
theorem witness_PatternsAndPrefetch :
    Ready (.prfc 1 0 7 8) (waved addresses) calmFrag fetchTree ∧ Ready (.sprec 1 7) (waved addresses) calmFrag fetchTree ∧
    MayAccess (waved addresses) fetchTree .read 8 [(32, 0x100), (33, 0x108), (34, 0x110), (35, 0x118)] ∧
    (waved addresses).laneBad 0 1 [(32, 0x100), (33, 0x108), (34, 0x110), (35, 0x118)] = none ∧
    (waved addresses).allNear 0 1 [(32, 0x100), (33, 0x108), (34, 0x110), (35, 0x118)] = true ∧
    ((1 : Word) ≠ 0 ∧ (0 : Word) + 1 = 1) ∧ (0 : Word) + 1 ≠ 2 :=
  ⟨addresses_ready _ rfl, addresses_ready _ rfl, ⟨by decide, fun _ => by decide, fun h => absurd h (by decide)⟩, by decide, by decide, by decide, by decide⟩

/-- Every atomic with result register and operands at their greatest legal numbers; lanes near, far and none. -/
theorem witness_AtomicResults :
    (∀ x ∈ atomics, Ready (x.1 3 62 62 1 0 1) (waved addresses) calmFrag fetchTree ∧ Ready (x.2.1 3 30 30 1 0 1) (waved addresses) calmFrag fetchTree) ∧
    MayAccess (waved addresses) fetchTree .write 4 [(32, 0x100)] ∧ (waved addresses).laneBad 0 1 [(32, 0x100)] = none ∧ (waved addresses).allNear 0 1 [(32, 0x100)] = true ∧
    (waved addresses).wave.status ≠ .idle ∧ MayAccess (waved addresses) fetchTree .write 4 [(31, 0x2000100)] ∧ (waved addresses).laneBad 0 1 [(31, 0x2000100)] = none ∧
    MayAccess (waved addresses) fetchTree .write 4 [] ∧ MayAccess (chorus addresses) chorusT .write 4 [(31, 0x100)] := by
  refine ⟨fun x h => ?_, ⟨by decide, fun _ => by decide, fun h => absurd h (by decide)⟩, by decide, by decide, by decide, far_may.2, by decide, none_may _ _ _ (Nat.le_refl 0), chorus_may.2⟩
  simp only [atomics, List.mem_cons, List.not_mem_nil, or_false] at h
  rcases h with rfl | rfl | rfl | rfl | rfl | rfl | rfl | rfl | rfl | rfl | rfl | rfl | rfl | rfl <;> exact ⟨addresses_ready _ rfl, addresses_ready _ rfl⟩

theorem witness_AtomicWord : 0x27BFF8 % 8 = 0 ∧ 0x27BFF8 < 0x27C000 ∧ 0 % 8 = 0 := by decide

/-! ## Barriers, monitors, fences, scheduling, the end of a wave -/

/-- An update that completes a phase, one that does not, at the greatest first word. -/
theorem witness_BarrierUpdates :
    (0 ≤ barPend 0 ∧ barPend 0 = 0 ∧ (0 : Dword) + 0 = 0) ∧ (1 ≤ barPend (2 ^ 64 - 1) ∧ barPend (2 ^ 64 - 1) ≠ 1) := by decide

/-- Slice words: a barrier object with one arrival left at 0x100, in the own slice. -/
def barred (s : State) : State := { s with slices := s.slices.puts emptyByte 0x100 (binitBytes 1 1) }

/-- A wave whose a1 is in the slice of core 1. -/
def elsewhere (w : Wave) : Wave := ((w.wa 1 0x7E0000400100).ws 31 1)

/-- The tree of two cores. -/
def wideT : Tree := { fetchTree with n := 2 }

/-- `calm` in a tree of two cores, its wave changed. -/
def wide (g : Wave → Wave) : State := { calm with wave := g calm.wave, trees := [wideT] }

theorem slice_ready (i : Instr) (g : Wave → Wave) (h : i.wellFormed = true) (h1 : (g calm.wave).frag = some calmFrag) (h2 : (g calm.wave).tree = 1)
    (h3 : (g calm.wave).sigmis = none) (h4 : (g calm.wave).errs = []) (h5 : (g calm.wave).lcnt = 0) (h6 : (g calm.wave).far = []) :
    Ready i (barred (waved g)) calmFrag fetchTree :=
  ready_of h1 (by show State.tree? _ (g calm.wave).tree = _; rw [h2]; rfl) h3 h4 h h5 rfl h6

/-- Barrier and monitor instructions on an object with one arrival left, with none left, in a remote slice, in chorus mode and after a wait; reload counts 0, 1, 2^20 - 1 and 2^20;
a phase that has completed and one that has not; a condition that holds and one that does not. -/
theorem witness_BarrierAndMonitorResults :
    (∀ i ∈ [Instr.binit 1 31 1, .barx 1 31 0, .barv 1 1, .bwait 1 31, .waitc 1 31 5 1], Ready i (barred (waved addresses)) calmFrag fetchTree) ∧
    OnSlice (barred (waved addresses)) fetchTree 1 16 .write 0x100 ∧ OnSlice (barred (waved addresses)) fetchTree 1 16 .read 0x100 ∧
    OnSlice (barred (waved addresses)) fetchTree 1 8 .read 0x100 ∧ (barred (waved addresses)).nearKey 0x100 = true ∧ (barred (waved addresses)).wave.ticket ≠ some .done ∧
    barPend ((barred (waved addresses)).barrierWords 0x100).1 = 1 ∧ ((barred (waved addresses)).barrierWords 0x100).2 = 0 ∧
    (OnSlice (waved addresses) fetchTree 1 16 .write 0x100 ∧ Ready (.barx 1 31 0) (waved addresses) calmFrag fetchTree ∧ barPend ((waved addresses).barrierWords 0x100).1 = 0) ∧
    (OnSlice (wide elsewhere) wideT 1 16 .write 0x400100 ∧ Ready (.binit 1 31 4) (wide elsewhere) calmFrag wideT ∧ (wide elsewhere).nearKey 0x400100 = false) ∧
    (OnSlice (chorus addresses) chorusT 1 16 .write 0x100 ∧ Ready (.barx 1 31 0) (chorus addresses) calmFrag chorusT) ∧
    (Ready (.barv 1 1) (waved fun w => { w with ticket := some .done }) calmFrag fetchTree ∧ Ready (.bwait 1 31) (waved fun w => { w with ticket := some .done }) calmFrag fetchTree ∧
      Ready (.waitc 1 31 5 0) (waved fun w => { w with ticket := some .done }) calmFrag fetchTree) ∧
    ((0 : Dword).toNat = 0 ∧ 2 ^ 20 ≤ (0x100000 : Dword).toNat ∧ 0 < (1 : Dword).toNat ∧ (0xFFFFF : Dword).toNat < 2 ^ 20) ∧
    (phaseDone ((barred (waved addresses)).monitorNat false 0 0x100 8 % 4096) 4095 = true ∧ phaseDone ((barred (waved addresses)).monitorNat false 0 0x100 8 % 4096) 0 = false) ∧
    (scalarCond 0 (0 : Dword) 0 = true ∧ scalarCond 1 (0 : Dword) 0 = false) := by
  refine ⟨fun i h => ?_, ⟨rfl, by decide, fun _ => by decide, fun h => absurd h (by decide)⟩, ⟨rfl, by decide, fun _ => by decide, fun h => absurd h (by decide)⟩,
    ⟨rfl, by decide, fun _ => by decide, fun h => absurd h (by decide)⟩, rfl, by decide, by decide, by decide,
    ⟨⟨rfl, by decide, fun _ => by decide, fun h => absurd h (by decide)⟩, addresses_ready _ rfl, by decide⟩,
    ⟨⟨rfl, by decide, fun _ => by decide, fun h => absurd h (by decide)⟩, ready_of rfl rfl rfl rfl rfl rfl rfl rfl, by decide⟩,
    ⟨⟨rfl, by decide, fun h => absurd h (by decide), fun _ => by decide⟩, ready_of rfl rfl rfl rfl rfl rfl rfl rfl⟩,
    ⟨ready_of rfl rfl rfl rfl rfl rfl rfl rfl, ready_of rfl rfl rfl rfl rfl rfl rfl rfl, ready_of rfl rfl rfl rfl rfl rfl rfl rfl⟩, by decide, by decide, by decide⟩
  simp only [List.mem_cons, List.not_mem_nil, or_false] at h
  rcases h with rfl | rfl | rfl | rfl | rfl <;> exact slice_ready _ _ rfl rfl rfl rfl rfl rfl rfl

/-- Phases 1 and 2047 apart, and 0 and 2048 apart. -/
theorem witness_PhaseComparison : phaseDone 1 0 = true ∧ phaseDone 2046 4095 = true ∧ phaseDone 0 0 = false ∧ phaseDone 2047 4095 = false := by decide

/-- BARG in a whole wave and in a split one, with co-residency, without it, in a child grid, and after its wait. -/
theorem witness_GridBarrier :
    (Ready .barg calm calmFrag fetchTree ∧ fetchTree.grid? calm.wave.grid = some fetchGrid ∧ calm.wave.hnd = false ∧ calm.wave.getSlot (!calm.wave.cur) = none ∧ calm.wave.depth = 0 ∧
      fetchTree.coRes = false) ∧
    (Ready .barg (waved fun w => { w with depth := 1 }) calmFrag fetchTree ∧ (waved fun w => { w with depth := 1 }).wave.depth ≠ 0) ∧
    (Ready .barg (chorus id) calmFrag chorusT ∧ (chorus id).wave.grid = 0 ∧ (chorus id).wave.ticket ≠ some .done) ∧
    (∃ s t, Ready .barg s calmFrag t ∧ t.cmode = false ∧ t.coRes = true ∧ s.wave.grid = 0 ∧ s.wave.ticket ≠ some .done ∧ MayAccess s t .read 1 []) ∧
    ∃ s t, Ready .barg s calmFrag t ∧ t.coRes = true ∧ s.wave.ticket = some .done := by
  refine ⟨⟨calm_ready _ rfl, rfl, by decide, rfl, rfl, rfl⟩, ⟨ready_of rfl rfl rfl rfl rfl rfl rfl rfl, by decide⟩, ⟨chorus_ready _ rfl, rfl, by decide⟩,
    ⟨{ calm with trees := [{ fetchTree with coRes := true }] }, { fetchTree with coRes := true }, ready_of rfl rfl rfl rfl rfl rfl rfl rfl, rfl, rfl, rfl, by decide,
      by decide, fun _ => by decide, fun h => absurd h (by decide)⟩,
    ⟨{ calm with trees := [{ fetchTree with coRes := true }], wave := { calm.wave with ticket := some .done } }, { fetchTree with coRes := true },
      ready_of rfl rfl rfl rfl rfl rfl rfl rfl, rfl, rfl⟩⟩

/-- A far access of the running quantum, of an earlier one, and a wave in each state of FENCE.SC. -/
def accessed (q : Nat) : Wave → Wave := fun w => { w with fc := 1, far := [{ id := 0, pend := [.v 1], pc := 0, quantum := some q }] }

theorem far_ready (i : Instr) (q : Nat) (h : i.wellFormed = true) (h' : i.touch = []) : Ready i (waved (accessed q)) calmFrag fetchTree :=
  ⟨rfl, rfl, .inl rfl, .inl rfl, h, fun h => absurd rfl h, fun _ => rfl, by rw [h']; rfl⟩

theorem witness_FenceResults :
    (Ready (.fence 4) calm calmFrag fetchTree ∧ Ready (.fence 1) (chorus id) calmFrag chorusT ∧ (chorus id).effectsDue = false ∧
      ∃ s, Ready (.fence 1) s calmFrag chorusT ∧ s.effectsDue = true) ∧
    (Ready .fenceSc calm calmFrag fetchTree ∧ calm.wave.ticket = none ∧ Ready .fenceSc (waved fun w => { w with ticket := some .done }) calmFrag fetchTree ∧
      Ready .fenceSc (waved fun w => { w with ticket := some .ended }) calmFrag fetchTree ∧ Ready .fenceSc (chorus id) calmFrag chorusT) ∧
    (calm.wave.farError = none ∧ calm.wave.fc = 0 ∧ Ready .fwaitc calm calmFrag fetchTree) ∧
    (∀ q, Ready .fwaitc (waved (accessed q)) calmFrag fetchTree ∧ (waved (accessed q)).wave.farError = none ∧ (waved (accessed q)).wave.fc ≠ 0) ∧
    (waved (accessed 0)).wave.far.map (·.quantum) = [some 0] ∧ (waved (accessed 1)).wave.far.map (·.quantum) = [some 1] :=
  ⟨⟨calm_ready _ rfl, chorus_ready _ rfl, rfl, { chorus id with accesses := [{ id := 0, owner := 0, wid := 0, core := 0, at_ := 1, pc := 0, far := true }] },
      ready_of rfl rfl rfl rfl rfl rfl rfl rfl, by decide⟩,
    ⟨calm_ready _ rfl, rfl, ready_of rfl rfl rfl rfl rfl rfl rfl rfl, ready_of rfl rfl rfl rfl rfl rfl rfl rfl, chorus_ready _ rfl⟩, ⟨rfl, rfl, calm_ready _ rfl⟩,
    fun q => ⟨far_ready _ q rfl rfl, rfl, (by decide : (1 : Dword) ≠ 0)⟩, rfl, rfl⟩

theorem witness_SchedulingResults :
    (∀ i ∈ [Instr.yield, .qend, .dispre, .enpre], Ready i calm calmFrag fetchTree) ∧ ∀ i ∈ [Instr.yield, .qend], Ready i (chorus id) calmFrag chorusT :=
  ⟨fun i h => calm_ready i ((by decide : ∀ i ∈ [Instr.yield, .qend, .dispre, .enpre], i.wellFormed = true) i h),
   fun i h => chorus_ready i ((by decide : ∀ i ∈ [Instr.yield, .qend], i.wellFormed = true) i h)⟩

/-- EXIT of some lanes, of the last ones, with an operator open, with a bank owned, and with an access outstanding. -/
theorem witness_ExitResults :
    (Ready .exit calm calmFrag fetchTree ∧ calm.wave.live &&& ~~~calmFrag.mask = 0 ∧ calm.wave.fc = 0 ∧ calm.wave.engErrs = [] ∧ (calm.core 0).ops = [] ∧ calm.wave.op = none) ∧
    (∃ f, Ready .exit (waved fun w => w.setFrag f) f fetchTree ∧ (waved fun w => w.setFrag f).wave.live &&& ~~~f.mask ≠ 0) ∧
    (Ready .exit (waved fun w => { w with op := some { cls := 1 } }) calmFrag fetchTree) ∧
    (∃ s : State, ∃ m, Ready .exit s calmFrag fetchTree ∧ s.team? s.wave = some m ∧ ∃ x ∈ m.owners, x.2 = s.wave.tw + 1) ∧
    Ready .exit (waved (accessed 1)) calmFrag fetchTree ∧ (waved (accessed 1)).wave.fc ≠ 0 ∧ (∀ x ∈ (waved (accessed 1)).wave.far, x.quantum ≠ some (waved (accessed 1)).wave.qnt) :=
  ⟨⟨calm_ready _ rfl, rfl, rfl, rfl, rfl, rfl⟩, ⟨{ calmFrag with mask := 1 }, ready_of rfl rfl rfl rfl rfl rfl rfl rfl, by decide⟩, ready_of rfl rfl rfl rfl rfl rfl rfl rfl,
    ⟨{ calm with teams := [{ fetchTeam with a := 4, owners := [(0, 1)] }] }, { fetchTeam with a := 4, owners := [(0, 1)] }, ready_of rfl rfl rfl rfl rfl rfl rfl rfl, rfl, (0, 1),
      by simp, rfl⟩,
    far_ready _ 1 rfl rfl, (by decide : (1 : Dword) ≠ 0), by intro x h; simp [waved, accessed] at h; subst h; decide⟩

/-! ## Accumulators, weight planes, matrix operations, futures -/

/-- An operand of at most 8192 bytes at 0x100 of the own slice passes its check. -/
theorem near_operand (s : State) (t : Tree) (len al : Nat) (hc : s.wave.core = 0) (hl : len ≤ 8192) (ha : 0x100 % al = 0) : s.operandFault t 0x100 0 len al = none := by
  have hw : ∀ d, wrap 0x100 0 (BitVec.ofNat 64 d) = some (0x100 + BitVec.ofNat 64 d) := fun d => rfl
  have hb : ∀ d < 8192, ((0x100 : Dword) + BitVec.ofNat 64 d).toNat = 0x100 + d := fun d h => by
    rw [BitVec.toNat_add, BitVec.toNat_ofNat]; simp; omega
  unfold State.operandFault
  have h0 : wrap 0x100 0 0 = some 0x100 := rfl
  rw [h0]
  dsimp only
  generalize hg : List.filterMap _ (List.range len) = bad
  have hn : bad = [] := by
    rw [← hg]
    rw [List.filterMap_eq_nil_iff]
    intro d hd
    have hd' : d < 8192 := by have := List.mem_range.mp hd; omega
    rw [hw, Option.getD_some, hb d hd']
    have hl : s.locate s.wave.core t.n (0x100 + d) = .ok (.slice s.wave.core (0x100 + d)) := by
      unfold State.locate
      rw [hc]
      have h1 : 0x100 + d < 0x400000 := by omega
      have h2 : 0x100 + d < 0x27C000 := by omega
      simp [h1, h2]
    rw [hl]; simp
  rw [hn]
  simp [ha]

/-- Four banks owned by the wave; FMT of INT8 operands and an INT32 tile; a1 at an operand of the own slice. -/
def banked : State :=
  { calm with
    wave := (addresses calm.wave).setFrag { calmFrag with fmt := 0x766 }
    teams := [{ fetchTeam with a := 5, owners := [(0, 1), (1, 1), (2, 1), (3, 1)] }] }

def bankTeam : Team := { fetchTeam with a := 5, owners := [(0, 1), (1, 1), (2, 1), (3, 1)] }

def bankFrag : Frag := { calmFrag with fmt := 0x766 }

theorem banked_ready (i : Instr) (h : i.wellFormed = true) : Ready i banked bankFrag fetchTree := ready_of rfl rfl rfl rfl h rfl rfl rfl

theorem banked_may (kind : MKind) (len : Nat) (reads : Bool) (offs : List Nat) : MatrixMay banked fetchTree kind len reads offs :=
  ⟨fun _ _ => Nat.le_refl 0, fun _ => rfl, fun _ => by cases kind <;> decide, fun _ _ _ => rfl, by decide⟩

/-- ACQ of no bank, of more than the pool holds, of a run that is not free, and of one that is; ACREL of what is owned, of what is not, and of a bank in use. -/
theorem witness_BankAllocation :
    (Ready (.acq 31 0) banked bankFrag fetchTree ∧ (banked.wave.rs 0).toNat = 0) ∧
    (∃ s : State, Ready (.acq 31 1) s bankFrag fetchTree ∧ s.team? s.wave = some bankTeam ∧ bankTeam.a < (s.wave.rs 1).toNat) ∧
    (∃ s : State, Ready (.acq 31 1) s bankFrag fetchTree ∧ s.team? s.wave = some bankTeam ∧ 0 < (s.wave.rs 1).toNat ∧
      ∀ x, x + (s.wave.rs 1).toNat ≤ bankTeam.a → ¬ ∀ i < (s.wave.rs 1).toNat, bankTeam.owners.get 0 (x + i) = 0) ∧
    (∃ s : State, Ready (.acq 31 1) s bankFrag fetchTree ∧ s.team? s.wave = some bankTeam ∧ (s.wave.rs 1).toNat = 1 ∧ bankTeam.owners.get 0 4 = 0 ∧
      ∀ y < 4, bankTeam.owners.get 0 y ≠ 0) ∧
    (∃ s : State, Ready (.acrel 0 1) s bankFrag fetchTree ∧ s.team? s.wave = some bankTeam ∧ (s.wave.rs 1).toNat = 4 ∧ (s.core 0).ops = [] ∧
      ∀ i < 4, bankTeam.owners.get 0 (0 + i) = s.wave.tw + 1) ∧
    ∃ s : State, Ready (.acrel 0 1) s bankFrag fetchTree ∧ s.team? s.wave = some bankTeam ∧ (s.wave.rs 1).toNat = 5 := by
  refine ⟨⟨banked_ready _ rfl, by decide⟩, ⟨{ banked with wave := banked.wave.ws 1 6 }, ready_of rfl rfl rfl rfl rfl rfl rfl rfl, rfl, by decide⟩,
    ⟨{ banked with wave := banked.wave.ws 1 2 }, ready_of rfl rfl rfl rfl rfl rfl rfl rfl, rfl, by decide, ?_⟩,
    ⟨{ banked with wave := banked.wave.ws 1 1 }, ready_of rfl rfl rfl rfl rfl rfl rfl rfl, rfl, by decide, by decide, by decide⟩,
    ⟨{ banked with wave := banked.wave.ws 1 4 }, ready_of rfl rfl rfl rfl rfl rfl rfl rfl, rfl, by decide, by decide, by decide⟩,
    ⟨{ banked with wave := banked.wave.ws 1 5 }, ready_of rfl rfl rfl rfl rfl rfl rfl rfl, rfl, by decide⟩⟩
  intro x hx hf
  have hx' : x + 2 ≤ 5 := hx
  have h2 : (2 : Dword).toNat = 2 := rfl
  rcases (by omega : x = 0 ∨ x = 1 ∨ x = 2 ∨ x = 3) with rfl | rfl | rfl | rfl <;>
    exact absurd (hf 0 (by decide)) (by decide)

/-- Every matrix instruction in `banked`: an allowed format, its own tile, an operand that passes; another format; another tile. -/
theorem witness_MatrixCompletions :
    (∀ i ∈ [Instr.aczero 15 0 7, .acrd 15 0 1 0 7, .acwr 15 0 1 0 7, .accvt 15 0 1 0 7, .mma 15 0 1 0 7 1 1 1, .ldsw 15 1 0 1 1, .swapw 15], Ready i banked bankFrag fetchTree) ∧
    OwnsTile banked bankTeam (banked.wave.rs 0).toNat ∧ banked.wave.ra 1 = 0x100 ∧ banked.wave.rk 0 = 0 ∧
    (∀ len ≤ 8192, banked.operandFault fetchTree 0x100 0 len 16 = none) ∧ (∀ kind len reads offs, MatrixMay banked fetchTree kind len reads offs) ∧
    accvtOk bankFrag.fmt = true ∧ 32 * (accvtRow (fmtC bankFrag.fmt) (fmtA bankFrag.fmt)).getD 0 ≤ 8192 ∧ operandLen (fmtA bankFrag.fmt) (fmtScale bankFrag.fmt) 32 ≤ 8192 ∧
    mmaAllowed (fmtA bankFrag.fmt) ((banked.core 0).plane (banked.core 0).active).bfmt (fmtScale bankFrag.fmt) (fmtC bankFrag.fmt) = true ∧
    ((banked.core 0).plane (banked.core 0).active).scale = fmtScale bankFrag.fmt ∧ fmtA bankFrag.fmt ≠ E2M1XC ∧ ldswOk bankFrag.fmt true = true ∧
    operandLen (fmtB bankFrag.fmt) (fmtScale bankFrag.fmt) 64 ≤ 8192 ∧
    (Ready (.accvt 15 0 1 0 7) (waved fun w => w.setFrag { calmFrag with fmt := 0x700 }) { calmFrag with fmt := 0x700 } fetchTree ∧ accvtOk 0x700 = false ∧ ldswOk 0 true = false) ∧
    bankTeam.owns 0 1 4 = false := by
  refine ⟨fun i h => banked_ready i ?_, ⟨rfl, by decide⟩, by decide, by decide, fun len h => near_operand _ _ _ _ rfl h rfl, banked_may, by decide, by decide, by decide, by decide, by decide,
    by decide, by decide, by decide, ⟨ready_of rfl rfl rfl rfl rfl rfl rfl rfl, by decide, by decide⟩, by decide⟩
  simp only [List.mem_cons, List.not_mem_nil, or_false] at h
  rcases h with rfl | rfl | rfl | rfl | rfl | rfl | rfl <;> rfl

theorem witness_MatrixStateEffects :
    Ready (.swapw 15) banked bankFrag fetchTree ∧ MatrixMay banked fetchTree .swapw 0 false [] ∧ Ready (.aczero 15 0 7) banked bankFrag fetchTree ∧ fetchTree.cmode = false ∧
    banked.wave.slot < 16 ∧ OwnsTile banked bankTeam (banked.wave.rs 0).toNat ∧ MatrixMay banked fetchTree .aczero 0 false [] :=
  ⟨banked_ready _ rfl, banked_may _ _ _ _, banked_ready _ rfl, rfl, by decide, ⟨rfl, by decide⟩, banked_may _ _ _ _⟩

/-- A core whose handle h1 names entry 0 as given, at count 1. -/
def handled (e : Handle) : State := { calm with chc := 1, wave := calm.wave.wh 1 (some 0), cores := [(0, { tree := 1, handles := [(0, e)] })] }

theorem handled_ready (e : Handle) (i : Instr) (h : i.wellFormed = true) : Ready i (handled e) calmFrag fetchTree := ready_of rfl rfl rfl rfl h rfl rfl rfl

/-- Handles that name nothing, a complete operation, one under way, and a cancelled one; a free entry. -/
theorem witness_FutureResults :
    (∀ i ∈ [Instr.fwait 15, .ftest 31 15, .fcancel 15, .fmov 15 0, .fbind 15 14], Ready i calm calmFrag fetchTree) ∧ calm.wave.rh 15 = none ∧
    (∀ e, Ready (.fwait 1) (handled e) calmFrag fetchTree ∧ Ready (.ftest 31 1) (handled e) calmFrag fetchTree ∧ Ready (.fcancel 1) (handled e) calmFrag fetchTree ∧
      Ready (.fbind 1 1) (handled e) calmFrag fetchTree ∧ (handled e).wave.rh 1 = some 0 ∧ (handled e).wave.errorOn [0] = none) ∧
    (((handled { kind := 1, state := 2 }).core 0).cancelled bindDepth 0 = true) ∧
    (((handled { kind := 1, state := 1 }).core 0).cancelled bindDepth 0 = false ∧ ((handled { kind := 1, state := 1 }).core 0).leaves bindDepth 0 = [0] ∧
      (Handle.complete { kind := 1, state := 1 } (handled { kind := 1, state := 1 }).chc) = true) ∧
    (((handled { kind := 4, quantum := 1 }).core 0).cancelled bindDepth 0 = false ∧ (Handle.complete { kind := 4, quantum := 1 } 0) = false ∧
      (1 : Nat) ≠ (handled { kind := 4, quantum := 1 }).wave.qnt) ∧ (handled { kind := 1 }).freeHandle 0 = some 1 := by
  refine ⟨fun i h => calm_ready i ((by decide : ∀ i ∈ [Instr.fwait 15, .ftest 31 15, .fcancel 15, .fmov 15 0, .fbind 15 14], i.wellFormed = true) i h), rfl,
    fun e => ⟨handled_ready _ _ rfl, handled_ready _ _ rfl, handled_ready _ _ rfl, handled_ready _ _ rfl, rfl, rfl⟩, by decide, by decide, by decide, by decide⟩

/-! ## The buffer table, engines, publication, operators, launches, the chorus count -/

theorem witness_BufferTable :
    (∀ i ∈ [Instr.dhset 31 30, .dhwait 31, .dhget 31 30, .dhrel 31], Ready i calm calmFrag fetchTree) ∧ ((calm.core 0).bufs.get {} 63).state = 0 ∧
    (∃ s : State, Ready (.dhset 31 30) s calmFrag fetchTree ∧ (s.wave.rs 31).toNat = 63 ∧ (s.wave.rs 30).toNat = 2 ^ 24 - 1 ∧ (s.wave.rs 29).toNat = 64 ∧ (s.wave.rs 28).toNat = 2 ^ 24) ∧
    (∀ b : Buf, ∃ s : State, Ready (.dhwait 31) s calmFrag fetchTree ∧ Ready (.dhget 30 31) s calmFrag fetchTree ∧ Ready (.dhrel 31) s calmFrag fetchTree ∧
      (s.wave.rs 31).toNat < 64 ∧ s.wave.ticket = some .ended ∧ (s.core s.wave.core).bufs.get {} (s.wave.rs 31).toNat = b) ∧
    calm.wave.ticket ≠ some .ended :=
  ⟨fun i h => calm_ready i ((by decide : ∀ i ∈ [Instr.dhset 31 30, .dhwait 31, .dhget 31 30, .dhrel 31], i.wellFormed = true) i h), by decide,
    ⟨waved fun w => (((w.ws 31 63).ws 30 0xFFFFFF).ws 29 64).ws 28 0x1000000, ready_of rfl rfl rfl rfl rfl rfl rfl rfl, by decide, by decide, by decide, by decide⟩,
    fun b => ⟨{ calm with wave := { calm.wave with ticket := some .ended }, cores := [(0, { tree := 1, bufs := [(0, b)] })] }, ready_of rfl rfl rfl rfl rfl rfl rfl rfl,
      ready_of rfl rfl rfl rfl rfl rfl rfl rfl, ready_of rfl rfl rfl rfl rfl rfl rfl rfl, (by decide : (calm.wave.rs 31).toNat < 64), rfl, rfl⟩, by decide⟩

/-- A FILL of one byte at 0x200 of the own slice. -/
def fillPacket : List Byte := (List.range 64).map fun i => if i = 0 then 3 else if i = 25 then 2 else if i = 32 ∨ i = 34 ∨ i = 36 ∨ i = 38 then 1 else 0

/-- A state whose record at a1 is `bs`. -/
def recorded (s : State) (bs : List Byte) : State := { s with slices := s.slices.puts emptyByte 0x100 bs }

theorem record_may (s : State) (t : Tree) (len : Nat) (h1 : s.wave.ra 1 = 0x100) (h2 : s.wave.core = 0) (h3 : s.wave.qnt ≤ t.committed) (h4 : (s.core 0).ops = []) (h5 : s.badWords = [])
    (h6 : s.inFlight t.id = []) (h7 : s.acquireBusy = false) (hl : len ≤ 8192) : RecordMay s t 1 len := by
  refine ⟨?_, fun _ => ⟨h3, ?_, ?_⟩, fun _ => h7, fun i _ => ?_⟩
  · show s.operandFault t (s.wave.ra 1) 0 len 64 = none
    rw [h1]; exact near_operand s t len 64 h2 hl rfl
  · unfold State.nearBusy; rw [h2, h4]; rfl
  · unfold State.engineWaits; rw [h6]; rfl
  · unfold State.badAt; rw [h5]; rfl

/-- CPYQ of a packet that is accepted and of one that is not, in both modes; WPTR of a copy that has reached its threshold, has not, and has ended short of it with an error. -/
theorem witness_EngineCommands :
    Ready (.cpyq 0 1 0 0) (recorded (waved addresses) fillPacket) calmFrag fetchTree ∧ RecordMay (recorded (waved addresses) fillPacket) fetchTree 1 64 ∧
    (pPhase fillPacket = 0 ∧ (recorded (waved addresses) fillPacket).packetRefused (some 0) 0 1 [] fillPacket = false ∧ HandleMay calm 15) ∧
    (Ready (.cpyq 0 1 0 0) (waved addresses) calmFrag fetchTree ∧ (waved addresses).packetRefused (some 0) 0 1 [] (List.replicate 64 0) = true) ∧
    (Ready (.cpyq 0 1 0 0) (recorded (chorus addresses) fillPacket) calmFrag chorusT ∧ RecordMay (recorded (chorus addresses) fillPacket) chorusT 1 64 ∧
      ((recorded (chorus addresses) fillPacket).chan 0).queue.length < 16) ∧
    ∀ e, Ready (.wptr 31 1 0) (handled e) calmFrag fetchTree ∧ (handled e).wave.rh 1 = some 0 ∧ ((handled e).core 0).handles.get {} 0 = e ∧ (handled e).wave.errorOn [0] = none :=
  ⟨ready_of rfl rfl rfl rfl rfl rfl rfl rfl, record_may _ _ _ (by decide) rfl (Nat.le_refl 0) rfl rfl rfl rfl (by decide), ⟨by decide, by decide, .inr (by decide)⟩,
    ⟨ready_of rfl rfl rfl rfl rfl rfl rfl rfl, by decide⟩, ⟨ready_of rfl rfl rfl rfl rfl rfl rfl rfl, record_may _ _ _ (by decide) rfl (Nat.le_refl 0) rfl rfl rfl rfl (by decide), by decide⟩,
    fun e => ⟨handled_ready _ _ rfl, rfl, rfl, rfl⟩⟩

/-- `s` with a publishable staging page at 0x4000000, which a5 names. -/
def staged (s : State) : State :=
  { s with wave := s.wave.wa 5 0x4000000, mem := Store.puts emptyByte s.mem 0x4010 (leBytes 8 (2 ^ 63 + 2 ^ 62 + 0x4000000 + 0x3F)) }

/-- `s` with an operator that holds that page. -/
def holding (s : State) : State :=
  { staged s with
    proctor := { s.proctor with
      ops := [{ id := 0, desk := 0, tree := 1, grid := 0, wave := 0, seq := 0, cls := 1, args := [], vers := [(0, { desk := 0, page := 0x4000000, ver := 0 }, 0)], witness := [], core := 0, unit := 0, spot := none,
                logged := false, seed := [], deadline := 0 }] } }

/-- `chorusT` with that page pinned too. -/
def stagedT : Tree :=
  { chorusT with pins := chorusT.pins ++ [{ va := 0x4000000, pte := 0x4010, raw := 2 ^ 63 + 2 ^ 62 + 0x4000000 + 0x3F, size := 0x2000000 }] }

/-- PUB of the staging page, not held and held, in both modes; of a page that is not publishable; of a length at the bound. -/
theorem witness_PublishIssue :
    (Ready (.pub 5 0) (staged calm) calmFrag fetchTree ∧ (staged calm).pageFault fetchTree 0 0x4000000 1 (fun x => x.pbl && x.allows .write) = none ∧
      (staged calm).rangeHeld 0 1 0 0x4000000 1 = false ∧ (staged calm).coveredQuantum fetchTree 0x4000000 0x2000000 = none ∧ (staged calm).coveredBusy 0 0 0x4000000 0x2000000 = false) ∧
    (Ready (.pub 5 0) (holding calm) calmFrag fetchTree ∧ (holding calm).pageFault fetchTree 0 0x4000000 1 (fun x => x.pbl && x.allows .write) = none ∧
      (holding calm).rangeHeld 0 1 0 0x4000000 1 = true) ∧
    (∃ s, Ready (.pub 5 0) s calmFrag stagedT ∧ s.pageFault stagedT 0 0x4000000 1 (fun x => x.pbl && x.allows .write) = none ∧ s.rangeHeld 0 1 0 0x4000000 1 = false) ∧
    (∃ s, Ready (.pub 5 0) s calmFrag stagedT ∧ s.pageFault stagedT 0 0x4000000 1 (fun x => x.pbl && x.allows .write) = none ∧ s.rangeHeld 0 1 0 0x4000000 1 = true) ∧
    (Ready (.pub 2 0) (waved addresses) calmFrag fetchTree ∧ ((waved addresses).pageFault fetchTree 0 0x2000100 1 fun x => x.pbl && x.allows .write).isSome = true) ∧
    (0x3FFFFFF : Dword).toNat < 2 ^ 26 ∧ 2 ^ 26 ≤ (0x4000000 : Dword).toNat :=
  ⟨⟨ready_of rfl rfl rfl rfl rfl rfl rfl rfl, by decide, by decide, by decide, by decide⟩, ⟨ready_of rfl rfl rfl rfl rfl rfl rfl rfl, by decide, by decide⟩,
    ⟨{ staged calm with trees := [stagedT] }, ready_of rfl rfl rfl rfl rfl rfl rfl rfl, by decide, by decide⟩,
    ⟨{ holding calm with trees := [stagedT] }, ready_of rfl rfl rfl rfl rfl rfl rfl rfl, by decide, by decide⟩, ⟨ready_of rfl rfl rfl rfl rfl rfl rfl rfl, by decide⟩, by decide, by decide⟩

/-- An operator open with an output argument and 15 arguments; its last one; its record; a launch record accepted and refused; a grid at the greatest depth. -/
theorem witness_OperatorAndLaunchIssue :
    (∀ i ∈ [Instr.opbeg 1, .oparg 5 1 2, .opend 0 1 2, .lnch 0 1], Ready i (staged (waved addresses)) calmFrag fetchTree) ∧ (staged (waved addresses)).wave.op = none ∧
    (0 < (5 : Dword).toNat ∧ (5 : Dword).toNat ≤ 5 ∧ 5 < (6 : Dword).toNat) ∧
    (∃ s o, Ready (.oparg 5 1 2) s calmFrag fetchTree ∧ Ready (.opend 0 1 2) s calmFrag fetchTree ∧ s.wave.op = some o ∧ o.args.length = 15 ∧ (∃ y ∈ o.args, y.role = 2) ∧
      s.wave.rs 1 = 0x72 ∧ s.wave.rs 2 = 64 ∧ s.pageFault fetchTree (deskView 0) 0x4000000 64 (fun p => p.pbl && p.rreq && p.allows .write) = none ∧ RecordMay s fetchTree 1 64 ∧ HandleMay s 0) ∧
    ((staged (waved addresses)).wave.tw = 0 ∧ RecordMay (staged (waved addresses)) fetchTree 1 64 ∧ launchRefused fetchTree (List.replicate 64 0) = true ∧
      launchRefused { fetchTree with resv := (1, 0, 0) } (List.replicate 64 0) = false) ∧
    (∃ s t, Ready (.lnch 0 1) s calmFrag t ∧ t.grid? s.wave.grid = some { fetchGrid with depth := 10 }) ∧ Ready (.lnch 0 1) (chorus id) calmFrag chorusT := by
  refine ⟨fun i h => ?_, rfl, by decide,
    ⟨{ staged (waved addresses) with
        wave := { (((staged (waved addresses)).wave.ws 1 0x72).ws 2 64) with op := some { cls := 5, args := List.replicate 15 { role := 2, num := 0, addr := 0, len := 1, efmt := 0 } } } },
      _, ready_of rfl rfl rfl rfl rfl rfl rfl rfl, ready_of rfl rfl rfl rfl rfl rfl rfl rfl, rfl, rfl, ⟨_, List.mem_cons_self, rfl⟩, by decide, by decide, by decide,
      record_may _ _ _ (by decide) rfl (Nat.le_refl 0) rfl rfl rfl rfl (by decide), .inl rfl⟩,
    ⟨rfl, record_may _ _ _ (by decide) rfl (Nat.le_refl 0) rfl rfl rfl rfl (by decide), by decide, by decide⟩,
    ⟨{ calm with trees := [{ fetchTree with grids := [{ fetchGrid with depth := 10 }] }] }, { fetchTree with grids := [{ fetchGrid with depth := 10 }] },
      ready_of rfl rfl rfl rfl rfl rfl rfl rfl, rfl⟩, chorus_ready _ rfl⟩
  simp only [List.mem_cons, List.not_mem_nil, or_false] at h
  rcases h with rfl | rfl | rfl | rfl <;> exact ready_of rfl rfl rfl rfl rfl rfl rfl rfl

/-- CHWAIT for a count passed, for none, and ahead; a slip asked for at the least distance and one count nearer; one asked for before. -/
theorem witness_ChorusCount :
    (∀ i ∈ [Instr.chrd 31, .chbase 31, .chwait 31, .chslipHold 31, .chslipSkip 31], Ready i calm calmFrag fetchTree ∧ Ready i (chorus id) calmFrag chorusT) ∧
    ((calm.wave.rs 31).toNat ≤ calm.chc ∧ calm.chc < ((waved fun w => w.ws 31 1).wave.rs 31).toNat ∧ Ready (.chwait 31) (waved fun w => w.ws 31 1) calmFrag fetchTree) ∧
    (Ready (.chwait 31) (chorus fun w => w.ws 31 1) calmFrag chorusT ∧ ((chorus fun w => w.ws 31 1).wave.rs 31).toNat = 1 ∧ (chorus fun w => w.ws 31 1).chc < chorusT.base + 1 ∧
      Ready (.chwait 31) { chorus fun w => w.ws 31 1 with chc := 1 } calmFrag chorusT ∧ chorusT.base + 1 ≤ 1) ∧
    (Ready (.chslipHold 31) (chorus fun w => w.ws 31 4096) calmFrag chorusT ∧ (chorus id).chc + 4096 ≤ chorusT.base + (4096 : Dword).toNat ∧
      chorusT.base + (4095 : Dword).toNat < (chorus id).chc + 4096 ∧ (chorus id).wave.num = 0 ∧ (chorus id).slip = none) ∧
    Ready (.chslipSkip 31) { chorus fun w => w.ws 31 4096 with slip := some (4096, false) } calmFrag chorusT := by
  refine ⟨fun i h => ?_, ⟨by decide, by decide, ready_of rfl rfl rfl rfl rfl rfl rfl rfl⟩,
    ⟨ready_of rfl rfl rfl rfl rfl rfl rfl rfl, by decide, by decide, ready_of rfl rfl rfl rfl rfl rfl rfl rfl, by decide⟩,
    ⟨ready_of rfl rfl rfl rfl rfl rfl rfl rfl, by decide, by decide, by decide, rfl⟩, ready_of rfl rfl rfl rfl rfl rfl rfl rfl⟩
  simp only [List.mem_cons, List.not_mem_nil, or_false] at h
  rcases h with rfl | rfl | rfl | rfl | rfl <;> exact ⟨calm_ready _ rfl, chorus_ready _ rfl⟩

/-- A transfer of one flit to core 0 of the device itself, at once; its reception, with the flit there and not. -/
theorem witness_TimedTransfers :
    (∃ s, Ready (.tsend 15 6 0 1) s calmFrag chorusT ∧ s.sendRefused chorusT (s.wave.ra 6) (s.wave.rs 1).toNat = false ∧ (s.wave.ra 6).toNat % 64 = 0 ∧
      (s.core s.wave.core).sendBusy < s.chc + 2 ∧ HandleMay s 15 ∧ dLen (s.wave.rs 1).toNat = 1) ∧
    (∃ s, Ready (.tsend 15 6 0 1) s calmFrag chorusT ∧ s.sendRefused chorusT (s.wave.ra 6) (s.wave.rs 1).toNat = false ∧ (s.wave.ra 6).toNat % 64 ≠ 0) ∧
    (Ready (.tsend 15 6 0 1) calm calmFrag fetchTree ∧ calm.sendRefused fetchTree 0 0 = true) ∧
    (∃ s, Ready (.trecv 0 1) s calmFrag chorusT ∧ dLen (s.wave.rs 1).toNat = 1 ∧ dOff (s.wave.rs 1).toNat = 0 ∧ dCore (s.wave.rs 1).toNat = 0 ∧ dDev (s.wave.rs 1).toNat = 0 ∧
      s.wave.ticket = none ∧ (s.core s.wave.core).tags.get 0 0 = 0) ∧
    (∃ s, Ready (.trecv 0 1) s calmFrag chorusT ∧ dLen (s.wave.rs 1).toNat = 1 ∧ s.wave.ticket = none ∧ (s.core s.wave.core).tags.get 0 0 = 1) ∧
    ∃ s, Ready (.trecv 0 1) s calmFrag chorusT ∧ dLen (s.wave.rs 1).toNat = 1 ∧ s.wave.ticket = some .done := by
  have r : ∀ (g : Wave → Wave) (c : Store Core) (i : Instr), (g calm.wave).frag = some calmFrag → (g calm.wave).tree = 1 → (g calm.wave).sigmis = none → (g calm.wave).errs = [] →
      i.wellFormed = true → (g calm.wave).lcnt = 0 → (g calm.wave).far = [] → Ready i { chorus g with cores := c } calmFrag chorusT := fun g c i h1 h2 h3 h4 h5 h6 h7 =>
    ready_of h1 (by show State.tree? _ (g calm.wave).tree = _; rw [h2]; rfl) h3 h4 h5 h6 rfl h7
  exact ⟨⟨{ chorus (fun w => (w.ws 1 0x1000000000000).wa 6 0x200) with cores := calm.cores }, r _ _ _ rfl rfl rfl rfl rfl rfl rfl, by decide, by decide, by decide, .inr (by decide), by decide⟩,
    ⟨{ chorus (fun w => (w.ws 1 0x1000000000000).wa 6 0x210) with cores := calm.cores }, r _ _ _ rfl rfl rfl rfl rfl rfl rfl, by decide, by decide⟩,
    ⟨calm_ready _ rfl, by decide⟩,
    ⟨{ chorus (fun w => w.ws 1 0x1000000000000) with cores := calm.cores }, r _ _ _ rfl rfl rfl rfl rfl rfl rfl, by decide, by decide, by decide, by decide, rfl, by decide⟩,
    ⟨{ chorus (fun w => w.ws 1 0x1000000000000) with cores := [(0, { tree := 1, tags := [(0, 1)] })] }, r _ _ _ rfl rfl rfl rfl rfl rfl rfl, by decide, rfl, by decide⟩,
    ⟨{ chorus (fun w => { (w.ws 1 0x1000000000000) with ticket := some .done }) with cores := calm.cores }, r _ _ _ rfl rfl rfl rfl rfl rfl rfl, by decide, rfl⟩⟩

theorem witness_RestartPoints :
    (Ready (.rpt 1) (waved fun w => w.ws 1 1) calmFrag fetchTree ∧ ((waved fun w => w.ws 1 1).wave.rs 1).toNat = (waved fun w => w.ws 1 1).wave.epoch + 1 ∧
      (waved fun w => w.ws 1 1).wave.getSlot true = none ∧ (waved fun w => w.ws 1 1).wave.depth = 0) ∧
    Ready (.rpt 1) (chorus fun w => w.ws 1 1) calmFrag chorusT ∧ (Ready (.rpt 0) calm calmFrag fetchTree ∧ (calm.wave.rs 0).toNat ≠ calm.wave.epoch + 1) ∧
    ((0xFFFFFFFF : Dword).toNat < 2 ^ 32 ∧ 2 ^ 32 ≤ (0x100000000 : Dword).toNat) :=
  ⟨⟨ready_of rfl rfl rfl rfl rfl rfl rfl rfl, by decide, rfl, rfl⟩, ready_of rfl rfl rfl rfl rfl rfl rfl rfl, ⟨calm_ready _ rfl, by decide⟩, by decide⟩

/-! ## Traps, exceptions, refusals to issue -/

theorem witness_ChecksBeforeIssue :
    cis (.add 0 0 0) = true ∧ calm.wave.frag = some calmFrag ∧ calm.tree? calm.wave.tree = some fetchTree ∧ calm.wave.sigmis = none ∧ calm.wave.errs = [] ∧
    (∃ j m, (waved fun w => { w with sigmis := some (none, 0x2000000, 1) }).wave.sigmis = some (none, j, m)) ∧
    (∃ j m, (waved fun w => { w with sigmis := some (some false, 0x2000000, 1) }).wave.sigmis = some (some calm.wave.cur, j, m)) ∧
    (∃ x rest, (waved fun w => { w with errs := [{ code := MEMERR }] }).wave.errs = x :: rest) ∧ (cis (.bfx 1 2 1 63 0) = true ∧ (Instr.bfx 1 2 1 63 0).wellFormed = false) ∧
    (∃ s : State, s.wave.frag = some calmFrag ∧ s.tree? s.wave.tree = some fetchTree ∧ s.wave.lcnt ≠ 0 ∧ calmFrag.pc = s.wave.loopEnd ∧ (Instr.j 0).site = .branch) ∧
    ∃ (s : State) (f : Frag), s.wave.frag = some f ∧ s.tree? s.wave.tree = some fetchTree ∧ s.wave.lcnt = 0 ∧ f.after.isSome = true ∧ (Instr.exit).site ≠ .plain :=
  ⟨rfl, rfl, rfl, rfl, rfl, ⟨_, _, rfl⟩, ⟨_, _, rfl⟩, ⟨_, _, rfl⟩, by decide,
    ⟨waved fun w => { w with lcnt := 1, loopEnd := 0x2000000 }, rfl, rfl, (by decide : (1 : Dword) ≠ 0), rfl, rfl⟩,
    ⟨waved fun w => w.setFrag { calmFrag with after := some (.goto 0x2000010) }, _, rfl, rfl, rfl, rfl, by decide⟩⟩

theorem witness_PendingRegisterWaits (q : Nat) :
    (waved (accessed q)).wave.frag = some calmFrag ∧ (waved (accessed q)).tree? (waved (accessed q)).wave.tree = some fetchTree ∧ (waved (accessed q)).wave.sigmis = none ∧
    (waved (accessed q)).wave.errs = [] ∧ (waved (accessed q)).wave.lcnt = 0 ∧ calmFrag.after = none ∧
    (∃ p, (waved (accessed q)).wave.pendingOn [.v 1] = [p] ∧ p.err = none ∧ p.quantum = some q) ∧ fetchTree.cmode = false :=
  ⟨rfl, rfl, rfl, rfl, rfl, rfl, ⟨_, rfl, rfl, rfl⟩, rfl⟩

/-- A wave with a handler: outside a delay slot, in that of a jump, and in that of a split. -/
theorem witness_TakingAnException :
    (∃ (s : State) (f : Frag), s.wave.frag = some f ∧ s.tree? s.wave.tree = some fetchTree ∧ held s fetchTree = false ∧ fetchTree.cmode = false ∧ s.wave.hnd = false ∧ s.wave.hpc ≠ 0 ∧ f.after = none) ∧
    (∃ (s : State) (f : Frag) (g : Dword), s.wave.frag = some f ∧ s.tree? s.wave.tree = some fetchTree ∧ held s fetchTree = false ∧ s.wave.hnd = false ∧ s.wave.hpc ≠ 0 ∧ f.after = some (.goto g)) ∧
    (∃ (s : State) (f : Frag) (g : List (Dword × Mask)) (j : Dword), s.wave.frag = some f ∧ s.tree? s.wave.tree = some fetchTree ∧ held s fetchTree = false ∧ s.wave.hnd = false ∧ s.wave.hpc ≠ 0 ∧ f.after = some (.split g j)) ∧
    (∀ c ∈ [ILLOP, PERM, ALIGN, XLATE, HANDLE, DSLOT, 128, 255], Flt.handleable { code := c } = true) := by
  refine ⟨⟨waved fun w => { w with hpc := 64 }, _, rfl, rfl, by decide, rfl, by decide, by decide, rfl⟩,
    ⟨waved fun w => { w.setFrag { calmFrag with after := some (.goto 0x2000010) } with hpc := 64 }, _, _, rfl, rfl, by decide, by decide, by decide, rfl⟩,
    ⟨waved fun w => { w.setFrag { calmFrag with after := some (.split [(0x2000010, 1)] 0x2000020) } with hpc := 64 }, _, _, _, rfl, rfl, by decide, by decide, by decide, rfl⟩, by decide⟩

theorem witness_StoppingFaults :
    (calm.wave.frag = some calmFrag ∧ calm.tree? calm.wave.tree = some fetchTree ∧ held calm fetchTree = false ∧ fetchTree.cmode = false ∧ calm.wave.hpc = 0) ∧
    (∃ s : State, s.wave.frag = some calmFrag ∧ s.tree? s.wave.tree = some fetchTree ∧ held s fetchTree = false ∧ s.wave.hnd = true ∧ s.wave.hpc ≠ 0) ∧
    Flt.handleable { code := TLATE } = false ∧
    ((chorus id).wave.frag = some calmFrag ∧ (chorus id).tree? (chorus id).wave.tree = some chorusT ∧ chorusT.cmode = true ∧ chorusT.stop = none) :=
  ⟨⟨rfl, rfl, by decide, rfl, rfl⟩, ⟨waved fun w => { w with fault := 0x8000, hpc := 64 }, rfl, rfl, by decide, by decide, by decide⟩, by decide, rfl, rfl, rfl, rfl⟩

/-- ERET: outside handler state; in it with each of RET and DLY, and with SPLIT; in a delay slot. -/
theorem witness_ReturnFromException :
    (Ready .eret calm calmFrag fetchTree ∧ calm.wave.hnd = false) ∧
    (∀ x : Dword, Ready .eret (waved fun w => { w with fault := x, psplit := some (0x2000000, .split [(0x2000010, 1)] 0x2000020) }) calmFrag fetchTree) ∧
    (∀ x ∈ [(0x8000 : Dword), 0x9000, 0x8800, 0x9800, 0xC800, 0xD800], x.getLsbD 15 = true) ∧
    ∃ (s : State) (f : Frag), s.wave.frag = some f ∧ s.tree? s.wave.tree = some fetchTree ∧ s.wave.sigmis = none ∧ s.wave.errs = [] ∧ s.wave.lcnt = 0 ∧ f.after.isSome = true := by
  refine ⟨⟨calm_ready _ rfl, by decide⟩, fun x => ready_of rfl rfl rfl rfl rfl rfl rfl rfl, ?_,
    ⟨waved fun w => w.setFrag { calmFrag with after := some (.goto 0x2000010) }, _, rfl, rfl, rfl, rfl, rfl, rfl⟩⟩
  intro x h
  simp only [List.mem_cons, List.not_mem_nil, or_false] at h
  rcases h with rfl | rfl | rfl | rfl | rfl | rfl <;> rfl

/-- TRAP with a handler; BRK with a session on the tree and without; SIGCK of the signature and of another. -/
theorem witness_TrapBreakSignatureUndefined :
    (∃ s : State, Ready (.trap 127) s calmFrag fetchTree ∧ calmFrag.after = none ∧ held s fetchTree = false ∧ s.wave.hnd = false ∧ s.wave.hpc ≠ 0 ∧ s.wave.dispre = none ∧ s.wave.op = none) ∧
    (Ready .brk calm calmFrag fetchTree ∧ ∀ d, calm.desk? 0 = some d → d.held = none) ∧
    (∃ s : State, Ready .brk s calmFrag fetchTree ∧ ∃ d, s.desk? 0 = some d ∧ d.held = some 1) ∧
    (Ready (.sigck 0) calm calmFrag fetchTree ∧ calmFrag.sig = (calm.wave.rs 0).setWidth 32) ∧
    (Ready (.sigck 1) (waved fun w => w.ws 1 1) calmFrag fetchTree ∧ calmFrag.sig ≠ ((waved fun w => w.ws 1 1).wave.rs 1).setWidth 32) :=
  ⟨⟨waved fun w => { w with hpc := 64 }, ready_of rfl rfl rfl rfl rfl rfl rfl rfl, rfl, by decide, by decide, by decide, rfl, rfl⟩,
    ⟨calm_ready _ rfl, fun d h => by cases h; rfl⟩,
    ⟨{ calm with desks := [(0, some { n := 1, held := some 1 })] }, ready_of rfl rfl rfl rfl rfl rfl rfl rfl, _, rfl, rfl⟩,
    ⟨calm_ready _ rfl, by decide⟩, ready_of rfl rfl rfl rfl rfl rfl rfl rfl, by decide⟩

/-! ## Events of waves, trees and cores -/

theorem witness_WaveEvents :
    (∃ s : State, ∃ w ∈ s.allWaves, ∃ f ∈ w.flight, f.left = 0 ∧ f.acc = none) ∧ (∃ s : State, ∃ w ∈ s.allWaves, ∃ x ∈ w.far, x.id = 0 ∧ ∃ d, x.due = some d ∧ d ≤ s.chc) ∧
    (∀ e, ∃ (s : State) (x : Far), s.wave ∈ s.allWaves ∧ s.wave.status ≠ .idle ∧ s.wave.far.find? (fun y => y.id == 0) = some x ∧ x.err = e ∧ x.id = 0 ∧ x.due = some s.chc) ∧
    (∀ e, ∃ (s : State) (a : Access), s.accesses.find? (fun a => a.id == 0 && decide (a.at_ ≤ s.chc)) = some a ∧ s.clashNow 0 = none ∧ a.eff = e) ∧
    (∀ t, ∃ (s : State) (w : Wave), s.wave? 0 = some w ∧ w.ticket = t ∧ w.latch = [(0, 1)] ∧ s.chc = 0) ∧
    (∃ (s : State) (w : Wave), s.wave? 0 = some w ∧ w.dispre = some (2 ^ 20 + 1)) ∧
    ∃ (s : State) (w : Wave), s.wave? 0 = some w ∧ ∃ o, w.op = some o ∧ 2 ^ 20 < o.retired :=
  ⟨⟨waved fun w => { w with flight := [{ slot := false, left := 0, res := .sca 1 1 }] }, _, List.mem_cons_self, _, List.mem_cons_self, rfl, rfl⟩,
    ⟨waved fun w => { w with far := [{ id := 0, pend := [], pc := 0, due := some 0 }] }, _, List.mem_cons_self, _, List.mem_cons_self, rfl, 0, rfl, Nat.le_refl 0⟩,
    fun e => ⟨waved fun w => { w with far := [{ id := 0, pend := [], pc := 0, due := some 0, err := e }] }, _, List.mem_cons_self, (by decide : Status.live ≠ .idle), rfl, rfl, rfl, rfl⟩,
    fun e => ⟨{ calm with accesses := [{ id := 0, owner := 0, wid := 0, core := 0, at_ := 0, pc := 0, far := true, eff := e }] }, _, rfl, rfl, rfl⟩,
    fun t => ⟨waved fun w => { w with ticket := t, latch := [(0, 1)] }, _, rfl, rfl, rfl, rfl⟩, ⟨waved fun w => { w with dispre := some (2 ^ 20 + 1) }, _, rfl, rfl⟩,
    ⟨waved fun w => { w with op := some { cls := 1, retired := 2 ^ 20 + 1 } }, _, rfl, _, rfl, by decide⟩⟩

/-- `calm` whose one wave runs on in quantum 1. -/
def onward : State := { waved fun w => { w with qnt := 1 } with cores := calm.cores.put {} 0 { tree := 1, running := some 0 } }

/-- The wave is in quantum 1 and a store of quantum 0 is pending; and none is; a tree resumes with a record pending. -/
theorem witness_QuantumCommits :
    (∃ s : State, ∃ t, s.tree? 1 = some t ∧ s.mayCommit t = true ∧ s.attributeWaits t t.commitQ = false ∧ t.resuming = false ∧
      t.pend = [{ q := 0, grid := 0, wave := 0, wid := 0, core := 0, eff := .store [(0x2000100, 1)] }]) ∧
    (∃ s : State, ∃ t, s.tree? 1 = some t ∧ s.mayCommit t = true ∧ s.attributeWaits t t.commitQ = false ∧ t.recordsOf t.commitQ = []) ∧
    ∃ s : State, ∃ t, s.tree? 1 = some t ∧ s.mayCommit t = true ∧ s.attributeWaits t t.commitQ = false ∧ t.resuming = true :=
  ⟨⟨{ onward with
      trees := [{ fetchTree with pend := [{ q := 0, grid := 0, wave := 0, wid := 0, core := 0, eff := .store [(0x2000100, 1)] }] }] }, _, rfl, by decide, by decide, rfl, rfl⟩,
    ⟨onward, _, rfl, by decide, by decide, rfl⟩,
    ⟨{ calm with trees := [{ fetchTree with resuming := true }] }, _, rfl, by decide, by decide, rfl⟩⟩

theorem witness_PublishExchange :
    ∃ va x, (staged calm).pagesOf (deskView 0) ((staged calm).deskN 0) 0x4000000 1 = [(va, .ok x)] ∧ x.pbl = true ∧ x.raw < 2 ^ 64 := ⟨_, _, rfl, by decide, by decide⟩

/-- A tree before its team starts; after it has ended; stuck; stopped by a fault; to be saved; a chorus tree in its second period. -/
theorem witness_TreeEvents :
    (∃ (s : State) (t : Tree) (g : Grid), s.tree? 1 = some t ∧ t.grid? 0 = some g ∧ 0 / 512 = t.desk ∧ (s.readyTeam t g 0).isSome = true) ∧
    (∃ (s : State) (t : Tree) (g : Grid), s.tree? 1 = some t ∧ t.grid? 0 = some g ∧ s.mayRetire t g = true ∧ g.ord = 0) ∧
    (∃ (s : State) (t : Tree) (g : Grid), s.tree? 1 = some t ∧ t.grid? 1 = some g ∧ s.mayRetire t g = true ∧ g.ord = 1) ∧
    (∃ (s : State) (t : Tree), s.tree? 1 = some t ∧ s.quantumStuck t = true ∧ held s t = false) ∧
    (∃ (s : State) (t : Tree), s.tree? 1 = some t ∧ (∃ m ∈ s.teams, m.tree = 1) ∧ t.save = false ∧ t.unsaved = false ∧ t.stop = none ∧ t.noStart = true ∧
      ∀ m ∈ s.teams, m.tree = 1 → (s.core m.core).testDue = false) ∧
    (∃ (s : State) (t : Tree), s.tree? 1 = some t ∧ s.faultSettled t = true) ∧ (∃ (s : State) (t : Tree), s.tree? 1 = some t ∧ s.maySave t = true) ∧
    ∃ (s : State) (t : Tree), s.tree? 1 = some t ∧ t.cmode = true ∧ t.save = true ∧ t.stop = none ∧ s.hasEpoch 1 (s.commonEpoch 1) = true := by
  refine ⟨⟨{ calm with wave := { calm.wave with status := .idle }, teams := [], trees := [{ fetchTree with grids := [{}] }] }, _, _, rfl, rfl, rfl, by decide⟩,
    ⟨{ calm with wave := { calm.wave with status := .idle }, teams := [], trees := [{ fetchTree with grids := [{ ended := 1 }] }] }, _, _, rfl, rfl, by decide, rfl⟩,
    ⟨{ calm with trees := [{ fetchTree with grids := [{}, { ord := 1, parent := some 0, ended := 1 }] }] }, _, _, rfl, rfl, by decide, rfl⟩,
    ⟨waved fun w => { w with wait := .phase 0x100 0 }, _, rfl, by decide, by decide⟩,
    ⟨{ calm with trees := [{ fetchTree with noStart := true }] }, _, rfl, ⟨_, List.mem_cons_self, rfl⟩, rfl, rfl, rfl, rfl, by decide⟩,
    ⟨{ waved fun w => { w with status := .faulted } with trees := [{ fetchTree with stop := some (0, [{ q := 0, core := 0, wave := 0, code := 1 }]) }] }, _, rfl, by decide⟩,
    ⟨{ waved fun w => { w with status := .stopped } with trees := [{ fetchTree with save := true }] }, _, rfl, by decide⟩,
    ⟨{ calm with trees := [{ chorusT with save := true }] }, _, rfl, rfl, rfl, rfl, by decide⟩⟩

theorem witness_ResumeReplayAndMatrixEvents :
    (∃ (s : State) (sv : Saved), s.saved.find? (fun x => x.held && x.tree.id == 1 && x.tree.saveWhy ≠ 2) = some sv ∧ s.roomFor sv = true ∧ s.intact sv = false) ∧
    (∃ (s : State) (r : Nat × Nat) (t : Tree) (k : Kernel), s.proctor.replays.find? (fun r => r.1 == 1) = some r ∧ s.proctor.kept.find? (fun t => t.id == 1) = some t ∧
      t.code.kernels[t.launch.kidx]? = some k ∧ s.mayReplay t r.2 = true) ∧
    (∃ (s : State) (o : MatOp), (s.core 0).ops.find? (fun o => o.id == 0 && decide (o.busy ≤ s.chc)) = some o ∧ o.handle = some 0 ∧ o.comp ≤ s.chc ∧ o.applied = true ∧
      ((s.core 0).handles.get {} 0).state = 0) ∧
    ∃ (s : State) (o : MatOp), (s.core 0).ops.find? (fun o => o.id == 0 && o.kind == .ldsw && !o.applied && decide (o.start ≤ s.chc)) = some o :=
  ⟨⟨{ calm with
        wave := { calm.wave with status := .idle }, teams := [], trees := []
        saved := [{ tree := fetchTree, teams := [fetchTeam], waves := [], cores := [], slices := [], slicesC := [], accs := [], image := (0, 0), nonce := 0 }] }, _, rfl, by decide, rfl⟩,
    ⟨{ calm with trees := [], proctor := { calm.proctor with replays := [(1, 0)], kept := [fetchTree] } }, _, _, _, rfl, rfl, rfl, by decide⟩,
    ⟨{ calm with
        cores := [(0, { tree := 1, handles := [(0, { kind := 1 })], ops := [{ id := 0, kind := .aczero, wid := 0, tree := 1, handle := some 0, issue := 0, start := 0, busy := 0, comp := 0, applied := true }] })] },
      _, rfl, rfl, Nat.le_refl 0, rfl, rfl⟩,
    ⟨{ calm with cores := [(0, { tree := 1, ops := [{ id := 0, kind := .ldsw, wid := 0, tree := 1, handle := none, issue := 0, start := 0, busy := 0, comp := 0 }] })] }, _, rfl⟩⟩

/-! ## Engines, links, domains, operators -/

/-- A channel of desk 0 with what is given. -/
def channelled (c : Chan) : State := { calm with chans := [(0, c)] }

/-- A packet of a type, of a shared queue whose ring's first slot is at 0x200 of device memory. -/
def packetOf (ty : Nat) : List Byte := BitVec.ofNat 8 ty :: fillPacket.drop 1

def sectorOp (start : Option Nat) (out : List Sector) (items : List Item) : EngOp :=
  { req := { packet := fillPacket, desk := 0, tree := 1, start := start }, items := items, out := out }

theorem witness_EngineEvents :
    (∀ ty ∈ [0, 1, 2, 3], ∃ (s : State) (r : EngReq), (s.chan 0).queue = [r] ∧ s.headReady 0 = true ∧ pType r.packet = ty ∧ (s.chan 0).delayed = [] ∧ (s.chan 0).op = none ∧
      r.start = none ∧ s.behind r = false) ∧
    (∃ (s : State) (op : EngOp), (s.chan 0).op = some op ∧ s.engC op.req = false ∧ s.canAdvance 0 op = true) ∧
    (∃ (s : State) (op : EngOp), (s.chan 0).op = some op ∧ s.engC op.req = true ∧ s.engStopped op.req = true) ∧
    (∃ (s : State) (op : EngOp) (x : Sector), (s.chan 0).op = some op ∧ s.engC op.req = true ∧ s.engStopped op.req = false ∧ op.out = [x] ∧ x.due ≤ s.chc) ∧
    (∃ (s : State), (0, 0x7E0000000100) ∈ (s.chan 0).shared ∧ (s.chan 0).queue.length < 16 ∧
      pPhase ((List.range 64).map fun i => s.engByte { packet := [], desk := 0 } (0x7E0000000200 + i)) = 1 ∧
      readNat (s.engByte { packet := [], desk := 0 }) 0x7E0000000110 8 = 0x7E0000000200 ∧ readNat (s.engByte { packet := [], desk := 0 }) 0x7E0000000108 8 = 0) := by
  refine ⟨fun ty h => ?_, ⟨channelled { op := some (sectorOp none [] []) }, _, rfl, by decide +kernel, by decide +kernel⟩,
    ⟨{ channelled { op := some (sectorOp (some 0) [] []) } with trees := [] }, _, rfl, by decide +kernel, by decide +kernel⟩,
    ⟨{ channelled { op := some (sectorOp (some 0) [{ dst := [0x200] }] []) } with trees := [chorusT] }, _, _, rfl, by decide +kernel, by decide +kernel, rfl, by decide +kernel⟩,
    ⟨{ channelled { shared := [(0, 0x7E0000000100)] } with slices := (Store.puts emptyByte [] 0x110 (leBytes 8 0x7E0000000200)).puts emptyByte 0x200 [0x80] }, List.mem_cons_self, by decide +kernel,
      by decide +kernel, by decide +kernel, by decide +kernel⟩⟩
  refine ⟨channelled { queue := [{ packet := packetOf ty, desk := 0 }] }, _, rfl, ?_, ?_, rfl, rfl, rfl, rfl⟩ <;>
    (simp only [List.mem_cons, List.not_mem_nil, or_false] at h; rcases h with rfl | rfl | rfl | rfl <;> decide)

theorem witness_TimedEvents :
    (∃ (s : State) (x : Send), s.sends.find? (fun x => x.id == 0 && decide (0 < x.len) && decide (x.start + 0 ≤ s.chc)) = some x) ∧
    (∃ (s : State) (y : Flit), s.flits.find? (fun x => x.id == 0 && decide (x.at_ ≤ s.chc)) = some y ∧ y.va = none ∧ s.clashNow y.id = none ∧
      (∃ t, s.tree? y.task = some t ∧ t.attempt % 256 = y.attempt % 256 ∧ t.stop = none) ∧ (s.core y.core).tags.get 0 y.tag = 65534) ∧
    ∀ hold, ∃ s : State, s.slip = some (0, hold) ∧ 0 ≤ s.chc :=
  ⟨⟨{ chorus id with sends := [{ id := 0, wid := 0, core := 0, tree := 1, handle := none, start := 0, len := 1, src := 0, pdev := 0, pcore := 0, doff := 0, tag := 0, attempt := 0 }] }, _, rfl⟩,
    ⟨{ chorus id with
        flits := [{ id := 0, at_ := 0, task := 1, attempt := 0, core := 0, off := 0, tag := 15, bytes := [] }]
        cores := [(0, { tree := 1, tags := [(15, 65534)] })] }, _, rfl, rfl, rfl, ⟨_, rfl, rfl, rfl⟩, rfl⟩,
    fun hold => ⟨{ calm with slip := some (0, hold) }, rfl, Nat.le_refl 0⟩⟩

/-- A device of a domain of two whose second member is the lead of the running task, of attempt 0. -/
def tasked (k : CTask) : State :=
  { chorus id with domain := some { dev := 0, root := 1, primary := 0, secondary := 1, inUse := 0, ports := [0, 1] }, tasks := [k], trees := [{ chorusT with ctask := 1 }] }

def task1 : CTask := { id := 1, tag := 1, desk := 0, tree := 1, lead := 1, members := [(0, 1), (1, 1)], nmem := 2, dispatched := true }

theorem witness_DomainEvents :
    (128 < (129 : BitVec 64).toInt.natAbs ∧ (BitVec.ofInt 64 (-128)).toInt.natAbs ≤ 128) ∧
    (∃ d, (tasked task1).domain = some d ∧ d.inUse = d.primary ∧ d.primary ≠ d.secondary) ∧
    (∃ (s : State) (d : Domain), s.domain = some d ∧ d.inUse ≠ d.primary) ∧
    (∃ k, (tasked task1).running? = some k ∧ 256 % 256 = k.att % 256 ∧ ∃ m ∈ k.members, m.1 = 1) ∧
    (∃ (s : State) (k : CTask), s.running? = some k ∧ k.abort = some 0 ∧ k.lead = s.devNo ∧ k.failed = false ∧ 0 ≠ allOnes ∧ k.deadline ≠ 0 ∧ k.deadline ≤ s.chc) ∧
    (∃ (s : State) (k : CTask) (t : Tree), s.task? 1 = some k ∧ s.tree? k.tree = some t ∧ s.mayDispatch k = true ∧ k.dispatched = false ∧ 1 < k.nmem) :=
  ⟨by decide +kernel, ⟨_, rfl, rfl, by decide +kernel⟩,
    ⟨{ calm with domain := some { dev := 0, root := 1, primary := 0, secondary := 1, inUse := 1, ports := [0, 1] } }, _, rfl, by decide +kernel⟩, ⟨_, rfl, rfl, _, List.mem_cons_of_mem _ List.mem_cons_self, rfl⟩,
    ⟨{ tasked { task1 with abort := some 0, lead := 0, deadline := 1 } with chc := 1 }, _, rfl, rfl, by decide +kernel, rfl, by decide +kernel, by decide +kernel, by decide +kernel⟩,
    ⟨{ tasked { task1 with dispatched := false } with
        wave := { calm.wave with status := .idle }, teams := [], trees := [{ chorusT with ctask := 1, started := false, grids := [{}] }] }, _, _, rfl, rfl, by decide +kernel, rfl, by decide +kernel⟩⟩

/-- Checks of a data flit, a control flit and one that is neither; a number received before; a flow that keeps a run. -/
theorem witness_LinkEvents :
    (∀ c : BitVec 32, ~~~c ≠ c ∧ c ^^^ 1 ≠ c ∧ c ^^^ 1 ≠ ~~~c) ∧
    (∃ s : State, (s.flowsIn.get {} (flowKey 1 2)).got.contains 7 = true) ∧ 2 ^ 31 ≤ (2 ^ 32 - 1 + 2 ^ 32 - (calm.flowsIn.get {} (flowKey 1 2)).low) % 2 ^ 32 ∧
    ∃ s : State, (s.flowsOut.get {} (flowKey 1 2)).kept ≠ [] ∧ (s.flowsOut.get {} (flowKey 1 2)).deadline ≤ s.chc ∧ (s.flowsOut.get {} (flowKey 1 2)).resends = 7 :=
  ⟨fun c => ⟨fun h => by simpa using congrArg (·.getLsbD 0) h, fun h => by simpa using congrArg (·.getLsbD 0) h, fun h => by simpa using congrArg (·.getLsbD 1) h⟩,
    ⟨{ calm with flowsIn := [(flowKey 1 2, { got := [7] })] }, by decide +kernel⟩, by decide +kernel,
    ⟨{ calm with flowsOut := [(flowKey 1 2, { kept := [{ dev := 2, chan := 1, seq := 0, op := 0, dest := 0, group := 256, att := 0, exp := 0, payload := [] }], resends := 7 })] },
      by decide +kernel, by decide +kernel, by decide +kernel⟩⟩

/-- An operator, without a grade and nothing to wait for; and one handed on by a wave, due. -/
def oper0 : Oper :=
  { id := 0, desk := 0, tree := 1, grid := 0, wave := 0, seq := 0, cls := 1, args := [], vers := [], witness := [], core := 0, unit := 0, spot := none, logged := false, seed := [], deadline := 0 }

theorem witness_GradingEvents :
    (∃ (s : State) (o : Oper), s.oper? 0 = some o ∧ o.grade = none ∧ s.waitsForInputs o = false) ∧
    ∃ (s : State) (w : Wave), s.wave? 0 = some w ∧ s.agenda.find? (fun d => decide (d.at_ ≤ s.chc) && match d.ev with | .opAccept _ w (.opend _ _ _ _) => w == 0 | _ => false)
      = some { at_ := 0, ord := 0, ev := .opAccept 0 0 (.opend { cls := 1 } 0 [] none) } :=
  ⟨⟨{ calm with proctor := { calm.proctor with ops := [oper0] } }, _, rfl, rfl, by decide +kernel⟩,
    ⟨{ calm with agenda := [{ at_ := 0, ord := 0, ev := .opAccept 0 0 (.opend { cls := 1 } 0 [] none) }] }, _, rfl, rfl⟩⟩

/-! ## Queues, slots, debug sessions, harts -/

/-- A queue of desk 0 whose ring is at 0x2000000, which is all zero but the phase byte of its first slot. -/
def requested : State :=
  { calm with queues := [(queueKey 0 0, { live := true, ring := 0x2000000, nslot := 1, k := 1 })], mem := Store.puts emptyByte calm.mem 0x20000FF [0x81] }

/-- The same with the ring where nothing is mapped. -/
def unrequested : State := { requested with queues := [(queueKey 0 0, { live := true, ring := 0x6000000, nslot := 1, k := 1 })] }

theorem requested_some : (requested.request 0 0).isSome = true := by decide +kernel

theorem requested_none : unrequested.request 0 0 = none := by decide +kernel

theorem witness_QueueEvents :
    (requested.request 0 0).isSome = true ∧ (requested.queue 0 0).live = true ∧ ((requested.queue 0 0).k + 2 ^ 32 - (requested.queue 0 0).cons) % 2 ^ 32 < 2 ^ 31 ∧
    (requested.queue 0 0).k ≠ (requested.queue 0 0).cons ∧ unrequested.request 0 0 = none ∧
    (∃ d, calm.desk? 0 = some d ∧ 15 < d.queues) ∧ 0x2000000 < windowBase ∧ 0x2000000 + [0#8].length ≤ 2 ^ 47 ∧ calm.deskOk 0 .write 0x2000000 [0#8].length = true ∧
    calm.deskOk 0 .read 0x6000000 1 = false ∧ calm.deskOk 0 .write 0x6000000 [0#8].length = false :=
  ⟨requested_some, by decide +kernel, by decide +kernel, by decide +kernel, requested_none, ⟨_, rfl, by decide +kernel⟩, by decide +kernel, by decide +kernel, by decide +kernel,
    by decide +kernel, by decide +kernel⟩

/-- Whether the request that queue 0 of desk 0 holds is malformed. -/
def fetchedBad (s : State) : Bool :=
  (s.request 0 0).any fun b => Slot.malformed { desk := 0, queue := 0, index := (s.queue 0 0).cons, bytes := b }

/-- The request with scopes and without a record address: a NOP. -/
def asked : State := { requested with mem := Store.puts emptyByte (Store.puts emptyByte requested.mem 0x20000FC [0x33]) 0x2000000 [0] }

theorem witness_QueueEvents_malformed : fetchedBad requested = true ∧ fetchedBad asked = false ∧ (asked.request 0 0).isSome = true :=
  ⟨by decide +kernel, by decide +kernel, by decide +kernel⟩

/-- A slot of a type with some bytes at 24. -/
def slotOf (ty : Nat) (at24 : List Byte) : Slot :=
  { desk := 0, queue := 0, index := 0, bytes := List.replicate 24 0 ++ at24 ++ List.replicate (228 - at24.length) 0 ++ [0x33, 0, BitVec.ofNat 8 ty, 0] }

def slotted (x : Slot) : State := { calm with slots := [x] }

theorem slot_may {x : Slot} {ty : Nat} (h0 : (x.desk == 0 && x.queue == 0 && x.index == 0) = true) (h1 : x.type = ty) (h2 : (slotted x).slotReady x = true) (h3 : x.badHead = false) :
    SlotMay (slotted x) 0 0 0 ty x :=
  ⟨List.find?_cons_of_pos (p := fun x : Slot => x.desk == 0 && x.queue == 0 && x.index == 0) h0, h1, h2, h3⟩

/-- A fetched slot of each type, with all else zero; a malformed NOP slot; an ENGINE slot whose packet is accepted; an image that is not there. -/
theorem witness_SlotEvents :
    (∀ ty ∈ [0, 1, 2, 3, 4, 5, 7], SlotMay (slotted (slotOf ty [])) 0 0 0 ty (slotOf ty [])) ∧
    (∃ x : Slot, (slotted x).slot? 0 0 0 = some x ∧ x.type = 0 ∧ (slotted x).slotReady x = true ∧ x.badHead = true) ∧
    bodyMalformed (slotOf 2 []).launchBody = false ∧ bodyMalformed (slotOf 2 (List.replicate 128 1)).launchBody = true ∧
    (SlotMay (slotted (slotOf 3 (List.replicate 40 0 ++ packetOf 3))) 0 0 0 3 (slotOf 3 (List.replicate 40 0 ++ packetOf 3)) ∧ pPhase (packetOf 3) ≠ 1 ∧ pStart (packetOf 3) = 0 ∧
      ((slotOf 3 (List.replicate 40 0 ++ packetOf 3)).bytes.drop 64).take 64 = packetOf 3) ∧
    ((slotted (slotOf 7 [])).served 0 0).imageAt true 0 0 0 = none ∧
    ((slotted (slotOf 2 [])).served 0 0).prologue 0 0 0 [] = .bad := by
  refine ⟨fun ty h => ?_, ⟨{ (slotOf 0 []) with bytes := List.replicate 256 0 }, rfl, by decide +kernel, by decide +kernel, by decide +kernel⟩, by decide +kernel, by decide +kernel,
    ⟨slot_may rfl (by decide +kernel) (by decide +kernel) (by decide +kernel), by decide +kernel, by decide +kernel, by decide +kernel⟩, rfl, by decide +kernel⟩
  simp only [List.mem_cons, List.not_mem_nil, or_false] at h
  rcases h with rfl | rfl | rfl | rfl | rfl | rfl | rfl <;> exact slot_may rfl (by decide +kernel) (by decide +kernel) (by decide +kernel)

/-- A debug slot of a command on tree 1, in a desk that allows it and holds the tree, or holds none. -/
def debugged (cmd : Nat) (held : Option Nat) : State :=
  { slotted (slotOf 6 ([BitVec.ofNat 8 cmd] ++ List.replicate 7 0 ++ [1])) with desks := [(0, some { n := 1, debugOk := true, held := held })] }

theorem witness_DebugCommands :
    (∀ cmd ∈ [0, 1, 2, 3, 4, 5, 6, 7, 8], ∀ free, CommandMay (debugged cmd (some 1)) 0 0 0 cmd free (slotOf 6 ([BitVec.ofNat 8 cmd] ++ List.replicate 7 0 ++ [1]))) ∧
    ((debugged 0 (some 1)).served 0 0).tree? (slotOf 6 ([0] ++ List.replicate 7 0 ++ [1])).dbgTree = some fetchTree ∧
    ({ debugged 0 (some 1) with trees := [chorusT] }.served 0 0).tree? 1 = some chorusT ∧ ({ debugged 0 (some 1) with trees := [] }.served 0 0).tree? 1 = none ∧
    (CommandMay (debugged 6 none) 0 0 0 6 true (slotOf 6 ([6] ++ List.replicate 7 0 ++ [1])) ∧ fetchTree.desk = 0 ∧
      (∀ k, ((debugged 6 none).served 0 0).desk? 0 = some k → k.held = none) ∧ (slotOf 6 ([6] ++ List.replicate 7 0 ++ [1])).f 56 1 ≤ 1) ∧
    (SlotMay (debugged 1 none) 0 0 0 6 (slotOf 6 ([1] ++ List.replicate 7 0 ++ [1])) ∧ ∃ k, ((debugged 1 none).served 0 0).desk? 0 = some k ∧ k.held ≠ some 1) := by
  refine ⟨fun cmd h free => ?_, by rfl, rfl, rfl, ⟨⟨⟨rfl, by decide +kernel, by decide +kernel, by decide +kernel⟩, by decide +kernel, _, rfl, rfl, .inl rfl⟩, rfl, fun k h => ?_, by decide +kernel⟩,
    ⟨rfl, by decide +kernel, by decide +kernel, by decide +kernel⟩, _, rfl, by decide +kernel⟩
  · simp only [List.mem_cons, List.not_mem_nil, or_false] at h
    rcases h with rfl | rfl | rfl | rfl | rfl | rfl | rfl | rfl | rfl <;>
      exact ⟨⟨rfl, by decide +kernel, by decide +kernel, by decide +kernel⟩, by decide +kernel, _, rfl, rfl, .inr (by decide +kernel)⟩
  · have h' : (some { n := 1, debugOk := true, held := none, lastQueue := 0 } : Option Desk) = some k := h
    cases h'; rfl

/-- A hart with queue 0 assigned: a slot there, and none; the greatest fields; a line that is pending, one that is not and one that is not its own; its desks. -/
def harted (pend : Dword) : State :=
  { requested with harts := [(0, { x := [(1, 1), (2, 0x100), (3, 4096)], queues := [(1, 0)], desks := [0], lines := 1, pending := pend })] }

theorem witness_HartInstructions :
    (∀ k ∈ (harted 0).theHart.queues, k.1 ≠ ((harted 0).theHart.get 3).toNat) ∧
    ((harted 0).theHart.queues.find? (fun k => k.1 == ((harted 0).theHart.get 1).toNat) = some (1, 0) ∧ ((harted 0).theHart.get 1).toNat ≤ 131071 ∧ (requested.request 0 0).isSome = true ∧
      unrequested.request 0 0 = none ∧ (harted 0).queues = requested.queues ∧ (harted 0).mem = requested.mem ∧ (harted 0).desks = requested.desks) ∧
    (hartField 0 0xFC0 true).isSome = true ∧ hartField 0 0xFC1 true = none ∧
    ((harted 0).theHart.get 1 &&& ~~~(harted 0).theHart.lines = 0 ∧ (harted 0).theHart.pending &&& (harted 0).theHart.get 1 = 0 ∧
      (harted 1).theHart.pending &&& (harted 1).theHart.get 1 ≠ 0 ∧ (harted 0).theHart.get 2 &&& ~~~(harted 0).theHart.lines ≠ 0) ∧
    (((harted 0).theHart.get 2).toNat % 128 = 0 ∧ ((harted 0).theHart.get 2).toNat + 128 ≤ hartLocal ∧ ((harted 0).theHart.get 0).toNat ∈ (harted 0).theHart.desks ∧
      ((harted 0).theHart.get 1).toNat % 128 ≠ 0 ∧ bodyMalformed ((harted 0).theHart.mem.gets 0 0x100 128) = false ∧ bodyMalformed (List.replicate 128 1) = true) :=
  ⟨by decide +kernel, ⟨by decide +kernel, by decide +kernel, requested_some, requested_none, rfl, rfl, rfl⟩, by decide +kernel, by decide +kernel, by decide +kernel, by decide +kernel⟩

/-! ## Management, power, tests -/

theorem witness_ManagementCommands :
    (∀ code, ManagementMay calm code) ∧ (∃ s : State, s.recovery = true ∧ ManagementMay s 0x28) ∧ calm.proctor.keys = false ∧ calm.proctor.state = 0 ∧
    (∃ p : Proctor, p.state ≠ 0 ∧ p.state ≠ 5) ∧ calm.domain = none ∧ (List.replicate 112 0#8).length = 112 ∧ (List.replicate 40 0#8).length = 40 ∧
    ((List.replicate 12 0#8).length = 12 ∧ field (leBytes 8 0 ++ leBytes 4 256) 8 4 ≤ 256 ∧ field (leBytes 8 0 ++ leBytes 4 65536) 8 4 ≤ 65536) ∧
    ∃ s : State, s.proctor.state = 5 ∧ s.power = true ∧ s.recovery = false :=
  ⟨fun code => ⟨.inl rfl, fun h => absurd h (by decide), by decide⟩, ⟨{ calm with power := false, recovery := true }, rfl, .inr rfl, fun _ => .inl rfl, by decide⟩, rfl, by decide,
    ⟨{ calm.proctor with lcs := 1 }, by decide, by decide⟩, rfl, by decide, by decide, by decide, ⟨{ calm with proctor := { calm.proctor with lcs := 5 } }, by decide, rfl, rfl⟩⟩

theorem witness_PowerEvents :
    (State.reset.power = false ∧ State.reset.recovery = false) ∧ calm.power = true ∧ 0 ∉ calm.throttled ∧ (∃ s : State, 0 ∈ s.throttled) ∧ (3 ≤ 3 ∧ calm.test? 3 0 = none) ∧
    (∃ s : State, s.test? 3 0 = none ∧ s.proctor.tested.get s.proctor.onAt (3 * 96) + 600 ≤ s.seconds) ∧
    (∃ s : State, s.test? 3 0 = some (3, 0, none) ∧ s.proctor.tested.get s.proctor.onAt (3 * 96) + 3600 ≤ s.seconds) ∧
    (∃ (s : State) (x : Nat × Nat × Option Nat), s.test? 3 0 = some x ∧ ∀ c, x.2.2 = some c → s.drainedCore c = true) ∧ 2200000 < 2200001 :=
  ⟨⟨rfl, rfl⟩, rfl, by decide, ⟨{ calm with throttled := [0] }, List.mem_cons_self⟩, by decide,
    ⟨{ calm with seconds := 600 }, rfl, by decide⟩, ⟨{ calm with seconds := 3600, tests := [(3, 0, none)] }, rfl, by decide⟩,
    ⟨{ calm with wave := { calm.wave with status := .ended }, tests := [(3, 0, some 0)] }, _, rfl, fun c h => by cases h; decide⟩, by decide⟩

/-! ## Frames, retirement, reset, step, decoding, the canonical form -/

theorem answers (i : Instr) (s : State) (h : (match exec i s with | .next _ => true | _ => false) = true) : ∃ s', exec i s = .next s' := by
  revert h
  cases exec i s with
  | next s' => exact fun _ => ⟨s', rfl⟩
  | fault e => intro h; cases h
  | refused r => intro h; cases h

theorem witness_RegisterFrame :
    (calm.wave.frag = some calmFrag ∧ calm.tree? calm.wave.tree = some fetchTree ∧ noSplit calmFrag ∧ Quiet .seq ∧ Quiet (.apply 0 (.goto 0)) ∧ calm.wave.flight = []) ∧
    (destOf (.vfaddF32 63 1 2 7) = some (.v 63) ∧ Ready (.vfaddF32 63 1 2 7) calm calmFrag fetchTree ∧ roundsWell calmFrag (.vfaddF32 63 1 2 7) ∧ flagging (.vfaddF32 63 1 2 7) = true ∧
      ∃ s', exec (.vfaddF32 63 1 2 7) calm = .next s') ∧
    (destOf (.adda 15 1 2) = some (.a 15) ∧ flagging (.adda 15 1 2) = false ∧ ∃ s', exec (.adda 15 1 2) calm = .next s') :=
  ⟨⟨rfl, rfl, rfl, trivial, rfl, rfl⟩, ⟨rfl, calm_ready _ rfl, trivial, rfl, answers _ _ (by decide +kernel)⟩,
    ⟨rfl, rfl, answers _ _ (by decide +kernel)⟩⟩

theorem near_one : MayAccess (waved addresses) fetchTree .write 8 [(noLane, 0x100)] := ⟨by decide, fun _ => by decide, fun h => absurd h (by decide)⟩

/-- A near store, a far one; SST of eight bytes; an atomic's lane. -/
theorem witness_StoreFrame :
    (storeForm (waved addresses).wave calmFrag (.sst 31 1 3 0) = some (8, [(noLane, 0x100)], none) ∧ Ready (.sst 31 1 3 0) (waved addresses) calmFrag fetchTree ∧ noSplit calmFrag ∧
      fetchTree.cmode = false ∧ MayAccess (waved addresses) fetchTree .write 8 [(noLane, 0x100)] ∧ (∃ s', exec (.sst 31 1 3 0) (waved addresses) = .next s') ∧
      (waved addresses).wave.sAddr 1 0 = 0x100 ∧ 0x100 < 0x27C000) ∧
    ((waved addresses).allNear 0 1 [(noLane, 0x2000100)] = false ∧ (∃ s', exec (.sst 31 2 3 0) (waved addresses) = .next s') ∧
      storeForm (waved addresses).wave calmFrag (.sst 31 2 3 0) = some (8, [(noLane, 0x2000100)], none)) :=
  ⟨⟨rfl, addresses_ready _ rfl, rfl, rfl, near_one, answers _ _ (by decide +kernel), rfl, by decide⟩,
    ⟨by decide, answers _ _ (by decide +kernel), rfl⟩⟩

/-- The instruction outside a loop, at the end of a body whose count is 2, 1, in a delay slot; a result that lands after one slot and one that does not. -/
theorem witness_Retirement :
    (calm.wave.frag = some calmFrag ∧ calm.tree? calm.wave.tree = some fetchTree ∧ calm.wave.status = .live ∧ (∀ g, calm.wave.getSlot (!calm.wave.cur) = some g → g.atJoin = false) ∧
      calmFrag.after = none ∧ calmFrag.join = none ∧ calm.wave.lcnt = 0 ∧ calm.wave.retired + 1 ≠ fetchTree.q) ∧
    (∀ n : Dword, ∃ s : State, s.wave.frag = some calmFrag ∧ s.tree? s.wave.tree = some fetchTree ∧ s.wave.status = .live ∧ s.wave.lcnt = n ∧ calmFrag.pc = s.wave.loopEnd) ∧
    (∃ s : State, s.wave.frag = some calmFrag ∧ s.tree? s.wave.tree = some fetchTree ∧ s.wave.status = .live ∧ s.wave.retired + 1 = fetchTree.q) ∧
    (∃ (s : State) (f : Frag) (g : Dword), s.wave.frag = some f ∧ s.tree? s.wave.tree = some fetchTree ∧ s.wave.status = .live ∧ f.after = some (.goto g) ∧ f.join ≠ some g) ∧
    (∀ lat, ∃ s : State, s.wave.frag = some calmFrag ∧ s.tree? s.wave.tree = some fetchTree ∧ s.wave.status = .live ∧
      s.wave.flight = [{ slot := s.wave.cur, left := lat, res := .sca 31 1 }]) :=
  ⟨⟨rfl, rfl, rfl, (fun g h => nomatch h), rfl, rfl, rfl, by decide⟩, fun n => ⟨waved fun w => { w with lcnt := n, loopEnd := 0x2000000 }, rfl, rfl, rfl, rfl, rfl⟩,
    ⟨waved fun w => { w with retired := 4095 }, rfl, rfl, rfl, rfl⟩,
    ⟨waved fun w => w.setFrag { calmFrag with after := some (.goto 0x2000010) }, _, _, rfl, rfl, rfl, rfl, by decide⟩,
    fun lat => ⟨waved fun w => { w with flight := [{ slot := false, left := lat, res := .sca 31 1 }] }, rfl, rfl, rfl, rfl⟩⟩

/-- An input that waits; a hart's word; no wave to issue; a word that decodes, one that does not, and a PC that does not resolve. -/
theorem witness_StepRunsTheDecodedInstruction :
    (∃ s : State, s.inbox = [.supplyDroop]) ∧ (∃ s : State, s.inbox = [] ∧ s.mail = [leBytes 8 2]) ∧ calm.mail = [] ∧
    (∃ (s : State) (w : Nat), s.inbox = [] ∧ s.power = true ∧ s.hartWord = some w ∧ s.hartReady w = true ∧ (decodeXaedq w).isSome = true) ∧
    (calm.inbox = [] ∧ calm.power = true ∧ calm.hartWord = none ∧ calm.agenda = []) ∧
    (calm.act.isNone = true ∧ (calm.nextIssue.map (·.1)) = some 0 ∧ calm.fetch fetchTree 0 calmFrag.pc = .ok (1, 4)) ∧ decode (leBytes 4 1) = .ok (.add 0 0 0, []) ∧
    (∃ maj, decode (leBytes 4 0x00FC0001) = .error (.illegal maj)) ∧ calm.fetch fetchTree 0 0x6000000 = .error { code := XLATE, addr := 0x6000000 } ∧
    ∃ s : State, s.inbox = [] ∧ s.power = true ∧ s.hartWord = none ∧ s.agenda = [] ∧ s.act.isNone = true ∧ s.nextIssue.isNone = true :=
  ⟨⟨{ calm with inbox := [.supplyDroop] }, rfl⟩, ⟨{ calm with mail := [leBytes 8 2] }, rfl, rfl⟩, rfl, ⟨{ calm with hartWord := some 0x0093118B }, 0x0093118B, rfl, rfl, rfl, by decide +kernel, by decide +kernel⟩, ⟨rfl, rfl, rfl, rfl⟩,
    ⟨by decide +kernel, by decide +kernel, rfl⟩, rfl, ⟨_, rfl⟩, rfl, ⟨{ State.reset with power := true }, rfl, rfl, rfl, rfl, by decide +kernel, by decide +kernel⟩⟩

theorem witness_DecodeOfEncode : cis (.bfx 31 31 63 0 1) = true ∧ (Instr.bfx 31 31 63 0 1).wellFormed = true ∧ decode (leBytes 4 1 ++ [7#8]) = .ok (.add 0 0 0, [7]) ∧ Instr.add 0 0 0 ≠ .udf :=
  ⟨rfl, rfl, rfl, by decide⟩

theorem witness_CanonicalKept : Canonical calm ∧ ∃ s', step calm = .next s' := by
  refine ⟨⟨by decide +kernel, by decide +kernel, by decide +kernel, by decide +kernel⟩, ?_⟩
  have h : (match step calm with | .next _ => true | _ => false) = true := by decide +kernel
  revert h
  cases step calm with
  | next s' => exact fun _ => ⟨s', rfl⟩
  | fault e => intro h; cases h
  | refused r => intro h; cases h

/-! ## The effects of links, queues, slots, debug commands, management -/

/-- A timed flit for a core of this device, the last of its send, with a handle. -/
theorem witness_TimedEvents_effect :
    ∃ (s : State) (x : Send), s.sends.find? (fun x => x.id == 0 && decide (0 < x.len) && decide (x.start + 0 ≤ s.chc)) = some x ∧ s.stoppedBefore x.tree = false ∧
      s.clashNow (x.accs + 2 * 0) = none ∧ x.pdev = s.devNo ∧ 0 + 1 = x.len ∧ x.handle = some 3 ∧ ((s.core x.core).handles.get {} 3).state = 0 :=
  ⟨{ chorus id with sends := [{ id := 0, wid := 0, core := 0, tree := 1, handle := some 3, start := 0, len := 1, src := 0, pdev := 0, pcore := 0, doff := 0, tag := 0, attempt := 0 }] },
    _, rfl, rfl, rfl, rfl, rfl, rfl, rfl⟩

/-- A run that is the lowest not received, the last of the window, and the first and the last beyond it. -/
theorem witness_LinkEvents_effect :
    let f := calm.flowsIn.get {} (flowKey 1 2)
    f.cut = none ∧ f.got.contains 0 = false ∧ 0 = f.low ∧ f.got = [] ∧ (0 + 2 ^ 32 - f.low) % 2 ^ 32 < 1024 ∧ (1023 + 2 ^ 32 - f.low) % 2 ^ 32 < 1024 ∧
    1024 ≤ (1024 + 2 ^ 32 - f.low) % 2 ^ 32 ∧ (2 ^ 31 - 1 + 2 ^ 32 - f.low) % 2 ^ 32 < 2 ^ 31 := by decide +kernel

/-- A desk whose queue table is at 0x2000400, with one entry: 16 slots at 0x2000800. -/
def entered (en : Byte) (x : Queue) : State :=
  { calm with desks := [(0, some { n := 1, queues := 1, qbase := 0x2000400, unchecked := true })], queues := if x = {} then [] else [(queueKey 0 0, x)]
              mem := Store.puts emptyByte calm.mem 0x2000400 (leBytes 8 0x2000800 ++ leBytes 4 16 ++ [en]) }

theorem all_leave {s : State} {desk va len : Nat}
    (h : ((s.pagesOf (deskView desk) (s.deskN desk) va len).all fun p => match p.2 with | .ok y => s.mayLeave desk va (va + len) p.1 y | .error _ => false) = true) :
    ∀ p ∈ s.pagesOf (deskView desk) (s.deskN desk) va len, ∃ y, p.2 = .ok y ∧ s.mayLeave desk va (va + len) p.1 y = true := by
  intro p hp
  have h' := List.all_eq_true.1 h p hp
  cases hq : p.2 with
  | ok y => exact ⟨y, rfl, by simpa [hq] using h'⟩
  | error c => simp [hq] at h'

/-- An entry that is off, one that is on; a kick that moves K and one of a dead queue; a range that may leave. -/
theorem witness_QueueEvents_effect :
    (byteAt ((entered 0 {}).deskRead 0 (0x2000400 + 16 * 0) 16) 12 = 0) ∧
    (let e := (entered 1 {}).deskRead 0 (0x2000400 + 16 * 0) 16
     byteAt e 12 = 1 ∧ field e 0 8 % 256 = 0 ∧ powerIn (field e 8 4) 16 65536 = true ∧ field e 13 3 = 0 ∧ field e 0 8 + 256 * field e 8 4 ≤ 2 ^ 47 ∧
       (entered 1 {}).deskOk 0 .read (field e 0 8) (256 * field e 8 4) = true ∧ ((entered 1 {}).queue 0 0).live = false) ∧
    (∃ d, (entered 1 {}).desks = [(0, some d)]) ∧
    (((entered 1 { live := true, ring := 0x2000800, nslot := 16, k := 7 }).readEntry 0 0).queue 0 0 = { live := true, ring := 0x2000800, nslot := 16, k := 7 }) ∧
    ((entered 0 {}).readEntry 0 0).queue 0 0 = {} ∧
    ((entered 0 {}).deskOk 0 .read 0x2000000 64 = true ∧ (entered 0 {}).deskBad? 0 0x2000000 64 = none ∧
      ∀ p ∈ (entered 0 {}).pagesOf (deskView 0) ((entered 0 {}).deskN 0) 0x2000000 64, ∃ y, p.2 = .ok y ∧ (entered 0 {}).mayLeave 0 0x2000000 (0x2000000 + 64) p.1 y = true) :=
  ⟨by decide +kernel, by decide +kernel, ⟨_, rfl⟩, by decide +kernel, by decide +kernel, by decide +kernel, by decide +kernel, all_leave (by decide +kernel)⟩

/-- The code object of the one tree of `calm`, and a launch body that names its kernel. -/
def coded (x : Slot) : State := { slotted x with codes := [fetchTree.code] }

def bodyHere : List Byte := leBytes 8 0x2000000 ++ List.replicate 120 0

/-- A prologue that asks for three launches: addi a0, x0, 2; addi a1, x0, 3; ecall (assumption log 20). -/
def asking : State := { slotted (slotOf 2 bodyHere) with mem := Store.puts emptyByte calm.mem 0x2000000 (leBytes 4 0x00200513 ++ leBytes 4 0x00300593 ++ leBytes 4 0x00000073) }

/-- A code object of one kernel, of no bytes. -/
def imgCode : CodeObj := { desk := 0, addr := 0, len := 0, kernels := [{ entry := 0 }] }

/-- The digest of the Manifest of its launch. -/
def imgDigest : List Byte := sha (calm.manifestOf 0 { n := 1 } imgCode { entry := 0 })

/-- A saved tree of that kernel all of whose grids have ended, which the device holds no more. -/
def keptForm (id : Nat) : Saved :=
  { tree := { fetchTree with id := id, grids := [], code := imgCode, mdig := imgDigest }, teams := [], waves := [], cores := [], slices := [], slicesC := [], accs := [], image := (0, 0), nonce := 0, held := false }

/-- The same with the header of its image. -/
def keptImage (id : Nat) : Saved := { keptForm id with header := (keptForm id).headerBytes 0 0 }

/-- The desk of the witnesses with a tenant key. -/
def keyedDesk (held : Option Nat) : Desk := { n := 1, key := some [], debugOk := true, held := held }

/-- A desk reads back what stands in its page of device memory, whatever the bytes are. -/
theorem read_placed (s : State) (d : Desk) (bs : List Byte) (o n : Nat) (hm : s.mem = Store.puts emptyByte calm.mem 0x2000400 bs) (hd : s.desk? 0 = some d) (hr : d.root = 0)
    (hs : d.stackMap = List.range 8) (hp : s.pinsOf 511 = none) (hl : bs.length ≤ 0x1000) (ho : o + n ≤ bs.length) :
    s.deskRead 0 (0x2000400 + o) n = (bs.drop o).take n := by
  have low : ∀ pa, pa < 0x2000400 → s.devByte pa = calm.devByte pa := fun pa h => by
    unfold State.devByte; rw [hm, Store.get_puts, if_neg (by omega)]
  have nat : ∀ pa, pa + 8 < 0x2000400 → s.devNat pa 8 = calm.devNat pa 8 := fun pa h => by
    have : Store.gets emptyByte s.mem pa 8 = Store.gets emptyByte calm.mem pa 8 := by
      simp only [Store.gets, List.cons.injEq, and_true]
      exact ⟨low _ (by omega), low _ (by omega), low _ (by omega), low _ (by omega), low _ (by omega), low _ (by omega), low _ (by omega), low _ (by omega)⟩
    unfold State.devNat; rw [this]
  have walks : ∀ x < 0x1000, s.walk 0 (0x2000400 + x) =
      some { pte := 0x4008, raw := 0x200003F, size := 0x2000000, off := 0x400 + x, stackMap := List.range 8 } := fun x hx => by
    have h1 : (0x2000400 + x) / 2 ^ 36 % 2048 = 0 := by omega
    have h2 : (0x2000400 + x) / 2 ^ 25 % 2048 = 1 := by omega
    have e1 : s.devNat 0 8 = 0x4001 := (nat 0 (by decide)).trans (by decide +kernel)
    have e2 : s.devNat 0x4008 8 = 0x200003F := (nat 0x4008 (by decide)).trans (by decide +kernel)
    have b1 : pteBad 0x4001 (2 ^ 36) false = false := by decide
    have b2 : pteBad 0x200003F (2 ^ 25) false = false := by decide
    have s1 : onStack (List.range 8) (pteFrame 0x4001) = 0x4000 := by decide
    have o1 : (0x2000400 + x) % 2 ^ 25 = 0x400 + x := by omega
    have r0 : d.rootOf 0 = 0 := by simp [Desk.rootOf, hr]
    have b3 : bit 0x4001 1 = false := by decide
    have b4 : bit 0x200003F 1 = true := by decide
    simp only [State.walk, State.walkIn, hd, hs, r0, State.walkFrom, h1, h2, Nat.mul_zero, Nat.add_zero, e1, List.isEmpty_cons, b1, b3, s1, Nat.mul_one, e2, b2, b4, o1,
      if_true, if_false, Bool.false_eq_true] <;> rfl
  have byte : ∀ x < bs.length, s.nowByte (deskView 0) (s.deskN 0) (0x2000400 + x) = bs.getD x emptyByte := fun x hx => by
    have hx' : x < 0x1000 := by omega
    have hl : s.locate (deskView 0) (s.deskN 0) (0x2000400 + x) =
        .ok (.page { pte := 0x4008, raw := 0x200003F, size := 0x2000000, off := 0x400 + x, stackMap := List.range 8 }) := by
      have l1 : ¬ 0x2000400 + x < 0x400000 := by omega
      have l2 : 0x2000400 + x < 0x7E0000000000 := by omega
      simp only [State.locate, l1, l2, if_true, if_false, State.xlate, deskView, Nat.zero_mul, Nat.zero_add, hp, show 511 / 512 = 0 from rfl, walks x hx']
    have hf : ∀ o, Xlat.readFrame { pte := 0x4008, raw := 0x200003F, size := 0x2000000, off := o, stackMap := List.range 8 } = 0x2000000 := fun o => by
      have p : Xlat.pbl { pte := 0x4008, raw := 0x200003F, size := 0x2000000, off := o, stackMap := List.range 8 } = false := (by decide : bit 0x200003F 63 = false)
      simp only [Xlat.readFrame, Xlat.readLog, p, Bool.false_and, Bool.false_eq_true, if_false]
      decide
    unfold State.nowByte; rw [hl]
    simp only [State.byteAtLoc, hf]
    unfold State.devByte; rw [hm, Store.get_puts, if_pos (by omega), show 0x2000000 + (0x400 + x) - 0x2000400 = x by omega]
  unfold State.deskRead
  apply List.ext_getElem
  · simp; omega
  · intro i h1 h2
    have hi : i < n := by simpa using h1
    simp only [List.getElem_map, List.getElem_range, List.getElem_take, List.getElem_drop]
    rw [Nat.add_assoc, byte (o + i) (by omega), List.getD_eq_getElem?_getD, List.getElem?_eq_getElem (by omega), Option.getD_some]

theorem imgDigest_length : imgDigest.length = 48 := by unfold imgDigest sha; exact Vector.length_toList

theorem sized_length (n : Nat) (bs : List Byte) : (sized n bs).length = n := by unfold sized; simp

/-- A part of a record between its start and its end. -/
theorem sized_part (n : Nat) (a b c : List Byte) (h : a.length + b.length ≤ n) : ((sized n (a ++ b ++ c)).drop a.length).take b.length = b := by
  unfold sized
  rw [List.append_assoc, List.append_assoc, List.drop_take, List.drop_left', List.take_take, Nat.min_eq_left (by omega), List.take_left'] <;> rfl

/-- The kept image's header holds the digest. -/
theorem kept_digest (id : Nat) : ((keptImage id).header.drop 32).take 48 = imgDigest := by
  have hs : sized 48 imgDigest = imgDigest := by
    unfold sized; rw [List.take_append_of_le_length (Nat.le_of_eq imgDigest_length.symm), List.take_of_length_le (Nat.le_of_eq imgDigest_length)]
  let t := (keptForm id).tree
  let pre := leBytes 4 0x58434C43 ++ leBytes 2 1 ++ leBytes 1 (modeByte t.cmode t.coRes t.resv) ++ leBytes 1 (Nat.log2 t.q) ++ leBytes 4 Config.stepping.toNat ++
    leBytes 4 t.n ++ leBytes 4 t.liveGrids.length ++ leBytes 2 t.desk ++ leBytes 2 0 ++ leBytes 8 (keptForm id).size
  have h : (keptImage id).header = sized 512 (pre ++ imgDigest ++ (leBytes 8 id ++ leBytes 8 0 ++ leBytes 12 0)) := by
    conv => rhs; rw [← hs]
    unfold keptImage Saved.headerBytes
    simp only [List.append_assoc, pre, t]
    rfl
  have hp : pre.length = 32 := rfl
  rw [h, ← hp]
  conv => lhs; rw [← imgDigest_length]
  exact sized_part _ _ _ _ (by rw [hp, imgDigest_length]; decide)

/-- The kept image's header names its length, the stepping, the desk's cores and the desk. -/
theorem kept_header (id : Nat) (h : id = 1 ∨ id = 9) :
    (keptImage id).header.length = 512 ∧ (keptImage id).size = 528 ∧ (keptImage id).plain = [] ∧ field (keptImage id).header 24 8 = 528 ∧ field (keptImage id).header 0 4 = 0x58434C43 ∧
    field (keptImage id).header 4 2 = 1 ∧ field (keptImage id).header 8 4 = Config.stepping.toNat ∧ field (keptImage id).header 12 4 = 1 ∧ field (keptImage id).header 20 2 = 0 := by
  have hs : ∀ id, field (keptImage id).header 8 4 = leNat (leBytes 4 Config.stepping.toNat) := fun _ => rfl
  have hm : leNat (leBytes 4 Config.stepping.toNat) = Config.stepping.toNat := by
    rw [leNat_leBytes, Nat.mod_eq_of_lt (by have := Config.stepping.isLt; simpa using this)]
  rcases h with rfl | rfl <;>
    exact ⟨by unfold keptImage Saved.headerBytes; rw [sized_length], by decide +kernel, rfl, by decide +kernel, by decide +kernel, by decide +kernel, (hs _).trans hm, by decide +kernel, by decide +kernel⟩

/-- The Manifest of that kernel's launch is the same in every such desk. -/
theorem manifest_same (s s' : State) (d d' : Desk) (hp : s.proctor = s'.proctor) (h : d' = { d with key := d'.key, debugOk := d'.debugOk, held := d'.held, lastQueue := d'.lastQueue }) :
    s.manifestOf 0 d' imgCode { entry := 0 } = s'.manifestOf 0 d imgCode { entry := 0 } := by
  have hr : ∀ z : State, z.deskRead 0 imgCode.addr imgCode.len = [] := fun _ => rfl
  rw [h]; unfold State.manifestOf; rw [hr, hr, hp]; rfl

/-- The kernel of that digest is one of a desk of one core that has the code object, unmeasured. -/
theorem kernel_there {s : State} {d : Desk} (hc : s.codes = [imgCode]) (hp : s.proctor = calm.proctor) (hd : s.desk? 0 = some d)
    (h : d = { ({ n := 1 } : Desk) with key := d.key, debugOk := d.debugOk, held := d.held, lastQueue := d.lastQueue }) : s.kernelOf 0 0 imgDigest ≠ none := by
  have hm := manifest_same s calm _ _ hp h
  have hk : imgCode.kernels[0]? = some { entry := 0 } := rfl
  have hi : imgCode.desk = 0 := rfl
  have hx : sha (calm.manifestOf 0 { n := 1 } imgCode { entry := 0 }) = imgDigest := rfl
  unfold State.kernelOf
  rw [hd, hc]
  simp only [List.findSome?_cons, hk, hi, Option.bind_some, hm, hx, ne_eq, not_true_eq_false, if_false, if_true]
  simp

/-- The bytes of the kept image, at 0x2000400. -/
def withImage (s : State) (id : Nat) : State := { s with mem := Store.puts emptyByte calm.mem 0x2000400 ((keptImage id).sealed []), saved := [keptImage id], codes := [imgCode] }

theorem sealed_length (id : Nat) (h : id = 1 ∨ id = 9) : ((keptImage id).sealed []).length = 528 := by
  obtain ⟨h1, _, h3, _⟩ := kept_header id h
  simp [Saved.sealed, h1, h3, gcmStream_length]

theorem image_there (s : State) (d : Desk) (id : Nat) (fresh : Bool) (h : id = 1 ∨ id = 9) (hm : s.mem = Store.puts emptyByte calm.mem 0x2000400 ((keptImage id).sealed []))
    {rest : List Saved} (hv : s.saved = keptImage id :: rest) (hd : s.desk? 0 = some d) (hr : d.root = 0) (hs : d.stackMap = List.range 8) (hk : d.key = some []) (hp : s.pinsOf 511 = none)
    (hc : s.codes = [imgCode]) (hq : s.proctor = calm.proctor) (hn : d = { ({ n := 1 } : Desk) with key := d.key, debugOk := d.debugOk, held := d.held, lastQueue := d.lastQueue }) :
    s.imageAt fresh 0 0x2000400 528 = some (keptImage id) ∧ field (s.deskRead 0 (0x2000400 + 24) 8) 0 8 = 528 := by
  obtain ⟨h1, h2, h3, h4, h5, h6, h7, h8, h9⟩ := kept_header id h
  have len := sealed_length id h
  constructor
  · rw [← h2]
    refine State.imageAt_sealed fresh hd hk ?_ h1 (by rw [h3, h2]; rfl) (h4.trans h2.symm) h5 h6 h7 (h8.trans (by rw [State.deskN, hd]; exact (congrArg Desk.n hn).symm)) h9 ?_ rfl
      (by rw [h3, kept_digest]; exact kernel_there hc hq hd hn)
    · rw [h2]
      have r := read_placed s d _ 0 528 hm hd hr hs hp (by omega) (by omega)
      rw [Nat.add_zero, List.drop_zero, List.take_of_length_le (by omega)] at r
      exact r
    · rw [hv]; simp
  · rw [read_placed s d _ 24 8 hm hd hr hs hp (by omega) (by omega)]
    have : ((keptImage id).sealed []).drop 24 = (keptImage id).header.drop 24 ++ (gcmStream [] (((keptImage id).header.drop 96).take 12) (keptImage id).plain ++
        (Config.gcmTag [] (((keptImage id).header.drop 96).take 12) (keptImage id).header (keptImage id).plain).toList) := by
      rw [Saved.sealed, List.append_assoc, List.drop_append_of_le_length (by omega)]
    rw [this, List.take_append_of_le_length (by rw [List.length_drop]; omega)]
    rw [field, List.drop_zero, List.take_take]
    exact h4

/-- A RESUME slot of that image. -/
def resumeSlot : Slot := slotOf 7 (leBytes 8 0x2000400 ++ leBytes 8 528)

theorem served_frame (s : State) (d q : Nat) :
    (s.served d q).mem = s.mem ∧ (s.served d q).saved = s.saved ∧ (s.served d q).codes = s.codes ∧ (s.served d q).proctor = s.proctor := by
  unfold State.served State.updDesk; split <;> exact ⟨rfl, rfl, rfl, rfl⟩
theorem withImage_mem (s : State) (id : Nat) : (withImage s id).mem = Store.puts emptyByte calm.mem 0x2000400 ((keptImage id).sealed []) := by simp only [withImage]
theorem withImage_saved (s : State) (id : Nat) : (withImage s id).saved = [keptImage id] := by simp only [withImage]
theorem withImage_codes (s : State) (id : Nat) : (withImage s id).codes = [imgCode] := by simp only [withImage]
theorem withImage_proctor (s : State) (id : Nat) : (withImage s id).proctor = s.proctor := by simp only [withImage]

def unimaged : State := { slotted resumeSlot with desks := [(0, some (keyedDesk none))] }

def imaged (id : Nat) : State := withImage unimaged id

theorem imaged_desk (id : Nat) : ((imaged id).served 0 0).desk? 0 = some { keyedDesk none with lastQueue := 0 } := rfl

theorem imaged_pins (id : Nat) (h : id = 1 ∨ id = 9) : ((imaged id).served 0 0).pinsOf 511 = none := by rcases h with rfl | rfl <;> decide +kernel

theorem imaged_there (id : Nat) (h : id = 1 ∨ id = 9) : ((imaged id).served 0 0).imageAt true 0 (resumeSlot.f 24 8) (resumeSlot.f 32 8) = some (keptImage id) := by
  have a1 : resumeSlot.f 24 8 = 0x2000400 := by decide +kernel
  have a2 : resumeSlot.f 32 8 = 528 := by decide +kernel
  rw [a1, a2]
  exact (image_there _ { keyedDesk none with lastQueue := 0 } id true h ((served_frame _ _ _).1.trans (withImage_mem _ _))
    ((served_frame _ _ _).2.1.trans (withImage_saved _ _)) (imaged_desk id) rfl rfl rfl (imaged_pins id h) ((served_frame _ _ _).2.2.1.trans (withImage_codes _ _))
    ((served_frame _ _ _).2.2.2.trans (withImage_proctor _ _)) rfl).1

/-- A shared-queue descriptor at 0x2000400: ring at 0x2000800, 16 slots. -/
def described (sub : Byte) : Slot := slotOf 4 (leBytes 8 0x2000400 ++ [sub])

theorem witness_SlotEvents_effect :
    (∃ id s2, ((coded (slotOf 1 bodyHere)).served 0 0).launch 0 (launchOf (slotOf 1 bodyHere).launchBody) (some (0, 0, 0)) = some (id, s2) ∧ (slotOf 1 bodyHere).f 152 16 = 0 ∧
      bodyMalformed (slotOf 1 bodyHere).launchBody = false ∧ SlotMay (slotted (slotOf 1 bodyHere)) 0 0 0 1 (slotOf 1 bodyHere)) ∧
    ((slotted (slotOf 1 [])).served 0 0).launch 0 (launchOf (slotOf 1 []).launchBody) (some (0, 0, 0)) = none ∧
    ((asking.served 0 0).prologue 0 0x2000000 0 (slotOf 2 bodyHere).launchBody = .call 2 3 (slotOf 2 bodyHere).launchBody ∧ bodyMalformed (slotOf 2 bodyHere).launchBody = false) ∧
    (∀ sub ∈ [0#8, 1], (described sub).f 32 1 ≤ 1 ∧ (described sub).f 24 8 % 64 = 0 ∧ calm.deskOk 0 .read ((described sub).f 24 8) 64 = true ∧
      calm.deskOk 0 .write ((described sub).f 24 8) 64 = true ∧ SlotMay (slotted (described sub)) 0 0 0 4 (described sub)) ∧
    descriptorOk ({ calm with mem := Store.puts emptyByte calm.mem 0x2000410 (leBytes 8 0x2000800 ++ leBytes 4 16) }.deskRead 0 0x2000400 64) = true ∧
    (SlotMay (imaged 9) 0 0 0 7 resumeSlot ∧ ((imaged 9).served 0 0).imageAt true 0 (resumeSlot.f 24 8) (resumeSlot.f 32 8) = some (keptImage 9) ∧ ((imaged 9).served 0 0).tree? 9 = none ∧
      ((imaged 1).served 0 0).imageAt true 0 (resumeSlot.f 24 8) (resumeSlot.f 32 8) = some (keptImage 1) ∧ (((imaged 1).served 0 0).tree? 1).isSome = true) := by
  refine ⟨⟨_, _, rfl, by decide +kernel, by decide +kernel, slot_may rfl (by decide +kernel) (by decide +kernel) (by decide +kernel)⟩, rfl, by decide +kernel, fun sub h => ?_,
    by decide +kernel, ⟨rfl, by decide +kernel, by decide +kernel, by decide +kernel⟩, imaged_there 9 (.inr rfl), rfl, imaged_there 1 (.inl rfl), by decide +kernel⟩
  simp only [List.mem_cons, List.not_mem_nil, or_false] at h
  rcases h with rfl | rfl <;> exact ⟨by decide +kernel, by decide +kernel, by decide +kernel, by decide +kernel, slot_may rfl (by decide +kernel) (by decide +kernel) (by decide +kernel)⟩

/-- A debug slot on tree 1 with a buffer at 0x2000400. -/
def dbgSlot (cmd : Nat) (buf : Nat) : Slot := slotOf 6 ([BitVec.ofNat 8 cmd] ++ List.replicate 7 0 ++ leBytes 8 1 ++ leBytes 8 0 ++ leBytes 8 buf)

/-- A fault that a session holds back. -/
def heldFault : Held := { wid := 0, flt := { code := 130 } }

/-- A held tree in its debug stop, with a fault that holds it, and an image of a tree of its number. -/
def stopped (cmd buf : Nat) : State :=
  { slotted (dbgSlot cmd buf) with desks := [(0, some (keyedDesk (some 1)))], trees := [{ fetchTree with debug := true, held := [heldFault] }] }

/-- The same with no fault, its tree saved for the stop. -/
def savedStop (cmd buf : Nat) : State :=
  { slotted (dbgSlot cmd buf) with
    desks := [(0, some (keyedDesk (some 1)))], trees := [], teams := [], wave := { calm.wave with status := .idle }
    saved := [{ keptForm 1 with held := true, tree := { fetchTree with saveWhy := 2 } }] }

theorem witness_DebugCommands_effect :
    (∀ cmd ∈ [0, 1, 2, 3, 4, 5, 7, 8], CommandMay (stopped cmd 0x2000400) 0 0 0 cmd false (dbgSlot cmd 0x2000400)) ∧
    (∃ t w, ((stopped 2 0x2000400).served 0 0).tree? (dbgSlot 2 0x2000400).dbgTree = some t ∧ ((stopped 2 0x2000400).served 0 0).stepWave 1 ((dbgSlot 2 0x2000400).f 40 8) = some w ∧
      t.cmode = false ∧ t.debug = true ∧ t.held = [heldFault] ∧ w.status = .live ∧ ((stopped 2 0x2000400).served 0 0).deskOk 0 .write 0x2000400 reportBytes = true) ∧
    (∃ v, ((stopped 4 0x2000400).served 0 0).debugForm 1 = some v ∧ ((stopped 4 0x2000400).served 0 0).deskOk 0 .write 0x2000400 v.size = true) ∧
    (∃ v, ((savedStop 4 0x2000400).served 0 0).debugForm 1 = some v ∧ ((savedStop 4 0x2000400).served 0 0).tree? 1 = none ∧
      ((savedStop 4 0x2000400).served 0 0).deskOk 0 .write 0x2000400 v.size = true ∧ CommandMay (savedStop 4 0x2000400) 0 0 0 4 false (dbgSlot 4 0x2000400)) := by
  refine ⟨fun cmd h => ?_, ⟨_, _, rfl, rfl, rfl, rfl, rfl, rfl, by decide +kernel⟩, ⟨_, rfl, by decide +kernel⟩,
    ⟨_, rfl, rfl, by decide +kernel, ⟨rfl, by decide +kernel, by decide +kernel, by decide +kernel⟩, by decide +kernel, _, rfl, rfl, .inr (by decide +kernel)⟩⟩
  simp only [List.mem_cons, List.not_mem_nil, or_false] at h
  rcases h with rfl | rfl | rfl | rfl | rfl | rfl | rfl | rfl <;>
    exact ⟨⟨rfl, by decide +kernel, by decide +kernel, by decide +kernel⟩, by decide +kernel, _, rfl, rfl, .inr (by decide +kernel)⟩

/-- WRITECTX of an image that stands in the buffer, on a tree in its debug stop and on one saved for it. -/
theorem witness_DebugCommands_write :
    (let s := (withImage (stopped 5 0x2000400) 1).served 0 0
     field (s.deskRead 0 ((dbgSlot 5 0x2000400).f 48 8 + 24) 8) 0 8 = 528 ∧ s.deskOk 0 .read 0x2000400 0 = true ∧
       s.imageAt false 0 ((dbgSlot 5 0x2000400).f 48 8) 528 = some (keptImage 1) ∧ (keptImage 1).tree.id = (dbgSlot 5 0x2000400).dbgTree ∧
       ∃ t, s.tree? 1 = some t ∧ t.debug = true) := by
  have a1 : (dbgSlot 5 0x2000400).f 48 8 = 0x2000400 := by decide +kernel
  have h := image_there ((withImage (stopped 5 0x2000400) 1).served 0 0) { keyedDesk (some 1) with lastQueue := 0 } 1 false (.inl rfl)
    ((served_frame _ _ _).1.trans (withImage_mem _ _)) ((served_frame _ _ _).2.1.trans (withImage_saved _ _)) rfl rfl rfl rfl (by decide +kernel)
    (served_frame _ _ _).2.2.1 (served_frame _ _ _).2.2.2 rfl
  simp only [a1]
  exact ⟨h.2, rfl, h.1, by decide +kernel, _, rfl, rfl⟩

/-- A hart that dispatches a body, in a desk with code and in one without. -/
theorem witness_HartInstructions_effect :
    let s : State := { calm with codes := [fetchTree.code], harts := [(0, { x := [(2, 0x100)], desks := [0], mem := Store.puts 0 [] 0x100 (leBytes 8 0x2000000) })] }
    let body := s.theHart.mem.gets 0 (s.theHart.get 2).toNat 128
    (s.theHart.get 2).toNat % 128 = 0 ∧ (s.theHart.get 2).toNat + 128 ≤ hartLocal ∧ (s.theHart.get 0).toNat ∈ s.theHart.desks ∧ bodyMalformed body = false ∧ s.shutdown = none ∧
      (∃ id s2, s.launch (s.theHart.get 0).toNat (launchOf body) none = some (id, s2)) ∧ { s with codes := [] }.launch (s.theHart.get 0).toNat (launchOf body) none = none :=
  ⟨by decide +kernel, by decide +kernel, by decide +kernel, by decide +kernel, rfl, ⟨_, _, rfl⟩, rfl⟩

/-- The management function in a lifecycle state. -/
def managed (p : Proctor) : State := { calm with proctor := p }

/-- A token of a device whose number is all zero: lifecycle state, target or scope, and expiry. -/
def token (lcs act : Byte) (expiry : Nat) : List Byte := List.replicate 16 0 ++ [lcs, act] ++ leBytes 2 expiry ++ List.replicate (tokenBytes - 20) 0

def nonced (lcs : Nat) : Proctor := { calm.proctor with lcs := lcs, devid := List.replicate 16 0, keys := true, unonce := some (List.replicate 32 0, 0) }

theorem may_of {p : Proctor} (code : Nat) (h : p.state ≠ 5) : ManagementMay (managed p) code := ⟨.inl rfl, fun h' => absurd h' (by show ¬(false = true); decide), h, rfl⟩

/-- Tokens that UNLOCK and LIFECYCLE accept; a body for each other command, in a state that allows it. -/
theorem witness_ManagementCommands_effect :
    (∀ lcs ∈ [0, 1, 2, 3, 4], ∀ code, ManagementMay (managed (nonced lcs)) code) ∧ (nonced 2).keys = true ∧
    (let b := token 2 31 3600
     b.length = tokenBytes ∧ field b 52 12 = 0 ∧ byteAt b 17 < 32 ∧ (managed (nonced 2)).tokenNames b = true ∧ byteAt b 16 = (nonced 2).state ∧ 0 < field b 18 2 ∧ field b 18 2 ≤ 3600 ∧
       ∀ u, (nonced 2).unonce = some u → (managed (nonced 2)).powered - u.2 ≤ 1000 * field b 18 2) ∧
    (let b := token 1 2 0
     b.length = tokenBytes ∧ field b 52 12 = 0 ∧ field b 18 2 = 0 ∧ (managed (nonced 1)).tokenNames b = true ∧ byteAt b 16 = (nonced 1).state ∧ byteAt b 17 = 2) ∧
    (let b := token 4 5 0
     field b 18 2 = 0 ∧ (managed (nonced 4)).tokenNames b = true ∧ byteAt b 16 = (nonced 4).state ∧ byteAt b 17 = 5 ∧ (nonced 0).state = 0) ∧
    (let b := leBytes 2 3 ++ leBytes 2 16 ++ leBytes 8 0 ++ leBytes 8 0x2000000 ++ List.replicate 4 0 ++ List.replicate wrappedBytes 0
     ∃ ps d, items b.length (b.take (b.length - wrappedBytes)) = some ps ∧ ({ : Desk }).withItems ps = some d ∧ 0 < d.memLen ∧ d.queues ≤ 131072 ∧ wrappedBytes ≤ b.length ∧
       { managed (nonced 2) with desks := [] }.freeDesk = some 0 ∧ (managed (nonced 2)).desksAllowed = true) ∧
    (let b := leBytes 8 0 ++ leBytes 2 5 ++ leBytes 2 1 ++ [7, 0, 0, 0]
     ∃ ps d, items b.length (b.drop 8) = some ps ∧ (managed (nonced 3)).desk? (field b 0 8) = some d ∧ (d.withItems ps).isSome = true ∧ (managed (nonced 3)).desksAllowed = true ∧ 8 ≤ b.length) ∧
    ((managed (nonced 3)).desk? (field (leBytes 8 0) 0 8)).isSome = true ∧ (leBytes 8 0).length = 8 ∧
    (let b := List.replicate 522 (0 : Byte)
     b.length = 522 ∧ field b 0 2 ≤ 511 ∧ byteAt b 4 ≤ 17 ∧ field b 6 4 < 2 ^ 18 ∧ (∀ x ∈ b.drop 10, x.toNat ≤ 17 ∨ x.toNat = 31) ∧ ∀ t ∈ calm.trees, t.cmode = false ∨ t.started = false) ∧
    (tasked task1).domain.isSome = true ∧ bit (byteAt [0] 0) 0 = false ∧ bit (byteAt [1] 0) 0 = true ∧
    (let s := managed { nonced 2 with released := [{ desk := 0, page := 0x2000000, ver := 0 }] }
     let b := leBytes 8 0 ++ leBytes 8 0x2000000 ++ leBytes 2 0
     ∃ x, s.walk (field b 0 8) (field b 8 8) = some x ∧ x.ver = field b 16 2 ∧ x.off = 0 ∧
       s.proctor.version (field b 0 8) (field b 8 8) (field b 16 2) ∈ s.proctor.released ∧
       ({ s with desks := [(0, some { n := 1, key := some [] })] }.desk? (field b 0 8)).bind (·.key) = some []) := by
  refine ⟨fun lcs h code => may_of code ?_, rfl, ⟨by decide +kernel, by decide +kernel, by decide +kernel, by decide +kernel, by decide +kernel, by decide +kernel, by decide +kernel, fun u h => ?_⟩,
    by decide +kernel, by decide +kernel,
    ⟨[(3, leBytes 8 0 ++ leBytes 8 0x2000000)], { memLen := 0x2000000 }, by decide +kernel, by decide +kernel, by decide +kernel, by decide +kernel, by decide +kernel,
      by decide +kernel, by decide +kernel⟩,
    ⟨_, _, rfl, rfl, by decide +kernel, by decide +kernel, by decide +kernel⟩, by decide +kernel, by decide +kernel,
    ⟨by decide +kernel, by decide +kernel, by decide +kernel, by decide +kernel, by decide +kernel, by decide +kernel⟩, rfl, by decide +kernel, by decide +kernel,
    ⟨_, rfl, by decide +kernel, by decide +kernel, by decide +kernel, rfl⟩⟩
  · simp only [List.mem_cons, List.not_mem_nil, or_false] at h
    rcases h with rfl | rfl | rfl | rfl | rfl <;> decide +kernel
  · cases h; decide +kernel

/-- A test of a place that lent no core. -/
theorem witness_PowerEvents_effect : ∃ s : State, s.test? 3 0 = some (3, 0, none) := ⟨{ calm with tests := [(3, 0, none)] }, rfl⟩

/-! ## Further cases of the statements above -/

/-- An instruction that may issue, one that its privilege forbids, one whose wave waits with a failed join check. -/
theorem witness_ChecksBeforeIssue_legal :
    legal calm calmFrag (.add 0 0 0) ∧ ¬ forbidden calm fetchTree (.add 0 0 0) ∧ legal calm calmFrag .eret ∧ forbidden calm fetchTree .eret ∧
    legal (waved fun w => { w with sigmis := some (none, 0x2000000, 1) }) calmFrag (.add 0 0 0) ∧
    ¬ forbidden (waved fun w => { w with sigmis := some (none, 0x2000000, 1) }) fetchTree (.add 0 0 0) :=
  ⟨⟨rfl, fun h => absurd rfl h, fun _ => rfl, trivial, trivial⟩, id, ⟨rfl, fun h => absurd rfl h, fun _ => rfl, trivial, trivial⟩, (by decide : calm.wave.hnd = false),
    ⟨rfl, fun h => absurd rfl h, fun _ => rfl, trivial, trivial⟩, id⟩

/-- A wave whose other fragment has decided a split of two groups. -/
def deciding (depth : Nat) : State :=
  waved fun w => { w with depth := depth, m := [(7, 1)], slotB := some { calmFrag with after := some (.split [(0x2000010, 1), (0x2000020, 2)] 0x2000030) } }

/-- The room that the other fragment's split takes: enough for both at 60 entries, not at 61. -/
theorem witness_VectorBranchSplits_taken :
    taken (deciding 60).wave = 2 ∧ Ready (.bv 7 512 1024) (deciding 61) calmFrag fetchTree ∧ 61 + taken (deciding 61).wave + splitNeed 2 false = 65 ∧
    60 + taken (deciding 60).wave + splitNeed 2 false = 64 ∧ calm.wave.depth + taken calm.wave + splitNeed 1 true ≤ 64 :=
  ⟨by decide, ready_of rfl rfl rfl rfl rfl rfl rfl rfl, by decide, by decide, by decide⟩

/-- The lanes of every atomic in the own slice, of four and of eight bytes; in chorus mode with no effect outstanding. -/
theorem witness_AtomicResults_completions :
    (let ls := (lanesOf calmFrag.mask).map fun l => (l, ((waved addresses).wave.ra 1 + ((waved addresses).wave.rv 62 l).setWidth 64).toNat)
     MayAccess (waved addresses) fetchTree .write 4 ls ∧ MayAccess (waved addresses) fetchTree .write 8 ls ∧ (waved addresses).laneBad 0 1 ls true = none) ∧
    (waved addresses).laneBad 0 1 [(32, 0x100)] true = none ∧ (chorus addresses).laneBad 0 1 [(32, 0x100)] true = none ∧ (chorus addresses).lastEffect = none ∧
    MayAccess (chorus addresses) chorusT .write 8 [(32, 0x100)] ∧ (waved addresses).badVa 0 1 0x27BFF8 true = false :=
  ⟨⟨⟨by decide, fun _ => by decide, fun h => absurd h (by decide)⟩, ⟨by decide, fun _ => by decide, fun h => absurd h (by decide)⟩, by decide⟩, by decide, by decide, by decide,
    ⟨by decide, fun h => absurd h (by decide), fun _ => by decide⟩, by decide⟩

/-- BARG and BARX in chorus mode with nothing outstanding, and BARG with a store on its way. -/
theorem witness_GridBarrier_chorus :
    (MayAccess (chorus id) chorusT .read 1 [] ∧ (chorus id).lastEffect = none) ∧ (chorus addresses).releaseBusy chorusT 0x100 = false ∧
    ∃ s : State, Ready .barg s calmFrag chorusT ∧ MayAccess s chorusT .read 1 [] ∧ s.lastEffect ≠ none :=
  ⟨⟨⟨by decide, fun h => absurd h (by decide), fun _ => by decide⟩, by decide⟩, by decide,
    { chorus id with accesses := [{ id := 0, owner := 0, wid := 0, core := 0, at_ := 1, pc := 0, far := true }] }, ready_of rfl rfl rfl rfl rfl rfl rfl rfl,
    ⟨by decide, fun h => absurd h (by decide), fun _ => by decide⟩, by decide⟩

theorem witness_EngineCommands_chorus : ((recorded (chorus addresses) fillPacket).chan 0).delayed = [] ∧ HandleMay (recorded (chorus addresses) fillPacket) 15 :=
  ⟨rfl, .inr (by decide)⟩

theorem witness_ChorusCount_slips :
    Ready (.chslipHold 31) { chorus fun w => w.ws 31 4096 with slip := some (4096, true) } calmFrag chorusT ∧
    Ready (.chslipSkip 31) (chorus fun w => w.ws 31 4096) calmFrag chorusT ∧ (chorus fun w => w.ws 31 4096).slip = none :=
  ⟨ready_of rfl rfl rfl rfl rfl rfl rfl rfl, ready_of rfl rfl rfl rfl rfl rfl rfl rfl, rfl⟩

/-- A far store where no error stands; a tree that its forced save's second period finds still running; a tree whose records are no longer held. -/
theorem witness_WaveAndTreeEvents_more :
    (∀ x ∈ [((0x2000100 : Nat), (1 : Byte))], calm.badVa 0 (calm.deskN 0) x.1 true = false) ∧
    (∃ (s : State) (t : Tree), s.tree? 1 = some t ∧ t.cmode = true ∧ t.save = true ∧ t.stop = none ∧ t.saveNow = false ∧ s.saveExempt t = false) ∧
    ∃ (s : State) (t : Tree), s.tree? 1 = some t ∧ s.maySave t = true ∧ t.cmode = true ∧ s.hasEpoch 1 (s.commonEpoch 1) = false :=
  ⟨by decide +kernel, ⟨{ calm with trees := [{ chorusT with save := true }] }, _, rfl, rfl, rfl, rfl, rfl, by decide⟩,
    ⟨{ chorus (fun w => { w with epoch := 5 }) with trees := [{ chorusT with save := true, saveNow := true }] }, _, rfl, by decide +kernel, rfl, by decide +kernel⟩⟩

/-- A shared queue's packet that the channel takes: a FILL of one byte at a flat address. -/
def flatFill : List Byte := (List.range 64).map fun i => if i = 0 then 0x83 else if i = 29 then 0x7E else fillPacket.getD i 0

theorem witness_EngineEvents_shared : calm.packetRefused none 0 (calm.deskN 0) [] flatFill = false ∧ pStart flatFill = 0 ∧ pPhase flatFill = 1 := by decide +kernel

/-- A drift measured a period after the last; a task of this device alone, dispatched. -/
theorem witness_DomainEvents_measured :
    (∃ (s : State) (d : Domain), s.domain = some d ∧ d.measured + 2 ^ 22 ≤ s.chc) ∧
    ∃ (s : State) (k : CTask) (t : Tree), s.task? 1 = some k ∧ s.tree? k.tree = some t ∧ s.mayDispatch k = true ∧
      (s.drawMembers (k.nmem - 1)).2.tooFar (k.members.filter (·.1 == s.devNo) ++ (s.drawMembers (k.nmem - 1)).1) = false ∧ k.nmem ≤ 1 ∧ s.chc < k.since + 2 ^ 20 :=
  ⟨⟨{ tasked task1 with chc := 2 ^ 22 }, _, rfl, by decide⟩,
    ⟨{ tasked { task1 with dispatched := false, nmem := 1 } with
        wave := { calm.wave with status := .idle }, teams := [], trees := [{ chorusT with ctask := 1, started := false, grids := [{}] }] }, _, _, rfl, rfl, by decide +kernel, by decide +kernel, by decide, by decide⟩⟩

/-- A stack that throttles with a chorus tree on its die; a place whose core is enabled; a desk that a layout is left for, and none left for. -/
theorem witness_PowerAndDesks_more :
    (∃ (s : State) (t : Tree) (die : Nat), hotDie 8 = some die ∧ s.chorusTree = some t ∧ (∃ m ∈ s.teams, m.tree = t.id ∧ s.place m.core / 96 = die) ∧ t.savable = true) ∧
    (calm.proctor.enabledOn 3).contains (3 * 96 + 0) = true ∧
    ({ calm with desks := [] }.laidOut { n := 88 } ≠ [] ∧ { calm with desks := [] }.deskFits 0 { n := 88 } = true ∧ { calm with desks := [] }.deskFits 0 { n := 88, asids := 4097 } = false) ∧
    (let s := managed { nonced 3 with deadDies := [] }
     let t : State := { s with trees := [], saved := [] }
     (∀ x ∈ t.trees, x.desk ≠ 0) ∧ (∀ x ∈ t.saved, x.tree.desk ≠ 0) ∧ (t.desk? 0).isSome = true) :=
  ⟨⟨chorus id, _, 0, by decide, rfl, ⟨_, List.mem_cons_self, rfl, by decide +kernel⟩, rfl⟩, by decide +kernel, ⟨by decide +kernel, by decide +kernel, by decide +kernel⟩,
    (fun _ h => by cases h), (fun _ h => by cases h), by decide +kernel⟩

/-- The near bytes of a store where no error stands. -/
theorem witness_StoreFrame_near : (waved addresses).laneBad 0 1 [(noLane, 0x100)] true = none := by decide

/-! ## Clauses on errors, waits for another tree's chorus task, and acts that begin later -/

/-- A word of the own slice without an error and with one; a word of a slice that another tree's running chorus task holds. -/
theorem witness_BarrierAndMonitorResults_more :
    (barred (waved addresses)).badKey 0x100 = false ∧
    (∃ s : State, OnSlice s fetchTree 1 16 .write 0x100 ∧ OnSlice s fetchTree 1 8 .read 0x100 ∧ s.nearKey 0x100 = true ∧ s.badKey 0x100 = true ∧ s.wave.ticket ≠ some .done ∧
      s.heldSlice 0 fetchTree.id = false ∧ ∀ i ∈ [Instr.binit 1 31 1, .barx 1 31 0, .barv 1 1, .bwait 1 31, .waitc 1 31 5 1], Ready i s calmFrag fetchTree) ∧
    ∃ s : State, OnSlice s wideT 1 8 .read 0x400100 ∧ s.heldSlice (0x400100 / 0x400000) wideT.id = true ∧ s.wave.ticket ≠ some .done ∧ Ready (.bwait 1 31) s calmFrag wideT ∧
      Ready (.waitc 1 31 5 1) s calmFrag wideT := by
  refine ⟨by decide, ⟨{ barred (waved addresses) with badWords := [16] }, ⟨rfl, by decide, fun _ => by decide, fun h => absurd h (by decide)⟩,
      ⟨rfl, by decide, fun _ => by decide, fun h => absurd h (by decide)⟩, rfl, by decide, by decide, by decide, fun i h => ?_⟩,
    ⟨{ wide elsewhere with trees := [wideT, { chorusT with id := 2, n := 2 }], teams := [fetchTeam, { fetchTeam with tree := 2, core := 1 }] },
      ⟨rfl, by decide, fun _ => by decide, fun h => absurd h (by decide)⟩, by decide, by decide, ready_of rfl rfl rfl rfl rfl rfl rfl rfl, ready_of rfl rfl rfl rfl rfl rfl rfl rfl⟩⟩
  simp only [List.mem_cons, List.not_mem_nil, or_false] at h
  rcases h with rfl | rfl | rfl | rfl | rfl <;> exact ready_of rfl rfl rfl rfl rfl rfl rfl rfl

/-- Lanes of the own slice in chorus mode. -/
theorem witness_AtomicResults_near : (chorus addresses).allNear 0 1 [(32, 0x100)] = true ∧ (chorus addresses).wave.status ≠ .idle := by decide

/-- FENCE.SC after its tick in chorus mode, with an effect still to come and with none. -/
theorem witness_FenceResults_more :
    (∃ s : State, Ready .fenceSc s calmFrag chorusT ∧ s.wave.ticket = some .done ∧ s.effectsDue = true) ∧
    ∃ s : State, Ready .fenceSc s calmFrag chorusT ∧ s.wave.ticket = some .done ∧ s.effectsDue = false :=
  ⟨⟨{ chorus (fun w => { w with ticket := some .done }) with accesses := [{ id := 0, owner := 0, wid := 0, core := 0, at_ := 1, pc := 0, far := true }] },
      ready_of rfl rfl rfl rfl rfl rfl rfl rfl, rfl, by decide⟩,
    ⟨chorus fun w => { w with ticket := some .done }, ready_of rfl rfl rfl rfl rfl rfl rfl rfl, rfl, by decide⟩⟩

/-- A tile without an error. -/
theorem witness_MatrixCompletions_clean (rows : Mask) : CleanTile banked bankTeam (banked.wave.rs 0).toNat rows := fun _ h => absurd h (List.not_mem_nil)

/-- The handle of a child grid that has retired. -/
theorem witness_FutureResults_grid :
    let s := handled { kind := 6, state := 1 }
    (s.core 0).cancelled bindDepth 0 = false ∧ (s.core 0).leaves bindDepth 0 = [0] ∧ Handle.complete { kind := 6, state := 1 } s.chc = true ∧ s.wave.ticket ≠ some .done ∧
      Handle.quantum { kind := 6, state := 1, quantum := 7 } ≠ s.wave.qnt := by decide

/-- PUB in chorus mode with the value of an acquire on its way. -/
theorem witness_PublishIssue_acquire :
    ∃ s : State, Ready (.pub 5 0) s calmFrag stagedT ∧ s.pageFault stagedT 0 0x4000000 1 (fun x => x.pbl && x.allows .write) = none ∧ s.acquireBusy = true ∧
      ({ staged calm with trees := [stagedT] } : State).acquireBusy = false :=
  ⟨{ staged (waved fun w => { w with flight := [{ slot := false, left := 2, res := .sca 1 1, acq := true }] }) with trees := [stagedT] }, ready_of rfl rfl rfl rfl rfl rfl rfl rfl,
    by decide, by decide, by decide⟩

/-- A saved tree whose image stands in memory as it was sealed. -/
theorem witness_ResumeAndReplay_intact :
    ∃ (s : State) (sv : Saved), s.saved.find? (fun x => x.held && x.tree.id == 1 && x.tree.saveWhy ≠ 2) = some sv ∧ s.roomFor sv = true ∧ s.intact sv = true := by
  let v : Saved := { keptImage 1 with held := true, image := (0x2000400, 528) }
  let s : State := { withImage unimaged 1 with saved := [v], trees := [], teams := [], wave := { calm.wave with status := .idle } }
  refine ⟨s, v, rfl, by decide +kernel, ?_⟩
  have hk : (s.desk? v.tree.desk).bind (·.key) = some [] := rfl
  have hl := sealed_length 1 (.inl rfl)
  have hr := read_placed s (keyedDesk none) ((keptImage 1).sealed []) 0 528 (withImage_mem unimaged 1) rfl rfl rfl (by decide +kernel) (by omega) (by omega)
  rw [Nat.add_zero, List.drop_zero, List.take_of_length_le (by omega)] at hr
  have he : s.deskRead v.tree.desk v.image.1 v.image.2 = v.sealed [] := hr
  unfold State.intact
  rw [hk]
  exact beq_iff_eq.mpr he

/-- A flit of the attempt that runs, on a grid that has not stopped. -/
theorem witness_TimedEvents_running : (chorus id).stoppedBefore 1 = false ∧ ({ chorus id with trees := [{ chorusT with stop := some (0, []) }], chc := 1 } : State).stoppedBefore 1 = true := by
  decide

/-- A packet in a shared queue that is bound to the desk's chorus task. -/
theorem witness_EngineEvents_bound :
    ∃ (s : State) (t : Tree), (0, 0x7E0000000100) ∈ (s.chan 0).shared ∧ (s.chan 0).queue.length < 16 ∧ readNat (s.engByte { packet := [], desk := 0 }) 0x7E000000011D 1 = 1 ∧
      ((s.tasks.find? fun k => k.desk == 0 && k.dispatched).bind fun k => s.tree? k.tree) = some t ∧ s.packetRefused none 0 (s.deskN 0) t.code.stencils flatFill = false :=
  ⟨{ tasked task1 with chans := [(0, { shared := [(0, 0x7E0000000100)] })], slices := (Store.puts emptyByte [] 0x110 (leBytes 8 0x7E0000000200)).puts emptyByte 0x11D [1] }, _,
    List.mem_cons_self, by decide +kernel, by decide +kernel, rfl, by decide +kernel⟩

/-- HALT of a chorus tree that can be saved, that is being saved, that cannot be, and that is saved already; its slot once that has come about. -/
theorem witness_DebugCommands_halt :
    (∀ t ∈ [chorusT, { chorusT with save := true }, { chorusT with stop := some (0, [{ q := 0, core := 0, wave := 0, code := 1 }]) }],
      (({ debugged 0 (some 1) with trees := [t] } : State).served 0 0).tree? 1 = some t ∧
      CommandMay { debugged 0 (some 1) with trees := [t] } 0 0 0 0 false (slotOf 6 ([0] ++ List.replicate 7 0 ++ [1]))) ∧
    chorusT.savable = true ∧ Tree.savable { chorusT with stop := some (0, [{ q := 0, core := 0, wave := 0, code := 1 }]) } = false ∧
    (CommandMay (savedStop 0 0) 0 0 0 0 false (dbgSlot 0 0) ∧ ((savedStop 0 0).served 0 0).tree? (dbgSlot 0 0).dbgTree = none) ∧
    ∃ (s : State) (x : Slot), x.type = 6 ∧ x.command = 0 ∧ x.started = true ∧ s.tree? x.dbgTree = none := by
  refine ⟨fun t h => ?_, rfl, rfl, ⟨⟨⟨rfl, by decide +kernel, by decide +kernel, by decide +kernel⟩, by decide +kernel, _, rfl, rfl, .inr (by decide +kernel)⟩, rfl⟩,
    ⟨savedStop 0 0, { dbgSlot 0 0 with started := true }, by decide +kernel, by decide +kernel, rfl, rfl⟩⟩
  simp only [List.mem_cons, List.not_mem_nil, or_false] at h
  rcases h with rfl | rfl | rfl <;>
    exact ⟨rfl, ⟨rfl, by decide +kernel, by decide +kernel, by decide +kernel⟩, by decide +kernel, _, rfl, rfl, .inr (by decide +kernel)⟩

/-- WRITECTX of an image that stands in the buffer, to a tree saved for its debug stop whose own image takes as many bytes. -/
theorem witness_DebugCommands_writeSaved :
    ∃ (s : State) (old : Saved), s.imageAt false 0 0x2000400 528 = some (keptImage 1) ∧ s.tree? 1 = none ∧ s.debugSaved 1 = some old ∧ (s.desk? 0).bind (·.key) = some [] ∧
      ({ keptImage 1 with tree := { (keptImage 1).tree with slot := old.tree.slot, replayOf := old.tree.replayOf, saveWhy := 2 }, held := true, task := old.task } : Saved).size ≤ old.image.2 := by
  let old : Saved := { keptForm 1 with held := true, image := (0x2010000, 528), tree := { fetchTree with saveWhy := 2 } }
  let s : State := { withImage unimaged 1 with saved := [keptImage 1, old], trees := [], teams := [], wave := { calm.wave with status := .idle } }
  refine ⟨s, old, ?_, rfl, rfl, rfl, by decide +kernel⟩
  exact (image_there s (keyedDesk none) 1 false (.inl rfl) (withImage_mem unimaged 1) rfl rfl rfl rfl rfl (by decide +kernel) (withImage_codes unimaged 1)
    (withImage_proctor unimaged 1) rfl).1

/-- A SHUTDOWN that has not been answered; a desk with a live tree, whose N is asked to change; a desk that may take changed parameters and one that may not. -/
theorem witness_ManagementCommands_more :
    ({ calm with shutdown := some (false, 3) } : State).mailWaits = true ∧ calm.mailWaits = false ∧
    (∃ t ∈ (managed (nonced 3)).trees, t.desk = 0) ∧ (∃ x ∈ [((5 : Nat), leBytes 1 7)], x.1 ∈ [4, 5, 8, 10, 17]) ∧
    (managed (nonced 3)).deskStays 0 { n := 1 } = true ∧ (managed (nonced 3)).deskStays 0 { n := 1, asids := 4097 } = false ∧
    ({ managed (nonced 3) with domain := some { dev := 0, root := 0, primary := 0, secondary := 1, inUse := 0, ports := [] } } : State).domain.isSome = true := by
  refine ⟨rfl, rfl, ⟨fetchTree, List.mem_cons_self, rfl⟩, ⟨_, List.mem_cons_self, by decide⟩, by decide +kernel, by decide +kernel, rfl⟩

/-- A test of a core that is due, with no saved tree on its place. -/
theorem witness_PowerEvents_more :
    ∃ s : State, s.test? 3 0 = some (3, 0, none) ∧ (∀ v ∈ s.saved, v.stoodOn (3 * 96 + 0) = false) ∧ s.proctor.tested.get s.proctor.onAt (3 * 96 + 0) + 3600 ≤ s.seconds :=
  ⟨{ calm with tests := [(3, 0, none)], seconds := 3600 }, rfl, (fun _ h => by cases h), by decide +kernel⟩

/-- A machine with a request unanswered and another waiting. -/
theorem witness_StepRunsTheDecodedInstruction_waiting :
    ∃ s : State, s.inbox = [] ∧ s.mailWaits = true ∧ s.mail = [leBytes 8 2] ∧ s.power = true :=
  ⟨{ calm with shutdown := some (false, 3), mail := [leBytes 8 2] }, rfl, rfl, rfl, rfl⟩

/-! ## One step each: expected values from the spec's own examples and rules -/

/-- The state an instruction leaves. -/
def ran (i : Instr) (s : State) : State := match exec i s with | .next s' => s' | _ => State.reset

/-- `calm` with registers set. -/
def set2 (a b : Dword) : State := waved fun w => (w.ws 1 a).ws 2 b

/-- The value of the one result in flight for a scalar register. -/
def flying (s : State) : List (Nat × Res) := s.wave.flight.map fun f => (f.left, f.res)

/-- 11 Table 11-2: a sum wraps; the result of latency 1 has landed. -/
theorem test_add_wraps : (ran (.add 3 1 2) (set2 (-1) 2)).wave.rs 3 = 1 := by decide +kernel

/-- 09 R135: a write to s0 is discarded. -/
theorem test_add_s0 : (ran (.add 0 1 2) (set2 5 6)).wave.rs 0 = 0 := by decide +kernel

/-- 11 R164: DIV of -2^63 by -1 and REM of a by 0. -/
theorem test_div_corners :
    flying (ran (.div 3 1 2) (set2 0x8000000000000000 (-1))) = [(11, .sca 3 0x8000000000000000)] ∧ flying (ran (.rem 3 1 2) (set2 7 0)) = [(11, .sca 3 7)] := by decide +kernel

/-- 11 R165: the amount is b[5:0]. -/
theorem test_sra_amount : (ran (.sra 3 1 2) (set2 0x8000000000000000 0x43)).wave.rs 3 = 0xF000000000000000 := by decide +kernel

/-- 11 R166. -/
theorem test_clz_of_zero : (ran (.clz 3 1) (set2 0 0)).wave.rs 3 = 64 := by decide +kernel

/-- 12 R189: a saturating sum in the one lane of E. -/
theorem test_vadd_saturates :
    flying (ran (.vaddS32 3 1 2 1) (waved fun w => ((w.wv 1 31 0x7FFFFFFF).wv 2 31 1).wm 1 0x80000000)) = [(1, .vec 3 [(31, 0x7FFFFFFF)])] := by decide +kernel

/-- 06: 1 + 2^-10 + 2^-12 to FP16 under RNE, RZ, RD and RU, of both signs; each result is inexact. -/
theorem test_five_modes :
    (fp16.ofVal .rne (fp32.decode 0x3F802800) = (0x3C01, 1) ∧ fp16.ofVal .rz (fp32.decode 0x3F802800) = (0x3C01, 1) ∧ fp16.ofVal .rd (fp32.decode 0x3F802800) = (0x3C01, 1) ∧
      fp16.ofVal .ru (fp32.decode 0x3F802800) = (0x3C02, 1)) ∧
    (fp16.ofVal .rd (fp32.decode 0xBF802800) = (0xBC02, 1) ∧ fp16.ofVal .ru (fp32.decode 0xBF802800) = (0xBC01, 1)) ∧
    (fp16.ofVal (.sr 0xC0000000) (fp32.decode 0x3F802800) = (0x3C02, 1) ∧ fp16.ofVal (.sr 0xBFFFFFFF) (fp32.decode 0x3F802800) = (0x3C01, 1)) := by decide +kernel

/-- 06: a tie, two overflows and a value just above the largest. -/
theorem test_rounding_edges :
    (fp16.ofVal .rne (fp32.decode 0x3F801000)).1 = 0x3C00 ∧ fp16.ofVal .rne (fp32.decode 0x4788B800) = (0x7C00, 5) ∧ fp16.ofVal .rne (fp32.decode 0x477FE600) = (0x7BFF, 1) ∧
    e4m3.ofVal .rne (fp32.decode 0x43FA0000) = (0x7E, 5) := by decide +kernel

/-- 06: the block 7E 4A 8F 31 00 … encodes -3, 2.5, 0.25, 0.8125, 0, … under RNE. -/
theorem test_block :
    let xs := [fp32.decode 0xC0400000, fp32.decode 0x40200000, fp32.decode 0x3E800000, fp32.decode 0x3F500000] ++ List.replicate 28 (fp32.decode 0)
    (blockBytes (encodeBlock xs fun _ => .rne)).take 5 = [0x7E, 0x4A, 0x8F, 0x31, 0] := by decide +kernel

/-- 12: F32 to U32 of -0.4: 0 and NX under RNE, 0 and NV under RD. -/
theorem test_to_unsigned :
    (fp32.decode 0xBECCCCCD).toRange .rne 0 4294967295 = (0, 1) ∧ ((fp32.decode 0xBECCCCCD).toRange .rd 0 4294967295).1 = 0 := by decide +kernel

/-- 12 R193, 05 R84: 1 / 0 raises DZ and gives infinity in the lanes of E. -/
theorem test_vfdiv_by_zero :
    let s := ran (.vfdivF32 3 1 2 1) (waved fun w => ((w.wv 1 31 0x3F800000).wm 1 0x80000000))
    s.wave.fflags = 8 ∧ flying s = [(23, .vec 3 [(31, 0x7F800000)])] := by decide +kernel

/-- 13 R217: SLD sign-extends; SST stores the low bytes, least significant first. -/
theorem test_load_and_store :
    flying (ran (.sld 3 1 0 1 0) { waved addresses with slices := [(0x100, 0x80)] }) = [(5, .sca 3 0xFFFFFFFFFFFFFF80)] ∧
    ((ran (.sst 2 1 1 0) { waved (fun w => (addresses w).ws 2 0x12345) with slices := [] }).slices) = [(0x100, 0x45), (0x101, 0x23)] := by decide +kernel

/-- 07 R107: a misaligned access raises ALIGN with its address; without a handler the wave stops. -/
theorem test_misaligned :
    let s := ran (.sld 3 3 2 0 0) (waved addresses)
    s.wave.status = .faulted ∧ s.wave.s = (waved addresses).wave.s ∧ (s.trees.head?.bind (·.stop)).map (fun x => x.2.map (·.code)) = some [ALIGN] := by decide +kernel

/-- 11: J jumps after its delay slot; 14 R244: TRAP 5 enters the handler with code 0x85 and RET. -/
theorem test_control :
    (ran (.j 8) calm).wave.slotA = some { calmFrag with pc := 0x2000004, after := some (.goto 0x2000010), sig := (ran (.j 8) calm).wave.slotA.elim 0 (·.sig) } ∧
    (let s := ran (.trap 5) (waved fun w => { w with hpc := 0x40 })
     s.wave.fault = 0xFFFFFFFF00009085 ∧ s.wave.epc = 0x2000000 ∧ (s.wave.slotA.map (·.pc)) = some 0x2000040) := by decide +kernel

/-- 13 R225: an atomic addition on a lane of the own slice, by hand: 5 + 3. -/
theorem test_atomic : ({ calm with slices := [(0x100, 5)] }.atomicLanes 0 1 0 [(0, 0x100, 3, 0)]).1.slices = [(0x100, 8)] := by decide +kernel

/-- 13 R234: EXIT of all lanes ends the wave. -/
theorem test_exit : (ran .exit calm).wave.status = .ended := by decide +kernel

/-- 17 R285: DHSET claims a free entry. -/
theorem test_dhset : ((ran (.dhset 1 2) (set2 63 100)).core 0).bufs.get {} 63 = { state := 1, expect := 100, tree := 1 } := by decide +kernel

end Sys2Proof.Tests
end

section
/-! PROOFS. Management commands, power and reset (01_device.md; 28_security.md; 29_security_notes.md): the statements ManagementCommands, PowerEvents and
ResetState, with the laws of the shared operations they rest on. -/

namespace Sys2Proof.Machine

/-! ## Laws of the shared operations -/

@[simp] theorem State.count_saved (s : State) (key width : Nat) : (s.count key width).saved = s.saved := rfl
@[simp] theorem State.log_saved (s : State) (e : Entry) : (s.log e).saved = s.saved := rfl

/-- Asking for a forced save changes the waves and the trees only. -/
theorem State.askSave_frame (s : State) (tree why : Nat) : ∃ w ws ts, s.askSave tree why = { s with wave := w, waves := ws, trees := ts } := by
  unfold State.askSave
  dsimp only
  split
  · split
    · exact ⟨_, _, _, rfl⟩
    · exact ⟨_, _, _, rfl⟩
  · exact ⟨_, _, _, rfl⟩

@[simp] theorem State.askSave_cores (s : State) (tree why : Nat) : (s.askSave tree why).cores = s.cores := by
  obtain ⟨_, _, _, h⟩ := s.askSave_frame tree why
  rw [h]

@[simp] theorem State.askSave_throttled (s : State) (tree why : Nat) : (s.askSave tree why).throttled = s.throttled := by
  obtain ⟨_, _, _, h⟩ := s.askSave_frame tree why
  rw [h]

@[simp] theorem State.askSave_shutdown (s : State) (tree why : Nat) : (s.askSave tree why).shutdown = s.shutdown := by
  obtain ⟨_, _, _, h⟩ := s.askSave_frame tree why
  rw [h]

/-- Saving trees one after another leaves the shutdown asked for. -/
theorem State.foldl_askSave_shutdown (why : Nat) : ∀ (ts : List Tree) (s : State),
    (ts.foldl (fun (s : State) t => s.askSave t.id why) s).shutdown = s.shutdown
  | [], _ => rfl
  | t :: ts, s => by rw [List.foldl_cons, State.foldl_askSave_shutdown why ts, State.askSave_shutdown]

/-- Drawing bytes moves the counter of free values only. -/
theorem State.drawBytes_frame : ∀ (n : Nat) (s : State), ∃ k, (State.drawBytes n s).2 = { s with free := k }
  | 0, _ => ⟨_, rfl⟩
  | n + 1, s => State.drawBytes_frame n s.draw.2

/-- Bytes that firmware writes one run after another change device memory only. -/
theorem State.foldl_devPut_frame {α : Type} (pa : α → Nat) (bs : α → List Byte) : ∀ (xs : List α) (s : State),
    ∃ m, xs.foldl (fun (s : State) x => s.devPut (pa x) (bs x)) s = { s with mem := m }
  | [], _ => ⟨_, rfl⟩
  | x :: xs, s => State.foldl_devPut_frame pa bs xs (s.devPut (pa x) (bs x))

/-- Mapping a partition changes device memory only. -/
theorem State.mapPartition_frame (s : State) (sm : List Nat) (lo len : Nat) (skip : List Nat) :
    ∃ m, s.mapPartition sm lo len skip = { s with mem := m } := by
  unfold State.mapPartition
  extract_lets pages tables put s1 s2
  obtain ⟨m1, h1⟩ : ∃ m, s1 = { s with mem := m } := ⟨_, rfl⟩
  obtain ⟨m2, h2⟩ : ∃ m, s2 = { s1 with mem := m } :=
    State.foldl_devPut_frame (fun i => onStack sm (lo + 8 * i)) (fun i => leBytes 8 (lo + 0x4000 * (i + 1) + 1)) (List.range tables) s1
  clear_value s1 s2
  subst h1 h2
  exact State.foldl_devPut_frame (fun i => onStack sm (leafAt lo i)) (fun i => leBytes 8 (lo + 0x2000000 * i + 0x3F)) _ { s with mem := m2 }

/-- The desk that was put under a number is found there. -/
theorem State.desk?_of_put {s : State} {ds : Store (Option Desk)} {n : Nat} {x : Option Desk} (h : s.desks = ds.put none n x) : s.desk? n = x := by
  rw [State.desk?, h, Store.get_put_self]

@[simp] theorem State.mapPartition_queues (s : State) (sm : List Nat) (lo len : Nat) (skip : List Nat) : (s.mapPartition sm lo len skip).queues = s.queues := by
  obtain ⟨_, h⟩ := s.mapPartition_frame sm lo len skip
  rw [h]

@[simp] theorem State.desk?_updDesk_self {s : State} {n : Nat} {d : Desk} (f : Desk → Desk) (h : s.desk? n = some d) : (s.updDesk n f).desk? n = some (f d) := by
  unfold State.updDesk
  rw [h]
  exact State.desk?_of_put rfl

/-- Updating a desk changes the desks only. -/
theorem State.updDesk_frame (s : State) (n : Nat) (f : Desk → Desk) : ∃ ds, s.updDesk n f = { s with desks := ds } := by
  unfold State.updDesk
  split
  · exact ⟨_, rfl⟩
  · exact ⟨_, rfl⟩

@[simp] theorem State.updDesk_queues (s : State) (n : Nat) (f : Desk → Desk) : (s.updDesk n f).queues = s.queues := by
  obtain ⟨_, h⟩ := s.updDesk_frame n f
  rw [h]

@[simp] theorem State.updDesk_mem (s : State) (n : Nat) (f : Desk → Desk) : (s.updDesk n f).mem = s.mem := by
  obtain ⟨_, h⟩ := s.updDesk_frame n f
  rw [h]

@[simp] theorem State.reply_desk? (s : State) (code status : Nat) (tag : BitVec 16) (body : List Byte) (n : Nat) :
    (s.reply code status tag body).desk? n = s.desk? n := rfl

@[simp] theorem State.measureDesk_desk? (s : State) (k n : Nat) (d : Desk) : (s.measureDesk k d).desk? n = s.desk? n := rfl

@[simp] theorem State.assignQueues_desk? (s : State) (k count n : Nat) : (s.assignQueues k count).desk? n = s.desk? n := rfl

/-- A destroyed desk is gone (R369). -/
theorem State.destroyDesk_desk? (s : State) (n : Nat) : (s.destroyDesk n).desk? n = none := by
  unfold State.destroyDesk
  split
  · assumption
  · exact State.desk?_of_put rfl

end Sys2Proof.Machine

namespace Sys2Proof.Stmt

open Sys2Proof.Machine

/-! ## Frames and requests (R409, R410, R413, R414) -/

section Frames
variable (code status : Nat) (tag : BitVec 16) (body : List Byte)

theorem mgmtFrame_length : (mgmtFrame code status tag body).length = body.length + 8 := rfl

theorem mgmtFrame_drop : (mgmtFrame code status tag body).drop 8 = body := rfl

theorem mgmtFrame_code : byteAt (mgmtFrame code status tag body) 0 = code % 256 := BitVec.toNat_ofNat code 8

theorem mgmtFrame_status : byteAt (mgmtFrame code status tag body) 1 = status % 256 := BitVec.toNat_ofNat status 8

theorem mgmtFrame_tag : BitVec.ofNat 16 (field (mgmtFrame code status tag body) 2 2) = tag := by
  have h : field (mgmtFrame code status tag body) 2 2 = tag.toNat % 256 ^ 2 := leNat_leBytes 2 tag.toNat
  have ht : tag.toNat < 256 ^ 2 := tag.isLt
  rw [h, Nat.mod_eq_of_lt ht, BitVec.ofNat_toNat, BitVec.setWidth_eq]

theorem mgmtFrame_len : field (mgmtFrame code status tag body) 4 4 = body.length % 2 ^ 32 := leNat_leBytes 4 body.length

end Frames

/-- A frame of a request with the right length is served by its code. -/
theorem serveFrame_request (s : State) {code : Nat} (tag : BitVec 16) {body : List Byte} (hc : code < 256) (hb : body.length < 2 ^ 32) :
    s.serveFrame (mgmtFrame code 0 tag body) = State.manageAs code tag body (s.signal .mailbox none) := by
  unfold State.serveFrame
  simp only [mgmtFrame_length, mgmtFrame_drop, mgmtFrame_code, mgmtFrame_status, mgmtFrame_tag, mgmtFrame_len, Nat.mod_eq_of_lt hc, Nat.mod_eq_of_lt hb]
  rw [if_neg (by omega), if_pos (by simp)]

/-- A frame that carries a status is no request: status 3 answers it. -/
theorem serveFrame_status (s : State) {code status : Nat} (tag : BitVec 16) (body : List Byte) (hc : code < 256) (hs : status < 256) (h0 : 0 < status) :
    s.serveFrame (mgmtFrame code status tag body) = (s.signal .mailbox none).manage code tag body
      fun s => (if code = 3 ∨ code = 5 then s.spend else s).reply code 3 tag [] := by
  unfold State.serveFrame
  simp only [mgmtFrame_length, mgmtFrame_drop, mgmtFrame_code, mgmtFrame_status, mgmtFrame_tag, Nat.mod_eq_of_lt hc, Nat.mod_eq_of_lt hs]
  have hne : status ≠ 0 := by omega
  rw [if_neg (by omega), if_neg (by simp [hne])]
  simp only [Bool.or_eq_true, decide_eq_true_eq]

section Requests
variable {s : State} {code : Nat} {tag : BitVec 16} {body : List Byte} {k : State → State}

/-- A management request always answers a next state. -/
theorem manage_next (s : State) (code : Nat) (tag : BitVec 16) (body : List Byte) (k : State → State) : ∃ s', s.manage code tag body k = .next s' := by
  unfold State.manage
  repeat' split
  all_goals exact ⟨_, rfl⟩

/-- Whatever its code, it does. -/
theorem manageAs_next (s : State) (tag : BitVec 16) (body : List Byte) (code : Nat) : ∃ s', State.manageAs code tag body s = .next s' := by
  unfold State.manageAs
  split <;> exact manage_next s _ tag body _

/-- A request that the device may act on is acted on. -/
theorem manage_acts (h : ManagementMay s code) : s.manage code tag body k = .next (k s) := by
  obtain ⟨hon, hrec, hst, hone⟩ := h
  have h1 : ¬ (!s.power && !s.recovery) = true := by rcases hon with h | h <;> simp [h]
  have h2 : ¬ (s.recovery && decide (code ≠ 0x28) && decide (code ≠ 0x29)) = true := by
    cases hr : s.recovery with
    | false => simp
    | true => rcases hrec hr with rfl | rfl <;> simp
  unfold State.manage
  rw [if_neg h1, if_neg (by simp [hone]), if_neg h2, if_neg hst]

/-- What holds of the state a request leaves, held against the state in which it is acted on. -/
theorem leads_manage {p : State → Prop} (h : ManagementMay s code) (hp : p (k s)) : Leads (s.manage code tag body k) p := ⟨k s, manage_acts h, hp⟩

/-- A decommissioned device answers with its state (R405). -/
theorem manage_decommissioned (hp : s.power = true) (hr : s.recovery = false) (hm : s.mailWaits = false) (h5 : s.proctor.state = 5) :
    s.manage code tag body k = .next (s.reply code 1 tag [5]) := by
  unfold State.manage
  simp [hp, hr, hm, h5]

/-- A request that comes while another is performed waits (R410). -/
theorem manage_waits (hp : s.power = true) (hm : s.mailWaits = true) : s.manage code tag body k = .next { s with mail := s.mail ++ [mgmtFrame code 0 tag body] } := by
  unfold State.manage
  simp [hp, hm]

/-- A code that is not listed is answered with status 3. -/
theorem manageAs_unlisted (h : ManagementMay s code)
    (hc : code ∉ [0x01, 0x02, 0x03, 0x04, 0x05, 0x10, 0x11, 0x12, 0x18, 0x19, 0x20, 0x21, 0x22, 0x28, 0x29, 0x2A]) :
    State.manageAs code tag body s = .next (s.reply code 3 tag []) := by
  unfold State.manageAs
  split
  case h_17 => exact manage_acts h
  all_goals exact absurd (by decide) hc

end Requests

/-! ## What each request does and answers -/

section Commands
variable {s : State} {tag : BitVec 16} {body : List Byte}

/-! ### Quotes and nonces (R409, R411) -/

theorem quote_badLength (h : ManagementMay s 1) (hl : body.length ≠ 40) : exec (.quote tag body) s = .next (s.reply 1 3 tag []) := by
  show execQuote tag body s = _
  rw [execQuote, manage_acts h, if_pos hl]

theorem quote_keyless (h : ManagementMay s 1) (hl : body.length = 40) (hk : s.proctor.keys = false) :
    exec (.quote tag body) s = .next (s.reply 1 1 tag []) := by
  show execQuote tag body s = _
  rw [execQuote, manage_acts h, if_neg (not_not_intro hl), if_pos (by simp [hk])]

theorem quote_signed (h : ManagementMay s 1) (hl : body.length = 40) (hk : s.proctor.keys = true) :
    let q := s.quoteBody (body.take 32) (field body 32 8)
    exec (.quote tag body) s = .next (s.reply 1 0 tag (q ++ (Config.signPss q).toList ++ (Config.signSlh q).toList)) := by
  show execQuote tag body s = _
  rw [execQuote, manage_acts h, if_neg (not_not_intro hl), if_neg (by simp [hk])]

theorem quote_decommissioned (h5 : s.proctor.state = 5) (hp : s.power = true) (hr : s.recovery = false) (hm : s.mailWaits = false) :
    exec (.quote tag body) s = .next (s.reply 1 1 tag [5]) := by
  show execQuote tag body s = _
  rw [execQuote, manage_decommissioned hp hr hm h5]

theorem quote_waits (hp : s.power = true) (hm : s.mailWaits = true) : exec (.quote tag body) s = .next { s with mail := s.mail ++ [mgmtFrame 1 0 tag body] } := by
  show execQuote tag body s = _
  rw [execQuote, manage_waits hp hm]

theorem nonce_drawn (h : ManagementMay s 2) (hb : body = []) :
    Leads (exec (.nonce tag body) s) fun s' => ∃ u, s'.proctor.unonce = some (u, s.powered) := by
  show Leads (execNonce tag body s) _
  refine leads_manage h ?_
  obtain ⟨k, hk⟩ := State.drawBytes_frame 4 s
  rw [if_neg (not_not_intro hb)]
  refine ⟨(State.drawBytes 4 s).1, ?_⟩
  show some ((State.drawBytes 4 s).1, (State.drawBytes 4 s).2.powered) = _
  rw [hk]
  rfl

/-! ### Provisioning, unlock and lifecycle (R405, R406, R411) -/

theorem provision_fuses (h : ManagementMay s 4) (hl : body.length = 112) (h0 : s.proctor.state = 0) :
    Leads (exec (.provision tag body) s) fun s' => s'.proctor.lcs = 1 ∧ s'.proctor.keys = true ∧ s'.proctor.devid = body.take 16 ∧ s'.mem = s.mem := by
  show Leads (execProvision tag body s) _
  refine leads_manage h ?_
  rw [if_neg (not_not_intro hl), if_neg (not_not_intro h0)]
  exact ⟨rfl, rfl, rfl, rfl⟩

theorem provision_again (h : ManagementMay s 4) (hl : body.length = 112) (h0 : s.proctor.state ≠ 0) :
    exec (.provision tag body) s = .next (s.reply 4 1 tag []) := by
  show execProvision tag body s = _
  rw [execProvision, manage_acts h, if_neg (not_not_intro hl), if_pos h0]

/-- A token that names the outstanding nonce shows that there is one. -/
theorem unonce_of_tokenNames (h : s.tokenNames body = true) : ∃ u, s.proctor.unonce = some u := by
  cases hu : s.proctor.unonce with
  | none => simp [State.tokenNames, hu] at h
  | some u => exact ⟨u, rfl⟩

/-- A token that passes every check of UNLOCK but its signatures (R411). -/
def TokenFits (s : State) (body : List Byte) : Prop :=
  body.length = tokenBytes ∧ field body 52 12 = 0 ∧ byteAt body 17 < 32 ∧ s.tokenNames body = true ∧ byteAt body 16 = s.proctor.state ∧
    (s.proctor.state = 2 ∨ s.proctor.state = 3) ∧ 0 < field body 18 2 ∧ field body 18 2 ≤ 3600 ∧
    ∀ u, s.proctor.unonce = some u → s.powered - u.2 ≤ 1000 * field body 18 2

/-- A fitting token comes to its signatures: without them status 2 answers it, with them the device is unlocked once every desk has lost its key and is
destroyed. -/
theorem unlock_fits (h : ManagementMay s 3) (hf : TokenFits s body) :
    Leads (exec (.unlock tag body) s) fun s' =>
      let t := State.destroyDesks { s.spend with desks := s.spend.desks.map fun x => (x.1, x.2.map Desk.keyless) }
      (s.tokenSigned body = true → s'.proctor.scope = byteAt body 17 ∧ s'.proctor.state = (if bit (byteAt body 17) 4 = true then 4 else 3) ∧ s'.desks = t.desks ∧ s'.trees = t.trees) ∧
      (s.tokenSigned body = false → s' = s.spend.reply 3 2 tag []) := by
  obtain ⟨hlen, hres, hscope, hnames, hlcs, hst, hexp, hmax, hage⟩ := hf
  obtain ⟨u, hu⟩ := unonce_of_tokenNames hnames
  have hage' := Nat.not_lt.mpr (hage u hu)
  show Leads (execUnlock tag body s) _
  refine leads_manage h ?_
  rw [if_neg (not_not_intro hlen), if_neg (by rcases hst with h | h <;> simp [hlcs, h]), if_neg (by simp [hres, hscope])]
  simp only [hu]
  rw [if_neg (by simp [hnames, hage', Nat.ne_of_gt hexp, hmax])]
  generalize State.destroyDesks _ = t
  cases hsig : s.tokenSigned body with
  | false => exact ⟨nofun, fun _ => rfl⟩
  | true =>
    refine ⟨fun _ => ⟨rfl, ?_, rfl, rfl⟩, nofun⟩
    cases hb : bit (byteAt body 17) 4 <;> rfl

theorem lifecycle_scraps (h : ManagementMay s 5) (hl : body.length = tokenBytes) (hres : field body 52 12 = 0) (hexp : field body 18 2 = 0)
    (h0 : s.proctor.state = 0) (ht : byteAt body 17 = 5) : Leads (exec (.lifecycle tag body) s) fun s' => s'.proctor.lcs = 5 ∧ s'.proctor.keys = false := by
  show Leads (execLifecycle tag body s) _
  refine leads_manage h ?_
  rw [if_neg (by simp [hl, hres, hexp, ht]), if_pos (by simp [h0, ht])]
  exact ⟨rfl, Bool.and_false _⟩

/-- The state fused is the state in force. -/
theorem fuse_state (s : State) (target : Nat) (token : List Byte) :
    (s.fuse target token).proctor.lcs = target ∧ (s.fuse target token).proctor.state = target := ⟨rfl, rfl⟩

/-- A token that passes every check of LIFECYCLE but its signatures (R406). -/
def FuseFits (s : State) (body : List Byte) : Prop :=
  body.length = tokenBytes ∧ field body 52 12 = 0 ∧ field body 18 2 = 0 ∧ s.tokenNames body = true ∧ byteAt body 16 = s.proctor.state ∧
    (byteAt body 17 = 2 ∧ s.proctor.state = 1 ∧ s.proctor.keys = true ∨ byteAt body 17 = 5 ∧ 1 ≤ s.proctor.state ∧ s.proctor.state ≤ 4)

theorem lifecycle_fits (h : ManagementMay s 5) (hf : FuseFits s body) : Leads (exec (.lifecycle tag body) s) fun s' =>
    (s.tokenSigned body = true → s'.proctor.lcs = byteAt body 17 ∧ s'.proctor.state = byteAt body 17) ∧
    (s.tokenSigned body = false → s' = s.spend.reply 5 2 tag []) := by
  obtain ⟨hlen, hres, hexp, hnames, hlcs, hto⟩ := hf
  have h1 : ¬ (decide (body.length ≠ tokenBytes) || decide (field body 52 12 ≠ 0) || decide (field body 18 2 ≠ 0) ||
      !(decide (byteAt body 17 = 2) || decide (byteAt body 17 = 5))) = true := by
    rcases hto with ⟨ht, _⟩ | ⟨ht, _⟩ <;> simp [hlen, hres, hexp, ht]
  have h2 : ¬ (decide (s.proctor.state = 0) && decide (byteAt body 17 = 5)) = true := by
    simp only [Bool.and_eq_true, decide_eq_true_eq]
    omega
  show Leads (execLifecycle tag body s) _
  refine leads_manage h ?_
  rw [if_neg h1, if_neg h2]
  dsimp only
  rw [if_neg (by rcases hto with ⟨ht, hst, hk⟩ | ⟨ht, hlo, hhi⟩ <;> simp [*])]
  cases hsig : s.tokenSigned body with
  | false => exact ⟨nofun, fun _ => rfl⟩
  | true => exact ⟨fun _ => fuse_state s.spend (byteAt body 17) (body.take 64), nofun⟩

/-! ### Desks (R369, R403) -/

/-- A way to lay a desk out changes where it lies only. -/
theorem mem_laidOut {d e : Desk} (h : e ∈ s.laidOut d) : e.memLo = d.memLo ∧ e.asids = d.asids := by
  unfold State.laidOut at h
  obtain ⟨x, _, rfl⟩ := List.mem_map.mp (List.mem_filter.mp h).1
  exact ⟨rfl, rfl⟩

/-- An element that any number points at, taken round, is one of the list. -/
theorem getD_mem_of_ne_nil {α : Type} {xs : List α} (i : Nat) (d : α) (h : xs ≠ []) : xs.getD (i % xs.length) d ∈ xs := by
  rw [List.getD_eq_getElem?_getD, List.getElem?_eq_getElem (Nat.mod_lt i (List.length_pos_iff.mpr h)), Option.getD_some]
  exact List.getElem_mem _

section Desknew
variable {ps : List (Nat × List Byte)} {d : Desk} {n : Nat}

/-- The body of a DESKNEW holds the parameters of desk `d`, and a desk number, its keys and the lifecycle state allow it. -/
def NewDesk (s : State) (body : List Byte) (ps : List (Nat × List Byte)) (d : Desk) (n : Nat) : Prop :=
  wrappedBytes ≤ body.length ∧ items body.length (body.take (body.length - wrappedBytes)) = some ps ∧ ({ : Desk }).withItems ps = some d ∧
    s.freeDesk = some n ∧ s.desksAllowed = true ∧ s.proctor.keys = true ∧ 0 < d.memLen

theorem desknew_parsed (hn : NewDesk s body ps d n) :
    (if body.length < wrappedBytes then none else
      (items body.length (body.take (body.length - wrappedBytes))).bind fun ps => ({ : Desk }).withItems ps) = some d := by
  obtain ⟨hlen, hps, hd, -⟩ := hn
  rw [if_neg (Nat.not_lt.mpr hlen), hps]
  exact hd

theorem desknew_unwrapped (hm : ManagementMay s 0x10) (hn : NewDesk s body ps d n) (hk : Config.unwrap (body.drop (body.length - wrappedBytes)) = none) :
    exec (.desknew tag body) s = .next (s.reply 0x10 1 tag []) := by
  have hp := desknew_parsed hn
  obtain ⟨-, -, -, hfree, -, hkeys, -⟩ := hn
  show execDesknew tag body s = _
  rw [execDesknew, manage_acts hm]
  simp only [hp, hfree, hkeys, hk, if_true]

theorem desknew_noRoom (hm : ManagementMay s 0x10) (hn : NewDesk s body ps d n) (hw : s.laidOut d = [] ∨ s.deskFits n d = false) :
    exec (.desknew tag body) s = .next (s.reply 0x10 1 tag []) := by
  cases hk : Config.unwrap (body.drop (body.length - wrappedBytes)) with
  | none => exact desknew_unwrapped hm hn hk
  | some key =>
    have hp := desknew_parsed hn
    obtain ⟨-, -, -, hfree, hall, hkeys, hmem⟩ := hn
    show execDesknew tag body s = _
    rw [execDesknew, manage_acts hm]
    simp only [hp, hfree, hkeys, hk, if_true]
    rw [if_pos (by rcases hw with hw | hw <;> simp [hw])]

theorem desknew_creates {key : List Byte} (hm : ManagementMay s 0x10) (hn : NewDesk s body ps d n) (hw : s.laidOut d ≠ []) (hf : s.deskFits n d = true)
    (hk : Config.unwrap (body.drop (body.length - wrappedBytes)) = some key) :
    Leads (exec (.desknew tag body) s) fun s' => ∃ r, ∃ e ∈ s.laidOut d,
      s'.desk? n = some { e with key := some key, rkey := r, root := d.memLo, roots := List.replicate (d.asids - 1) d.memLo, qbase := queueTableAt } := by
  have hp := desknew_parsed hn
  obtain ⟨-, -, -, hfree, hall, hkeys, hmem⟩ := hn
  show Leads (execDesknew tag body s) _
  refine leads_manage hm ?_
  simp only [hp, hfree, hkeys, hk, if_true]
  rw [if_neg (by simp [hall, hw, hf, Nat.ne_of_gt hmem])]
  obtain ⟨r, s1⟩ := s.draw
  obtain ⟨x, s2⟩ := s1.draw
  have he := getD_mem_of_ne_nil x.toNat d hw
  dsimp only
  generalize (s.laidOut d).getD (x.toNat % (s.laidOut d).length) d = e at he ⊢
  obtain ⟨hlo, has⟩ := mem_laidOut he
  refine ⟨lo32 r, e, he, ?_⟩
  rw [State.reply_desk?, State.measureDesk_desk?, State.assignQueues_desk?, ← hlo, ← has]
  exact State.desk?_of_put rfl

end Desknew

section Deskset
variable {ps : List (Nat × List Byte)} {d d' : Desk} {n : Nat}

/-- The queues of a changed desk lie below its count (R370). -/
theorem changeDesk_queues (s : State) (n : Nat) (d d' : Desk) : ∀ x ∈ (s.changeDesk n d d').queues, x.1 / 4096 = n → x.1 % 4096 < d'.queues := by
  have hq : (s.changeDesk n d d').queues = s.queues.filter fun x => !(x.1 / 4096 = n && decide (d'.queues ≤ x.1 % 4096)) := by
    unfold State.changeDesk
    extract_lets s1 s2
    split
    · exact State.updDesk_queues s2 n _
    · rw [State.mapPartition_queues, State.updDesk_queues]
      rfl
  intro x hx hxn
  rw [hq] at hx
  simpa [hxn] using (List.mem_filter.mp hx).2

/-- A desk that keeps its partition takes the changed parameters, and memory stays. -/
theorem changeDesk_sameMemory (hd : s.desk? n = some d) (hlo : d'.memLo = d.memLo) (hlen : d'.memLen = d.memLen) :
    (s.changeDesk n d d').desk? n = some d' ∧ (s.changeDesk n d d').mem = s.mem := by
  unfold State.changeDesk
  extract_lets s1 s2
  have hd2 : s2.desk? n = some d := hd
  rw [if_pos ⟨hlo, hlen⟩]
  exact ⟨State.desk?_updDesk_self _ hd2, State.updDesk_mem s2 n _⟩

/-- The body of a DESKSET names desk `n`, which is `d`, and holds the items `ps`. -/
def SetsDesk (s : State) (body : List Byte) (ps : List (Nat × List Byte)) (n : Nat) (d : Desk) : Prop :=
  8 ≤ body.length ∧ items body.length (body.drop 8) = some ps ∧ field body 0 8 = n ∧ s.desk? n = some d

theorem deskset_parsed (hs : SetsDesk s body ps n d) : (if body.length < 8 then none else items body.length (body.drop 8)) = some ps := by
  obtain ⟨hlen, hps, -⟩ := hs
  rw [if_neg (Nat.not_lt.mpr hlen), hps]

theorem deskset_live (hm : ManagementMay s 0x11) (hs : SetsDesk s body ps n d) (hl : ∃ t ∈ s.trees, t.desk = n) (hp : ∃ x ∈ ps, x.1 ∈ [4, 5, 8, 10, 17]) :
    exec (.deskset tag body) s = .next (s.reply 0x11 1 tag []) := by
  have hps := deskset_parsed hs
  obtain ⟨-, -, rfl, hd⟩ := hs
  have h1 : (s.trees.any fun t => t.desk == field body 0 8) = true := by simpa using hl
  have h2 : (ps.any fun p => [4, 5, 8, 10, 17].contains p.1) = true := by simpa only [List.any_eq_true, List.contains_iff_mem] using hp
  show execDeskset tag body s = _
  rw [execDeskset, manage_acts hm]
  simp only [hps, hd]
  rw [if_pos (by rw [h1, h2]; simp)]

theorem deskset_idle (hm : ManagementMay s 0x11) (hs : SetsDesk s body ps n d) (hall : s.desksAllowed = true) (ht : ∀ t ∈ s.trees, t.desk ≠ n)
    (hv : ∀ x ∈ s.saved, x.held = true → x.tree.desk ≠ n) (hi : d.withItems ps = some d') :
    exec (.deskset tag body) s = .next (if s.deskStays n d' then (s.changeDesk n d d').reply 0x11 0 tag [] else s.reply 0x11 1 tag []) := by
  have hps := deskset_parsed hs
  obtain ⟨-, -, rfl, hd⟩ := hs
  have h1 : (s.trees.any fun t => t.desk == field body 0 8) = false := by simpa using ht
  have h2 : (s.saved.any fun x => x.held && x.tree.desk == field body 0 8) = false := by simpa using hv
  show execDeskset tag body s = _
  rw [execDeskset, manage_acts hm]
  simp only [hps, hd, hi]
  rw [if_neg (by rw [h1, h2]; simp [hall])]

end Deskset

theorem deskdel_badLength (h : ManagementMay s 0x12) (hl : body.length ≠ 8) : exec (.deskdel tag body) s = .next (s.reply 0x12 3 tag []) := by
  show execDeskdel tag body s = _
  rw [execDeskdel, manage_acts h, if_pos hl]

theorem deskdel_destroys (h : ManagementMay s 0x12) (hl : body.length = 8) (hall : s.desksAllowed = true) (hd : (s.desk? (field body 0 8)).isSome = true) :
    Leads (exec (.deskdel tag body) s) fun s' => s' = (s.destroyDesk (field body 0 8)).reply 0x12 0 tag [] ∧ s'.desk? (field body 0 8) = none := by
  show Leads (execDeskdel tag body s) _
  refine leads_manage h ?_
  rw [if_neg (not_not_intro hl), if_neg (by simp [hall, Option.isSome_iff_ne_none.mp hd])]
  exact ⟨rfl, s.destroyDesk_desk? _⟩

/-! ### Domains (R328, R330) -/

theorem noChorus_of_forall (ht : ∀ t ∈ s.trees, t.cmode = false ∨ t.started = false) : (s.trees.any fun t => t.cmode && t.started) = false := by
  simp only [List.any_eq_false, Bool.and_eq_true, not_and, Bool.not_eq_true]
  intro t hmem hc
  rcases ht t hmem with h | h
  · simp [h] at hc
  · exact h

/-- The body of a DOMJOIN has its length, and its devices, ports, link mask and routes lie in their ranges (R328). -/
def JoinFits (body : List Byte) : Prop :=
  body.length = 522 ∧ field body 0 2 ≤ 511 ∧ field body 2 2 ≤ 511 ∧ byteAt body 4 ≤ 17 ∧ byteAt body 5 ≤ 17 ∧ field body 6 4 < 2 ^ 18 ∧
    ∀ b ∈ body.drop 10, b.toNat ≤ 17 ∨ b.toNat = 31

theorem domjoin_joins (h : ManagementMay s 0x18) (hf : JoinFits body) (ht : ∀ t ∈ s.trees, t.cmode = false ∨ t.started = false) :
    Leads (exec (.domjoin tag body) s) fun s' => s'.drift = 0 ∧ (field body 0 2 = field body 2 2 → s'.chc = s.chc) ∧
      ∃ d, s'.domain = some d ∧ d.dev = field body 0 2 ∧ d.root = field body 2 2 ∧ d.primary = byteAt body 4 ∧ d.secondary = byteAt body 5 ∧ d.inUse = byteAt body 4 ∧ d.measured = s'.chc ∧
        ∀ i, i ∈ d.ports ↔ i < 18 ∧ bit (field body 6 4) i = true := by
  obtain ⟨hlen, hdev, hroot, hpp, hsp, hmask, hroutes⟩ := hf
  have hr : ((body.drop 10).any fun b : Byte => !(decide (b.toNat ≤ 17) || decide (b.toNat = 0x1F))) = false := by
    simp only [List.any_eq_false]
    intro b hb
    rcases hroutes b hb with h | h <;> simp [h]
  show Leads (execDomjoin tag body s) _
  refine leads_manage h ?_
  dsimp only
  rw [if_neg (by simp only [hr, Bool.or_false, Bool.or_eq_true, decide_eq_true_eq]; omega), if_neg (by rw [noChorus_of_forall ht]; exact Bool.false_ne_true)]
  by_cases he : field body 0 2 = field body 2 2
  · simp only [if_pos he]
    exact ⟨rfl, fun _ => rfl, _, rfl, rfl, rfl, rfl, rfl, rfl, rfl, fun i => by simp⟩
  · simp only [if_neg he]
    exact ⟨rfl, fun h => absurd h he, _, rfl, rfl, rfl, rfl, rfl, rfl, rfl, fun i => by simp⟩

theorem domleave_leaves (h : ManagementMay s 0x19) (hb : body = []) (hd : s.domain.isSome = true) (ht : ∀ t ∈ s.trees, t.cmode = false ∨ t.started = false) :
    Leads (exec (.domleave tag body) s) fun s' => s'.domain = none ∧ s'.drift = 0 := by
  show Leads (execDomleave tag body s) _
  refine leads_manage h ?_
  rw [if_neg (not_not_intro hb), if_neg (by rw [noChorus_of_forall ht]; simp [Option.isSome_iff_ne_none.mp hd])]
  exact ⟨rfl, rfl⟩

theorem domleave_noDomain (h : ManagementMay s 0x19) (hb : body = []) (hd : s.domain = none) : exec (.domleave tag body) s = .next (s.reply 0x19 1 tag []) := by
  show execDomleave tag body s = _
  rw [execDomleave, manage_acts h, if_neg (not_not_intro hb), if_pos (by simp [hd])]

theorem domleave_badBody (h : ManagementMay s 0x19) (hb : body ≠ []) : exec (.domleave tag body) s = .next (s.reply 0x19 3 tag []) := by
  show execDomleave tag body s = _
  rw [execDomleave, manage_acts h, if_pos hb]

/-! ### Shutdown, records, firmware, receipts (R28, R386, R390, R392, R404) -/

theorem shutdown_badBody (h : ManagementMay s 0x20) (hb : body = []) : exec (.shutdown tag body) s = .next (s.reply 0x20 3 tag []) := by
  show execShutdown tag body s = _
  rw [execShutdown, manage_acts h, if_pos (by simp [hb])]

theorem shutdown_drains (h : ManagementMay s 0x20) (hb : body ≠ []) (hs : bit (byteAt body 0) 0 = false) :
    exec (.shutdown tag body) s = .next { s with shutdown := some (false, tag.toNat), trees := s.trees.map fun t => { t with noStart := true } } := by
  show execShutdown tag body s = _
  rw [execShutdown, manage_acts h, if_neg (by simp [hb])]
  simp only [hs, Bool.false_eq_true, if_false]

theorem shutdown_saves (h : ManagementMay s 0x20) (hb : body ≠ []) (hs : bit (byteAt body 0) 0 = true) :
    Leads (exec (.shutdown tag body) s) fun s' => s'.shutdown = some (true, tag.toNat) := by
  show Leads (execShutdown tag body s) _
  refine leads_manage h ?_
  rw [if_neg (by simp [hb])]
  simp only [hs, if_true]
  exact State.foldl_askSave_shutdown 5 _ _

theorem faultrd_reads (h : ManagementMay s 0x21) (hl : body.length = 12) (hn : field body 8 4 ≤ 256) :
    exec (.faultrd tag body) s = .next (s.reply 0x21 0 tag
      (((s.proctor.ring.filter fun e => decide (field body 0 8 ≤ e.seq)).take (field body 8 4)).flatMap Entry.bytes)) := by
  show execFaultrd tag body s = _
  rw [execFaultrd, manage_acts h, if_neg (by simp [hl, hn])]

theorem logrd_reads (h : ManagementMay s 0x22) (hl : body.length = 12) (hn : field body 8 4 ≤ 65536) :
    exec (.logrd tag body) s = .next (s.reply 0x22 0 tag ((s.proctor.logBytes.drop (field body 0 8)).take (field body 8 4))) := by
  show execLogrd tag body s = _
  rw [execLogrd, manage_acts h, if_neg (by simp [hl, hn])]

theorem fwchunk_keeps (h : ManagementMay s 0x28) (hlo : 8 ≤ body.length) (hhi : body.length ≤ 65544) :
    Leads (exec (.fwchunk tag body) s) fun s' => s'.proctor.chunks = s.proctor.chunks ++ [(field body 0 8, body.drop 8)] := by
  show Leads (execFwchunk tag body s) _
  refine leads_manage h ?_
  rw [if_neg (by simp [hlo, hhi])]
  rfl

theorem fwcommit_takes (h : ManagementMay s 0x29) (hl : body.length = 8) :
    let image := (List.range (field body 0 8)).map (chunkByte s.proctor.chunks)
    Leads (exec (.fwcommit tag body) s) fun s' => s'.proctor.chunks = [] ∧ s'.proctor.image = (if imageSigned image = true then image else s.proctor.image) := by
  intro image
  show Leads (execFwcommit tag body s) _
  refine leads_manage h ?_
  rw [if_neg (not_not_intro hl)]
  by_cases hi : imageSigned image = true
  · simp only [image, hi, if_true]
    exact ⟨rfl, rfl⟩
  · simp only [image, hi]
    exact ⟨rfl, rfl⟩

theorem receipt_badLength (h : ManagementMay s 0x2A) (hl : body.length ≠ 18) : exec (.receipt tag body) s = .next (s.reply 0x2A 3 tag []) := by
  show execReceipt tag body s = _
  rw [execReceipt, manage_acts h, if_pos hl]

theorem receipt_seals {x : Xlat} {key : List Byte} (h : ManagementMay s 0x2A) (hl : body.length = 18) (hx : s.walk (field body 0 8) (field body 8 8) = some x)
    (hk : (s.desk? (field body 0 8)).bind (·.key) = some key) (hv : s.proctor.version (field body 0 8) (field body 8 8) (field body 16 2) ∈ s.proctor.released)
    (hver : x.ver = field body 16 2) (hoff : x.off = 0) :
    let page := Store.gets emptyByte s.mem x.readFrame x.size
    let aad := s.proctor.devid ++ leBytes 2 (field body 0 8) ++ leBytes 8 (field body 8 8) ++ leBytes 2 (field body 16 2) ++ sha page
    exec (.receipt tag body) s = .next (s.takeNonce.2.reply 0x2A 0 tag (Config.gcmTag key (leBytes 12 s.takeNonce.1) aad []).toList) := by
  show execReceipt tag body s = _
  rw [execReceipt, manage_acts h, if_neg (not_not_intro hl)]
  have hx' : s.walk (s.proctor.version (field body 0 8) (field body 8 8) (field body 16 2)).desk
    (s.proctor.version (field body 0 8) (field body 8 8) (field body 16 2)).page = some x := hx
  have hk' : (s.desk? (s.proctor.version (field body 0 8) (field body 8 8) (field body 16 2)).desk).bind (·.key) = some key := hk
  have hver' : x.ver = (s.proctor.version (field body 0 8) (field body 8 8) (field body 16 2)).ver := hver
  simp only [hx', hk']
  rw [if_neg (by simp [hv, hver', hoff])]
  rfl

end Commands

/-- Settles O50: each clause is the lemma about its command; a command that is acted on runs its own part of the management function. -/
theorem managementCommands : Obligations.ManagementCommands := by
  unfold Obligations.ManagementCommands
  intro s tag body may answers p unlockable fusable image
  have next := manageAs_next s tag body
  refine ⟨fun _ => next 1, fun _ => next 2, fun _ => next 3, fun _ => next 4, fun _ => next 5, fun _ => next 0x10, fun _ => next 0x11, fun _ => next 0x12,
    fun _ => next 0x18, fun _ => next 0x19, fun _ => next 0x20, fun _ => next 0x21, fun _ => next 0x22, fun _ => next 0x28, fun _ => next 0x29, fun _ => next 0x2A,
    quote_badLength, quote_keyless, quote_signed, nonce_drawn, provision_fuses, unlock_fits, lifecycle_scraps, lifecycle_fits,
    ?desknew, ?deskset, ?live, deskdel_destroys, ?domjoin, domleave_leaves, shutdown_drains, shutdown_saves, fwchunk_keeps, fwcommit_takes,
    fun x key h hl hx hk hv hver hoff => receipt_seals h hl hx hk hv hver hoff, provision_again, deskdel_badLength, domleave_noDomain, domleave_badBody,
    shutdown_badBody, faultrd_reads, logrd_reads, receipt_badLength, quote_decommissioned, quote_waits,
    fun code h hc => manageAs_unlisted h hc, fun code hc hb => serveFrame_request s tag hc hb, ?status⟩
  case desknew =>
    intro ps d n hm hlen hps hd hn hall hkeys hmem
    have hnew : NewDesk s body ps d n := ⟨hlen, hps, hd, hn, hall, hkeys, hmem⟩
    refine ⟨fun hw hf => ?_, desknew_noRoom hm hnew⟩
    cases hk : Config.unwrap (body.drop (body.length - wrappedBytes)) with
    | none => exact ⟨_, desknew_unwrapped hm hnew hk, nofun, fun _ => rfl⟩
    | some key =>
      obtain ⟨s', he, r, e, hmem', hdesk⟩ := desknew_creates (tag := tag) hm hnew hw hf hk
      exact ⟨s', he, fun k hk' => ⟨r, e, hmem', by cases hk'; exact hdesk⟩, nofun⟩
  case deskset =>
    intro ps d d' hm hlen hps hd hall ht hv hi n t
    have h := deskset_idle (tag := tag) hm ⟨hlen, hps, rfl, hd⟩ hall ht hv hi
    refine ⟨fun hs => ⟨?_, changeDesk_sameMemory hd, changeDesk_queues s n d d'⟩, fun hs => ?_⟩
    · rwa [if_pos hs] at h
    · rwa [if_neg (Bool.eq_false_iff.mp hs)] at h
  case live => exact fun ps d hm hlen hps hd hl hp => deskset_live hm ⟨hlen, hps, rfl, hd⟩ hl hp
  case domjoin => exact fun hm hlen hdev hroot hpp hsp hmask hr ht => domjoin_joins hm ⟨hlen, hdev, hroot, hpp, hsp, hmask, hr⟩ ht
  case status =>
    intro code status hc hs h0 h f
    exact ⟨_, (serveFrame_status s tag body hc hs h0).trans (manage_acts (s := s.signal .mailbox none) h), rfl⟩

/-! ## Power and the in-field tests (R23 to R29, R392, R393) -/

section Power
variable {s : State}

/-- POWER_ON boots a device that neither runs nor recovers its image (R29). -/
theorem powerOn_boots (hp : s.power = false) (hr : s.recovery = false) : exec .powerOn s = .next s.boot := by
  show execPowerOn s = _
  rw [execPowerOn, if_neg (by simp [hp, hr])]

/-- What a turn-off keeps is the fuses and the store (R27, R28). -/
theorem turnOff_keeps (s : State) :
    s.turnOff.power = false ∧ s.turnOff.mem = [] ∧ s.turnOff.trees = [] ∧ s.turnOff.waves = [] ∧ s.turnOff.proctor.counters = s.proctor.stored ∧
      s.turnOff.proctor.charges = s.proctor.storedCharges ∧ s.turnOff.proctor.retired = s.proctor.retired ∧ s.turnOff.proctor.spares = s.proctor.spares ∧
      s.turnOff.seconds = s.proctor.storedSecs ∧ s.turnOff.proctor.retireNext = s.proctor.retireNext ∧ s.turnOff.proctor.devid = s.proctor.devid ∧ s.turnOff.proctor.lcs = s.proctor.lcs ∧ s.turnOff.proctor.unlocked = false :=
  ⟨rfl, rfl, rfl, rfl, rfl, rfl, rfl, rfl, rfl, rfl, rfl, rfl, rfl⟩

theorem supplyDroop_counts (hp : s.power = true) : exec .supplyDroop s = .next (s.count (counterKey 1 0) 32) := by
  show execSupplyDroop s = _
  rw [execSupplyDroop, if_pos hp]

theorem powerMeasurement_gates (hp : s.power = true) (mw : Nat) : Leads (exec (.powerMeasurement mw) s) fun s' => s'.gated = decide (2200000 < mw) := by
  show Leads (execPowerMeasurement mw s) _
  rw [execPowerMeasurement, if_neg (by simp [hp])]
  by_cases h : 2200000 < mw
  · exact ⟨_, rfl, by simp only [h, decide_true, if_true]; rfl⟩
  · exact ⟨_, rfl, by simp [h]⟩

theorem throttleRecovery_ends {unit : Nat} (hu : unit ∈ s.throttled) :
    exec (.throttleRecovery unit) s = .next { s with throttled := s.throttled.filter fun u => u ≠ unit } := by
  show execThrottleRecovery unit s = _
  rw [execThrottleRecovery, if_pos (List.contains_iff_mem.mpr hu)]

theorem logbookWrite_stores (hp : s.power = true) : exec .logbookWrite s = .next s.writeLogbook := by
  show execLogbookWrite s = _
  rw [execLogbookWrite, if_pos hp]

/-- A throttle point is entered (R26): a savable chorus tree with a team on its compute die is asked to save, and nothing else changes what is throttled. -/
theorem throttlePoint_throttles {unit : Nat} (hp : s.power = true) (hu : unit ∉ s.throttled) :
    Leads (exec (.throttlePoint unit) s) fun s' => s'.throttled = s.throttled ++ [unit] ∧
      ∀ die t, hotDie unit = some die → s.chorusTree = some t → (∃ m ∈ s.teams, m.tree = t.id ∧ s.place m.core / 96 = die) → t.savable = true →
        ∃ s1 : State, s' = s1.askSave t.id 3 := by
  show Leads (execThrottlePoint unit s) _
  rw [execThrottlePoint, if_neg (by simp [hp, hu])]
  extract_lets s1
  have h1 : s1.throttled = s.throttled ++ [unit] := rfl
  have hc1 : s1.chorusTree = s.chorusTree := rfl
  have hm1 : ∀ (t : Tree) (die : Nat), (∃ m ∈ s.teams, m.tree = t.id ∧ s.place m.core / 96 = die) →
      (s1.teams.any fun m => m.tree == t.id && decide (s1.place m.core / 96 = die)) = true := by
    rintro t die ⟨m, hm, ht, hd⟩
    exact List.any_eq_true.mpr ⟨m, hm, Bool.and_eq_true_iff.mpr ⟨beq_iff_eq.mpr ht, decide_eq_true hd⟩⟩
  clear_value s1
  rw [hc1]
  cases hotDie unit with
  | none => exact ⟨s1, rfl, h1, fun _ _ h => nomatch h⟩
  | some die =>
    cases s.chorusTree with
    | none => exact ⟨s1, rfl, h1, fun _ _ _ h => nomatch h⟩
    | some t =>
      dsimp only
      by_cases hm : (s1.teams.any fun m => m.tree == t.id && decide (s1.place m.core / 96 = die)) = true
      · rw [if_pos hm]
        by_cases hs : t.savable = true
        · rw [if_pos hs]
          refine ⟨_, rfl, (State.askSave_throttled _ _ _).trans h1, ?_⟩
          rintro _ _ ⟨⟩ ⟨⟩ - -
          exact ⟨_, rfl⟩
        · rw [if_neg hs]
          refine ⟨_, rfl, h1, ?_⟩
          rintro _ _ ⟨⟩ ⟨⟩ - hs'
          exact absurd hs' hs
      · rw [if_neg hm]
        refine ⟨s1, rfl, h1, ?_⟩
        rintro _ _ ⟨⟩ ⟨⟩ hon
        exact absurd (hm1 t die hon) hm

/-! ### In-field tests (R393 to R397) -/

section Tests
variable {die place : Nat}

/-- Noting a deferral changes the deferrals and the counters only. -/
theorem noteDeferral_frame (s : State) (die place core : Nat) : ∃ ds p, s.noteDeferral die place core = { s with deferrals := ds, proctor := p } := by
  unfold State.noteDeferral
  dsimp only
  split
  · exact ⟨_, s.proctor, rfl⟩
  · split
    · exact ⟨s.deferrals, s.proctor, rfl⟩
    · exact ⟨_, _, rfl⟩

/-- The test of an enabled core whose time has come is asked for, and the logical core lent there takes no new team. -/
theorem infieldTestDue_asks (hp : s.power = true) (hd : die ≤ 3) (hpl : place ≤ 95) (ht : s.test? die place = none)
    (hen : (s.proctor.enabledOn die).contains (die * 96 + place) = true) (hdue : s.proctor.tested.get s.proctor.onAt (die * 96 + place) + 600 ≤ s.seconds) :
    Leads (exec (.infieldTestDue die place) s) fun s' => s'.tests = s.tests ++ [(die, place, s.lentAs (die * 96 + place))] ∧
      ∀ c, s.lentAs (die * 96 + place) = some c → (s'.core c).testDue = true := by
  have hdue' : ¬ s.seconds < s.proctor.dueAt (die * 96 + place) := Nat.not_lt.mpr hdue
  show Leads (execInfieldTestDue die place s) _
  rw [execInfieldTestDue, if_neg (by simp [hp, ht, List.contains_iff_mem.mp hen, hdue', hd, hpl])]
  cases hc : s.lentAs (die * 96 + place) with
  | none => exact ⟨_, rfl, rfl, nofun⟩
  | some c =>
    dsimp only
    obtain ⟨ds, p, hn⟩ := noteDeferral_frame { s with tests := s.tests ++ [(die, place, some c)] } die place c
    rw [hn]
    refine ⟨_, rfl, ?_, ?_⟩
    · split <;> rfl
    · rintro _ ⟨⟩
      split
      · rw [State.updCore_core, if_pos rfl]
      · rw [State.mapWaves_core, State.updCore_core, if_pos rfl]

/-- 50 minutes after it fell due a test is overdue on the logical core it stops (R395). -/
theorem testOverdue_marks {x : Nat × Nat × Option Nat} (ht : s.test? die place = some x)
    (hdue : s.proctor.tested.get s.proctor.onAt (die * 96 + place) + 3600 ≤ s.seconds) :
    Leads (exec (.testOverdue die place) s) fun s' => ∀ c, x.2.2 = some c → (s'.core c).overdue = true := by
  have hdue' : ¬ s.seconds < s.proctor.dueAt (die * 96 + place) + 3000 := by
    unfold Proctor.dueAt
    omega
  show Leads (execTestOverdue die place s) _
  unfold execTestOverdue
  simp only [ht]
  rw [if_neg hdue']
  cases x.2.2 with
  | none => exact ⟨s, rfl, nofun⟩
  | some c =>
    have hc : ((s.updCore c fun k => { k with overdue := true }).core c).overdue = true := by rw [State.updCore_core, if_pos rfl]
    refine ⟨_, rfl, ?_⟩
    rintro _ ⟨⟩
    split
    · rw [State.core, State.askSave_cores]
      exact hc
    · exact hc

section Complete
variable {x : Nat × Nat × Option Nat} (ht : s.test? die place = some x) (hd : ∀ c, x.2.2 = some c → s.drainedCore c = true)
include ht hd

/-- A test of a core that is drained, or that no desk is lent, completes. -/
theorem infieldTestComplete_next (failed : Bool) (block : Nat) : ∃ s', exec (.infieldTestComplete die place failed block) s = .next s' := by
  show ∃ s', execInfieldTestComplete die place failed block s = .next s'
  unfold execInfieldTestComplete
  obtain ⟨_, _, core⟩ := x
  simp only [ht]
  cases core with
  | none => exact ⟨_, rfl⟩
  | some c => exact ⟨_, if_neg (by simp [hd c rfl])⟩

/-- A test that passes leaves the list, and its logical core takes teams again (R394). -/
theorem infieldTestComplete_passed (block : Nat) : Leads (exec (.infieldTestComplete die place false block) s) fun s' =>
    s'.tests = (s.tests.filter fun y => y ≠ x) ∧ ∀ c, x.2.2 = some c → (s'.core c).testDue = false ∧ (s'.core c).overdue = false := by
  show Leads (execInfieldTestComplete die place false block s) _
  unfold execInfieldTestComplete
  obtain ⟨d, p, core⟩ := x
  simp only [ht]
  cases core with
  | none => exact ⟨_, rfl, rfl, nofun⟩
  | some c =>
    refine ⟨_, if_neg (by simp [hd c rfl]), rfl, ?_⟩
    rintro _ ⟨⟩
    simp only [Bool.not_false, if_true, State.resumeCore, State.mapWaves_core, State.updCore_core, and_self]

/-- A test that fails on a core that no desk is lent and on which no saved tree stood ends, and the core is to be retired (R397). -/
theorem infieldTestComplete_failed (block : Nat) (hx : x.2.2 = none) (hv : ∀ v ∈ s.saved, v.stoodOn (die * 96 + place) = false) :
    Leads (exec (.infieldTestComplete die place true block) s) fun s' =>
      s'.tests = (s.tests.filter fun y => y ≠ x) ∧ s'.proctor.retireNext = s.proctor.retireNext ++ [die * 96 + place] := by
  have hnone : (s.saved.filter fun v => v.stoodOn (die * 96 + place)) = [] := List.filter_eq_nil_iff.mpr fun v hmem => by simp [hv v hmem]
  show Leads (execInfieldTestComplete die place true block s) _
  unfold execInfieldTestComplete
  obtain ⟨d, p, core⟩ := x
  cases hx
  simp only [ht]
  refine ⟨_, rfl, ?_⟩
  simp only [Bool.not_true, Bool.false_eq_true, if_false, State.count_saved, State.log_saved, hnone, List.foldl_nil]
  exact ⟨rfl, rfl⟩

end Complete
end Tests
end Power

/-- Settles O51: each clause is the lemma about its event; what a turn-off keeps is one lemma for the three ways to lose power. -/
theorem powerEvents : Obligations.PowerEvents := by
  unfold Obligations.PowerEvents
  intro s mw unit die place block failed x
  refine ⟨powerOn_boots, rfl, rfl, rfl, turnOff_keeps s, supplyDroop_counts, fun hp => powerMeasurement_gates hp mw, throttlePoint_throttles, throttleRecovery_ends,
    logbookWrite_stores, infieldTestDue_asks, fun ht hd => ⟨?passed, infieldTestComplete_next ht hd failed block, ?failed⟩, testOverdue_marks⟩
  case passed =>
    rintro rfl
    exact infieldTestComplete_passed ht hd block
  case failed =>
    rintro rfl hx hv
    exact infieldTestComplete_failed ht hd block hx hv

/-! ## Reset (R15, R29, R32, R390, R405, R408) -/

/-- In a wave whose register files are empty every register but m0 reads 0, and no handle register names an operation. -/
theorem emptyWave_registers (r : Nat) :
    let w : Wave := {}
    w.rs r = 0 ∧ w.ra r = 0 ∧ w.rk r = 0 ∧ w.rh r = none ∧ (r ≠ 0 → w.rm r = 0) ∧ ∀ l, w.rv r l = 0 :=
  ⟨ite_self _, rfl, ite_self _, ite_self _, fun h => if_neg h, fun _ => rfl⟩

/-- After reset every core is the empty one. -/
theorem reset_core (key : Nat) : State.reset.core key = {} := rfl

/-- Settles O55: the wave that stands idle and every core are the empty ones, and the other fields are those of the reset state. -/
theorem resetState : Obligations.ResetState := by
  unfold Obligations.ResetState
  intro s p w
  refine ⟨rfl, rfl, rfl, rfl, rfl, rfl, rfl, rfl, rfl, rfl, rfl, rfl, rfl, emptyWave_registers, rfl, rfl, rfl, rfl, rfl, rfl, rfl, rfl, rfl, rfl, fun key => ?_⟩
  rw [reset_core key]
  exact ⟨fun _ => ⟨rfl, rfl⟩, fun _ => rfl, rfl, rfl, rfl, rfl, rfl, rfl, rfl⟩

end Sys2Proof.Stmt
end

section
/-! PROOFS. Vector floating point, conversions, packing, rounding, FMT and the state registers (05_formats.md; 11_isa_scalar.md R172, R173; 12_isa_vector.md
R193 to R203): the statements RoundingOfALane, ConversionAndPackResults, StateRegisters and VectorFloatResults, with the laws of the shared operations they
rest on. -/

namespace Sys2Proof.Machine

/-! ## Fields and words -/

/-- SREN is bit 19 of FMT (Table 5-7). -/
theorem fmtSren_eq_getLsbD (f : Word) : fmtSren f = f.getLsbD 19 := by
  rw [fmtSren, BitVec.getLsbD, Nat.testBit_eq_decide_div_mod_eq]

/-- Two words side by side, the first one high. -/
theorem append_eq_ofNat (a b : Word) : (a ++ b : BitVec 64) = BitVec.ofNat 64 (a.toNat * 2 ^ 32 + b.toNat) := by
  have ha := a.isLt
  have hb := b.isLt
  apply BitVec.eq_of_toNat_eq
  rw [BitVec.toNat_append, ← Nat.shiftLeft_add_eq_or_of_lt hb, Nat.shiftLeft_eq, BitVec.toNat_ofNat, Nat.mod_eq_of_lt (by omega)]

/-- A bit of a rotated word comes from the place it is rotated from. -/
theorem getLsbD_rotateLeft_add (g : Word) {i : Nat} (hi : i < 32) (n : Nat) : (g.rotateLeft (n % 32)).getLsbD ((i + n) % 32) = g.getLsbD i := by
  rw [BitVec.getLsbD_rotateLeft, Nat.mod_mod]
  by_cases hw : (i + n) % 32 < n % 32
  · rw [decide_eq_true hw, cond_true]
    congr 1
    omega
  · rw [decide_eq_false hw, cond_false, decide_eq_true (Nat.mod_lt _ (by decide)), Bool.true_and]
    congr 1
    omega

/-- A value clamped to a range that is not empty. -/
theorem clamp_eq_max_min (x : Int) {lo hi : Int} (h : lo ≤ hi) : clamp x lo hi = max lo (min hi x) := by
  unfold clamp
  split
  · omega
  · split <;> omega

/-- The number that an integer's low bits hold is its residue. -/
theorem toNat_ofInt_two_pow (bits : Nat) (x : Int) : (BitVec.ofInt bits x).toNat = (x % 2 ^ bits).toNat := by
  rw [BitVec.toNat_ofInt]
  exact congrArg (fun n : Int => (x % n).toNat) (Int.natCast_pow 2 bits)

/-! ## Rounding and the vector generator (05 R90, R91) -/

/-- The random word of a lane holds each bit of the generator at the place five times the lane, and 16 for a high half, further on. -/
theorem getLsbD_laneWord (g : Word) (lane : Nat) (high : Bool) {i : Nat} (hi : i < 32) :
    (laneWord g lane high).getLsbD ((i + 5 * lane + if high then 16 else 0) % 32) = g.getLsbD i := by
  rw [Nat.add_assoc]
  exact getLsbD_rotateLeft_add g hi _

/-- Code 4 with SREN 0 rounds to nearest even. -/
theorem rndFor_sr_off {fmt : Word} (h : fmtSren fmt = false) (g : Word) (lane : Nat) (high : Bool) : rndFor fmt g 4 lane high = .rne :=
  if_neg (ne_true_of_eq_false h)

/-- Code 4 with SREN 1 rounds by the lane's random word. -/
theorem rndFor_sr_on {fmt : Word} (h : fmtSren fmt = true) (g : Word) (lane : Nat) (high : Bool) :
    rndFor fmt g 4 lane high = .sr (laneWord g lane high) := if_pos h

/-- A sum over four places. -/
theorem foldl_range_four (h : Nat → Nat) : (List.range 4).foldl (fun n i => n + h i) 0 = h 0 + h 1 + h 2 + h 3 := by
  simp [List.range_succ]

/-- Stepping the vector generator leaves the issuing wave as it is. -/
@[simp] theorem State.stepVgen_wave (s : State) (fmt : Word) (code : Nat) : (s.stepVgen fmt code).wave = s.wave := by
  unfold State.stepVgen
  split <;> rfl

/-! ## Conversions of one lane (05 R81; 12 R199, R200) -/

/-- The pairs of two floating formats. -/
theorem cvt_float_pairs (r : Rnd) (x : Word) : ∀ y ∈ [(0, fp32, fp16), (1, fp32, bf16), (2, fp32, e4m3), (3, fp32, e5m2), (4, fp16, fp32), (5, bf16, fp32),
    (6, e4m3, fp32), (7, e5m2, fp32)], cvt y.1 r x = cvtFloat y.2.1 y.2.2 r x := by
  simp only [List.forall_mem_cons]
  exact ⟨rfl, rfl, rfl, rfl, rfl, rfl, rfl, rfl, List.forall_mem_nil _⟩

/-- The pairs from FP32 to an integer range. -/
theorem cvt_range_pairs (r : Rnd) (x : Word) : ∀ y ∈ [(8, (-2147483648 : Int), (2147483647 : Int)), (9, 0, 4294967295)],
    cvt y.1 r x = cvtInt y.2.1 y.2.2 r x := by
  simp only [List.forall_mem_cons]
  exact ⟨rfl, rfl, List.forall_mem_nil _⟩

/-- The pairs that narrow an integer, signed or unsigned; none of their ranges is empty. -/
theorem cvt_narrow_pairs (r : Rnd) (x : Word) :
    ∀ y ∈ [(12, (-32768 : Int), (32767 : Int), 16, true), (13, -128, 127, 8, true), (14, 0, 65535, 16, false), (15, 0, 255, 8, false)],
      y.2.1 ≤ y.2.2.1 ∧ cvt y.1 r x = narrow y.2.1 y.2.2.1 y.2.2.2.1 (if y.2.2.2.2 then x.toInt else x.toNat) := by
  simp only [List.forall_mem_cons]
  exact ⟨⟨by decide, rfl⟩, ⟨by decide, rfl⟩, ⟨by decide, rfl⟩, ⟨by decide, rfl⟩, List.forall_mem_nil _⟩

/-- A narrowed integer: the nearest of its range, as the word of its residue, with SAT where it is another one. -/
theorem narrow_eq {lo hi : Int} (h : lo ≤ hi) (bits : Nat) (x : Int) :
    narrow lo hi bits x = (BitVec.ofNat 32 (max lo (min hi x) % 2 ^ bits).toNat, if x = max lo (min hi x) then 0 else flagSAT) := by
  simp only [narrow, clamp_eq_max_min x h, toNat_ofInt_two_pow, eq_comm (b := x)]

/-- A value converted to an integer range, as the word of its residue. -/
theorem cvtInt_eq (lo hi : Int) (r : Rnd) (x : Word) :
    cvtInt lo hi r x = (BitVec.ofNat 32 (((fp32.decode x.toNat).toRange r lo hi).1 % 2 ^ 32).toNat, ((fp32.decode x.toNat).toRange r lo hi).2) := by
  rw [← toNat_ofInt_two_pow, BitVec.ofNat_toNat, BitVec.setWidth_eq]
  rfl

end Sys2Proof.Machine

namespace Sys2Proof.Stmt

open Sys2Proof.Machine

/-! ## An instruction that may issue runs its meaning -/

section Issuing
variable {i : Instr} {s : State} {f : Frag} {t : Tree}

/-- An instruction whose own legality holds too runs its body. -/
theorem Ready.issue_eq_finish (h : Ready i s f t) {ok : Bool} (hok : ok = true) (body : Frag → Tree → Act) :
    s.issue i.enc ok i.site i.touch body = s.finish i.enc (body f t) := by
  obtain ⟨hfrag, htree, hsig, herrs, _, hloop, hsite, hpend⟩ := h
  exact State.issue_ready hfrag htree hsig herrs hok hloop hsite hpend

/-- An instruction whose own legality fails raises ILLOP. -/
theorem Ready.issue_illegal (h : Ready i s f t) {ok : Bool} (hok : ok = false) (body : Frag → Tree → Act) :
    s.issue i.enc ok i.site i.touch body = .next (s.raise { code := ILLOP }) := by
  obtain ⟨hfrag, htree, _⟩ := h
  unfold State.issue State.issueP
  rw [hfrag, htree, hok]
  rfl

/-- The fields of an instruction that may issue are legal. -/
theorem Ready.wellFormed (h : Ready i s f t) : i.wellFormed = true := by
  obtain ⟨_, _, _, _, hwf, _⟩ := h
  exact hwf

/-- An instruction that only changes the state by its registers and fragment completes with that change. -/
theorem Ready.completes_plainOp (h : Ready i s f t) {k : State → Frag → Tree → State} (hx : exec i s = s.plainOp i k) : Completes i s (k s f t) .seq :=
  hx.trans (h.issue_eq_finish h.wellFormed _)

/-- FMT of the issuing fragment is that of its fragment. -/
theorem Ready.curFmt (h : Ready i s f t) : s.curFmt = f.fmt := by
  obtain ⟨hfrag, _⟩ := h
  unfold State.curFmt
  rw [hfrag]

end Issuing

/-! ## Results of lanes with flags (05 R84; 12 R186) -/

/-- The result of two halves is that of the word they make, with the flags of both. -/
theorem flaggedHalves_eq_flagged (s : State) (f : Frag) (m : BitVec 3) (lat : Nat) (d : BitVec 6) (op : Nat → Bool → Nat × Word) :
    flaggedHalves s f m lat d op = flagged s f m lat d fun l => ((op l true).1 * 65536 + (op l false).1, (op l false).2 ||| (op l true).2) := rfl

/-- Lanes that are computed first, then written and their flags joined, are a flagged result. -/
theorem result_lanes_eq_flagged {s s' : State} (hw : s'.wave = s.wave) (f : Frag) (m : BitVec 3) (lat : Nat) (d : BitVec 6) {g : Nat → Word × Word} {op : Nat → Nat × Word}
    (hg : ∀ l, g l = (BitVec.ofNat 32 (op l).1, (op l).2)) :
    let xs := (lanesOf (s.wave.eff f m.toNat)).map fun l => (l, g l)
    (s'.flag (xs.foldl (fun a x => a ||| x.2.2) 0)).result lat (.vec d.toNat (xs.map fun x => (x.1, x.2.1))) = flagged s' f m lat d op := by
  simp only [flagged, hw, Wave.eff, List.foldl_map, List.map_map, Function.comp_def, hg]

section Lanes
variable {i : Instr} {s : State} {f : Frag} {t : Tree} {lat : Nat} {d : BitVec 6} {m : BitVec 3}

/-- A vector instruction with flags completes with the codes and flags of its lanes. -/
theorem Ready.completes_lanesF (h : Ready i s f t) {g : Wave → Nat → Word × Word} {op : Nat → Nat × Word} (hx : exec i s = s.lanesF i lat d m g)
    (hg : ∀ l, g s.wave l = (BitVec.ofNat 32 (op l).1, (op l).2)) : Completes i s (flagged s f m lat d op) .seq :=
  result_lanes_eq_flagged rfl f m lat d hg ▸ h.completes_plainOp hx

/-- The same of an instruction that acts on each half of a lane. -/
theorem Ready.completes_lanesF_halves (h : Ready i s f t) {g : Wave → Nat → Word × Word} {op : Nat → Bool → Nat × Word} (hx : exec i s = s.lanesF i lat d m g)
    (hg : ∀ l, g s.wave l = (BitVec.ofNat 32 ((op l true).1 * 65536 + (op l false).1), (op l false).2 ||| (op l true).2)) :
    Completes i s (flaggedHalves s f m lat d op) .seq := by
  rw [flaggedHalves_eq_flagged]
  exact h.completes_lanesF hx hg

end Lanes

/-- The operations of the FP32 instructions of two sources. -/
theorem exec_floatTwo (d a b : BitVec 6) (m : BitVec 3) (s : State) :
    ∀ x ∈ floatTwo, exec (x.1 d a b m) s = s.lanesF2 (x.1 d a b m) x.2.1 d a b m (f32op2 x.2.2) := by
  simp only [floatTwo, List.forall_mem_cons]
  exact ⟨rfl, rfl, rfl, rfl, rfl, rfl, List.forall_mem_nil _⟩

/-- The operations of the 16-bit forms. -/
theorem exec_shortFloat (d : BitVec 6) (q : BitVec 5) (s : State) :
    ∀ x ∈ shortFloat, exec (x.1 d q) s = s.lanesF2 (x.1 d q) 4 d d (q.setWidth 6) 0 (f32op2 x.2) := by
  simp only [shortFloat, List.forall_mem_cons]
  exact ⟨rfl, rfl, rfl, rfl, rfl, List.forall_mem_nil _⟩

/-- The operations of the F16X2 instructions of two sources. -/
theorem exec_floatHalves (d a b : BitVec 6) (m : BitVec 3) (s : State) :
    ∀ x ∈ floatHalves, exec (x.1 d a b m) s = s.lanesF2 (x.1 d a b m) 4 d a b m (halves2 x.2) := by
  simp only [floatHalves, List.forall_mem_cons]
  exact ⟨rfl, rfl, rfl, rfl, rfl, List.forall_mem_nil _⟩

/-- The operations of the fused multiply-adds, on FP32 and on halves. -/
theorem exec_floatFused (d a b : BitVec 6) (m : BitVec 3) (s : State) :
    ∀ x ∈ floatFused, exec (x.1 d a b m) s = s.lanesF3 (x.1 d a b m) 4 d a b m (f32op3 (fp32.ffma x.2.2.1 x.2.2.2)) ∧
      exec (x.2.1 d a b m) s = s.lanesF3 (x.2.1 d a b m) 4 d a b m (halves3 (fp16.ffma x.2.2.1 x.2.2.2)) := by
  simp only [floatFused, List.forall_mem_cons]
  exact ⟨⟨rfl, rfl⟩, ⟨rfl, rfl⟩, ⟨rfl, rfl⟩, List.forall_mem_nil _⟩

/-- The operations of the FP32 instructions of one source; an unpacking widens one half. -/
theorem exec_floatOne (d a : BitVec 6) (m : BitVec 3) (s : State) :
    ∀ x ∈ floatOne, exec (x.1 d a m) s = s.lanesF1 (x.1 d a m) x.2.1 d a m fun y => (BitVec.ofNat 32 (x.2.2 y).1, (x.2.2 y).2) := by
  simp only [floatOne, List.forall_mem_cons]
  exact ⟨rfl, rfl, rfl, rfl, rfl, rfl, rfl, List.forall_mem_nil _⟩

/-- Settles O11: each instruction is the shared form of lanes with flags, at the operation that its table lists. -/
theorem vectorFloatResults : Obligations.VectorFloatResults := by
  unfold Obligations.VectorFloatResults
  intro d a b q m s f t v one two
  refine ⟨fun x hx h => ?_, fun x hx h => ?_, fun x hx h => ?_, fun x hx => ⟨fun h => ?_, fun h => ?_⟩, fun x hx h => ?_, fun h => ?_, fun h => ?_⟩
  · exact h.completes_lanesF (exec_floatTwo d a b m s x hx) fun _ => rfl
  · refine h.completes_lanesF (exec_shortFloat d q s x hx) fun _ => ?_
    rw [BitVec.toNat_setWidth_of_le (by decide)]
    rfl
  · exact h.completes_lanesF_halves (exec_floatHalves d a b m s x hx) fun _ => rfl
  · exact h.completes_lanesF (exec_floatFused d a b m s x hx).1 fun _ => rfl
  · exact h.completes_lanesF_halves (exec_floatFused d a b m s x hx).2 fun _ => rfl
  · exact h.completes_lanesF (exec_floatOne d a m s x hx) fun _ => rfl
  · exact h.completes_lanesF_halves (g := fun w l => halves1 (estimate16 rcpEst) (w.rv a.toNat l)) rfl fun _ => rfl
  · exact h.completes_lanesF_halves (g := fun w l => halves1 (estimate16 rsqEst) (w.rv a.toNat l)) rfl fun _ => rfl

/-! ## The rounding of a lane -/

/-- Settles O12: codes 0 to 3 name their rounding; code 4 takes the lane's rotation of the generator when SREN is 1, and rounds to nearest even when it is 0. -/
theorem roundingOfALane : Obligations.RoundingOfALane := by
  unfold Obligations.RoundingOfALane
  intro fmt g l hi _
  refine ⟨rfl, rfl, rfl, rfl, fun hoff => ?_, fun hon => ⟨laneWord g l hi, ?_, fun i hi32 => getLsbD_laneWord g l hi hi32⟩⟩
  · exact rndFor_sr_off (fmtSren_eq_getLsbD fmt ▸ hoff) g l hi
  · exact rndFor_sr_on (fmtSren_eq_getLsbD fmt ▸ hon) g l hi

/-! ## State registers (11 R172, R173) -/

/-- MFS writes what the state register reads as. -/
theorem mfs_completes {d : BitVec 5} {n : BitVec 14} {s : State} {f : Frag} {t : Tree} (h : Ready (.mfs d n) s f t) :
    Completes (.mfs d n) s (s.result 1 (.sca d.toNat (s.stateReg f t n.toNat))) .seq :=
  h.completes_plainOp (k := fun s f t => s.result 1 (.sca d.toNat (s.stateReg f t n.toNat))) rfl

/-- MTS leaves the state with the register written. -/
theorem mts_completes {a : BitVec 5} {n : BitVec 14} {s : State} {f : Frag} {t : Tree} (h : Ready (.mts a n) s f t) :
    Completes (.mts a n) s (s.setStateReg n.toNat (s.wave.rs a.toNat)) .seq :=
  h.completes_plainOp (k := fun s _ _ => s.setStateReg n.toNat (s.wave.rs a.toNat)) rfl

/-- Each listed register reads as its field; %srseed as the two generators side by side. -/
theorem stateRegisterReads : StateRegisterReads := by
  unfold StateRegisterReads
  intro d n s f t h w c v hv
  have read : s.stateReg f t n.toNat = v := by
    refine (?_ : ∀ x ∈ (_ : List (Nat × Dword)), s.stateReg f t x.1 = x.2) _ hv
    simp only [List.forall_mem_cons]
    exact ⟨rfl, rfl, rfl, rfl, rfl, rfl, rfl, rfl, rfl, rfl, rfl, append_eq_ofNat _ _, rfl, rfl, rfl, rfl, rfl, rfl, rfl, rfl, rfl, List.forall_mem_nil _⟩
  exact read ▸ mfs_completes h

/-- Each writable register is one case of the model's write. -/
theorem stateRegisterWrites : StateRegisterWrites := by
  unfold StateRegisterWrites
  intro a s f t x lo hi done
  exact ⟨mts_completes, mts_completes, mts_completes, mts_completes, mts_completes⟩

/-- Settles O5: MFS reads each listed register, of which the generators are two words side by side, and MTS writes each writable one. -/
theorem stateRegisters : Obligations.StateRegisters := ⟨stateRegisterReads, stateRegisterWrites⟩

/-! ## Conversions and packing (05 R80, R90 to R93; 12 R199 to R203) -/

section Rounding
variable {i : Instr} {s : State} {f : Frag} {t : Tree} {code : Nat}

/-- An instruction that rounds runs its body under a code that is not reserved. -/
theorem Ready.issue_rounding (h : Ready i s f t) (hc : code < 5) (body : Frag → Tree → Act) :
    s.issue i.enc (i.wellFormed && rndValid code) i.site i.touch body = s.finish i.enc (body f t) := by
  refine h.issue_eq_finish ?_ body
  rw [h.wellFormed, rndValid, decide_eq_true hc, Bool.and_self]

/-- Under a reserved code it raises ILLOP. -/
theorem Ready.issue_reserved (h : Ready i s f t) (hc : 5 ≤ code) (body : Frag → Tree → Act) :
    s.issue i.enc (i.wellFormed && rndValid code) i.site i.touch body = .next (s.raise { code := ILLOP }) := by
  refine h.issue_illegal ?_ body
  rw [rndValid, decide_eq_false (Nat.not_lt.mpr hc), Bool.and_false]

end Rounding

/-- The pairs that no rounding acts on. -/
theorem cvtExact_iff (p : Nat) : cvtExact p = true ↔ (4 ≤ p ∧ p ≤ 7) ∨ 12 ≤ p := by
  simp only [cvtExact, Bool.or_eq_true, Bool.and_eq_true, decide_eq_true_eq]

/-- The generator steps once, under SR with SREN 1 and for a pair that is not exact. -/
theorem stepVgen_unless_exact (s : State) (fmt : Word) (code p : Nat) :
    (if cvtExact p then s else s.stepVgen fmt code) =
      if code = 4 ∧ fmt.getLsbD 19 = true ∧ ¬ ((4 ≤ p ∧ p ≤ 7) ∨ 12 ≤ p) then s.updCore s.wave.core fun c => { c with vgen := genStep c.vgen } else s := by
  simp only [← cvtExact_iff, ← fmtSren_eq_getLsbD, State.stepVgen]
  cases cvtExact p <;> simp

section Vcvt
variable {d a p : BitVec 6} {m r : BitVec 3} {s : State} {f : Frag} {t : Tree}

/-- The rounding code that VCVT takes: its own, or that of FMT. -/
def vcvtCode (f : Frag) (r : BitVec 3) : Nat := if r.toNat = 5 then fmtRnd f.fmt else r.toNat

/-- VCVT under a reserved rounding raises ILLOP. -/
theorem vcvt_raises (h : Ready (.vcvt d a p m r) s f t) (hc : 5 ≤ vcvtCode f r) : Raises (.vcvt d a p m r) s { code := ILLOP } := by
  show execVcvt d a p m r s = _
  unfold execVcvt
  rw [h.curFmt]
  exact h.issue_reserved hc _

/-- VCVT under another rounding writes what the pair makes of each lane. -/
theorem vcvt_completes (h : Ready (.vcvt d a p m r) s f t) (hc : vcvtCode f r < 5) {s' : State}
    (hs : (if cvtExact p.toNat then s else s.stepVgen f.fmt (vcvtCode f r)) = s') {op : Nat → Nat × Word}
    (hop : ∀ l, cvt p.toNat (rndFor f.fmt (s.core s.wave.core).vgen (vcvtCode f r) l false) (s.wave.rv a.toNat l) = (BitVec.ofNat 32 (op l).1, (op l).2)) :
    Completes (.vcvt d a p m r) s (flagged s' f m 4 d op) .seq := by
  subst hs
  have hw : (if cvtExact p.toNat then s else s.stepVgen f.fmt (vcvtCode f r)).wave = s.wave := by
    split
    · rfl
    · exact s.stepVgen_wave _ _
  show execVcvt d a p m r s = _
  unfold execVcvt
  rw [h.curFmt, ← result_lanes_eq_flagged hw f m 4 d hop]
  exact h.issue_rounding hc _

end Vcvt

/-- VCVT, pair by pair. -/
theorem conversionResults : ConversionResults := by
  unfold ConversionResults
  intro d a p m r s f t h code isExact g s' x rnd done
  refine ⟨vcvt_raises h, fun hc => ?_⟩
  have run : ∀ {op : Nat → Nat × Word}, (∀ l, cvt p.toNat (rnd l) (x l) = (BitVec.ofNat 32 (op l).1, (op l).2)) → done op :=
    vcvt_completes h hc (stepVgen_unless_exact s f.fmt code p.toNat)
  refine ⟨fun src dst hp => run fun l => ?_, fun lo hi hp => run fun l => ?_, fun hp => run fun l => ?_, fun hp => run fun l => ?_,
    fun lo hi bits sx hp => run fun l => ?_⟩
  · exact cvt_float_pairs (rnd l) (x l) _ hp
  · exact (cvt_range_pairs (rnd l) (x l) _ hp).trans (cvtInt_eq lo hi _ _)
  · rw [hp]; rfl
  · rw [hp]; rfl
  · obtain ⟨hle, heq⟩ := cvt_narrow_pairs (rnd l) (x l) _ hp
    exact heq.trans (narrow_eq hle bits _)

section Packing
variable {i : Instr} {s : State} {f : Frag} {t : Tree} {d : BitVec 6} {m : BitVec 3}

/-- A packing function under a reserved rounding raises ILLOP. -/
theorem Ready.raises_packOp (h : Ready i s f t) {mk : Word → Nat → Word → Nat → Word × Word} (hx : exec i s = s.packOp i d m mk)
    (hc : 5 ≤ fmtRnd f.fmt) : Raises i s { code := ILLOP } := by
  refine hx.trans ?_
  unfold State.packOp
  rw [h.curFmt]
  exact h.issue_reserved hc _

/-- A packing function under another rounding writes the halves that it makes of each lane. -/
theorem Ready.completes_packOp (h : Ready i s f t) {mk : Word → Nat → Word → Nat → Word × Word} (hx : exec i s = s.packOp i d m mk)
    (hc : fmtRnd f.fmt < 5) {op : Nat → Bool → Nat × Word} (hop : ∀ l, mk f.fmt (fmtRnd f.fmt) (s.core s.wave.core).vgen l =
      (BitVec.ofNat 32 ((op l true).1 * 65536 + (op l false).1), (op l false).2 ||| (op l true).2)) :
    Completes i s (flaggedHalves (s.stepVgen f.fmt (fmtRnd f.fmt)) f m 4 d op) .seq := by
  refine hx.trans ?_
  unfold State.packOp
  rw [h.curFmt, flaggedHalves_eq_flagged, ← result_lanes_eq_flagged (s.stepVgen_wave f.fmt (fmtRnd f.fmt)) f m 4 d hop]
  exact h.issue_rounding hc _

end Packing

/-- VPACK.F16X2 and VPACK.BF16X2 round their first source into the low half and their second into the high half. -/
theorem exec_vpackF16X2 (d a b : BitVec 6) (m : BitVec 3) (s : State) : exec (.vpackF16X2 d a b m) s = s.packOp (.vpackF16X2 d a b m) d m fun fmt code gen l =>
    pack2 fp16 (rndFor fmt gen code l false) (rndFor fmt gen code l true) (s.wave.rv a.toNat l) (s.wave.rv b.toNat l) := rfl

theorem exec_vpackBf16x2 (d a b : BitVec 6) (m : BitVec 3) (s : State) : exec (.vpackBf16x2 d a b m) s = s.packOp (.vpackBf16x2 d a b m) d m fun fmt code gen l =>
    pack2 bf16 (rndFor fmt gen code l false) (rndFor fmt gen code l true) (s.wave.rv a.toNat l) (s.wave.rv b.toNat l) := rfl

/-- The three packing functions; a lane of a block holds four of its bytes. -/
theorem packResults : PackResults := by
  unfold PackResults
  intro d a b m s f t code g v pack two
  refine ⟨fun h => ⟨h.raises_packOp (exec_vpackF16X2 d a b m s), fun hc => h.completes_packOp (exec_vpackF16X2 d a b m s) hc fun _ => rfl⟩,
    fun h => ⟨h.raises_packOp (exec_vpackBf16x2 d a b m s), fun hc => h.completes_packOp (exec_vpackBf16x2 d a b m s) hc fun _ => rfl⟩,
    fun h => ?_⟩
  intro e xs blk bs
  have hx : exec (.vpackE2M1X d a m) s = execVpackE2M1X d a m s := rfl
  simp only [Raises, Completes, hx, execVpackE2M1X, h.curFmt, foldl_range_four, Nat.add_zero, Nat.reducePow, Nat.mul_one]
  exact ⟨fun hc => h.issue_reserved hc _, fun hc => h.issue_rounding hc _⟩

/-- SETFMT and GETFMT. -/
theorem formatRegister : FormatRegister := by
  unfold FormatRegister
  intro a d s f t
  exact ⟨fun h => h.completes_plainOp (k := fun s f _ => s.upd fun w => w.setFrag { f with fmt := lo32 (w.rs a.toNat) &&& fmtMask }) rfl,
    fun h => h.completes_plainOp (k := fun s f _ => s.result 1 (.sca d.toNat (f.fmt.setWidth 64))) rfl⟩

/-- Settles O13: VCVT by the pair and the rounding of each lane, the packing functions by FMT.RND, and FMT as it is written and read. -/
theorem conversionAndPackResults : Obligations.ConversionAndPackResults := ⟨conversionResults, packResults, formatRegister⟩

end Sys2Proof.Stmt
end

section
/-! PROOFS. Vector integers, comparisons, shuffles, votes and masks (12_isa_vector.md R184 to R192, R196, R204 to R209): the statements
VectorIntegerAndFieldResults and CompareShuffleAndVoteResults, with the laws of lanes, masks and lane operations they rest on. -/

namespace Sys2Proof.Machine

/-! ## Lane operations on integers (R188 to R190) -/

/-- A signed saturated value: the nearest of the signed range. -/
theorem clampS_eq (x : Int) : clampS x = BitVec.ofInt 32 (max (-2147483648) (min 2147483647 x)) := by
  rw [clampS, clamp_eq_max_min x (by decide)]

/-- An unsigned saturated sum. -/
theorem clampU_add (m n : Nat) : clampU ((m : Int) + n) = BitVec.ofNat 32 (min 4294967295 (m + n)) := by
  rw [clampU, clamp_eq_max_min _ (by decide), ← BitVec.ofInt_natCast]
  congr 1
  omega

/-- An unsigned saturated difference of words is the difference of the naturals. -/
theorem clampU_sub (x y : Word) : clampU ((x.toNat : Int) - y.toNat) = BitVec.ofNat 32 (x.toNat - y.toNat) := by
  have hx := x.isLt
  rw [clampU, clamp_eq_max_min _ (by decide), ← BitVec.ofInt_natCast]
  congr 1
  omega

/-- Bits [63:32] of an integer's low 64 bits. -/
theorem setWidth_ofInt_ushiftRight (z : Int) : ((BitVec.ofInt 64 z) >>> 32).setWidth 32 = BitVec.ofInt 32 (z / 2 ^ 32) := by
  apply BitVec.eq_of_toNat_eq
  rw [BitVec.toNat_setWidth, BitVec.toNat_ushiftRight, BitVec.toNat_ofInt, BitVec.toNat_ofInt, Nat.shiftRight_eq_div_pow]
  omega

/-- The high word of a signed product. -/
theorem laneMulHighS_eq (x y : Word) : laneMulHighS x y = BitVec.ofInt 32 (x.toInt * y.toInt / 2 ^ 32) := by
  rw [laneMulHighS, BitVec.signExtend, BitVec.signExtend, ← BitVec.ofInt_mul, setWidth_ofInt_ushiftRight]

/-- The high word of an unsigned product. -/
theorem laneMulHighU_eq (x y : Word) : laneMulHighU x y = BitVec.ofNat 32 (x.toNat * y.toNat / 2 ^ 32) := by
  have wide (z : Word) : z.setWidth 64 = BitVec.ofInt 64 z.toNat := by rw [BitVec.ofInt_natCast, BitVec.ofNat_toNat]
  rw [laneMulHighU, wide, wide, ← BitVec.ofInt_mul, setWidth_ofInt_ushiftRight, ← BitVec.ofInt_natCast]
  rfl

/-- An arithmetic shift to the right is a division that rounds down. -/
theorem sshiftRight_eq_ofInt_div (x : Word) (n : Nat) : x.sshiftRight n = BitVec.ofInt 32 (x.toInt / 2 ^ n) := by
  rw [BitVec.sshiftRight_eq, Int.shiftRight_eq_div_pow]
  exact congrArg (fun z : Int => BitVec.ofInt 32 (x.toInt / z)) (Int.natCast_pow 2 n)

/-- The signed minimum, by the integers. -/
theorem minS_eq (x y : Word) : minS x y = if y.toInt < x.toInt then y else x := by simp only [minS, BitVec.slt_iff_toInt_lt]
/-- The signed maximum, by the integers. -/
theorem maxS_eq (x y : Word) : maxS x y = if x.toInt < y.toInt then y else x := by simp only [maxS, BitVec.slt_iff_toInt_lt]
/-- The unsigned minimum, by the naturals. -/
theorem minU_eq (x y : Word) : minU x y = if y.toNat < x.toNat then y else x := by simp only [minU, BitVec.ult_eq_decide, decide_eq_true_eq]
/-- The unsigned maximum, by the naturals. -/
theorem maxU_eq (x y : Word) : maxU x y = if x.toNat < y.toNat then y else x := by simp only [maxU, BitVec.ult_eq_decide, decide_eq_true_eq]

/-- The magnitude of a word; that of −2^31 is itself. -/
theorem abs_eq_ofNat_natAbs (x : Word) : (if x.slt 0 then -x else x) = BitVec.ofNat 32 x.toInt.natAbs := by
  rw [← BitVec.ofInt_natCast]
  split
  case isTrue hneg =>
    have : x.toInt < 0 := BitVec.slt_iff_toInt_lt.mp hneg
    rw [Int.ofNat_natAbs_of_nonpos (Int.le_of_lt this), BitVec.ofInt_neg, BitVec.ofInt_toInt]
  case isFalse hpos =>
    have : ¬ x.toInt < 0 := fun h => hpos (BitVec.slt_iff_toInt_lt.mpr h)
    rw [Int.natAbs_of_nonneg (Int.not_lt.mp this), BitVec.ofInt_toInt]

/-- Bit `j` of a word extended without end, by its sign or by zeros. -/
def extendedBit (sx : Bool) (x : Word) (j : Nat) : Bool := if j < 32 then x.getLsbD j else sx && x.getLsbD 31

/-- The bits that VBFX reads, from place `p` on, are those of the extended source. -/
theorem getLsbD_extended_shift (sx : Bool) (x : Word) {p k : Nat} (h : p + k < 64) :
    (if sx then (x.signExtend 64).sshiftRight p else x.setWidth 64 >>> p : BitVec 64).getLsbD k = extendedBit sx x (p + k) := by
  have hk : k < 64 := by omega
  cases sx with
  | false =>
    by_cases h32 : p + k < 32
    · simp [extendedBit, h, h32]
    · simp [extendedBit, h32, BitVec.getLsbD_of_ge x (p + k) (by omega)]
  | true =>
    rw [if_pos rfl, BitVec.getLsbD_sshiftRight, if_pos h, BitVec.getLsbD_signExtend, BitVec.msb_eq_getLsbD_last]
    simp only [extendedBit, h, Nat.not_le.mpr hk, decide_true, decide_false, Bool.not_false, Bool.true_and]

/-- VBFX bit by bit (R190): the field's own bits, then zeros or its top bit. -/
theorem getLsbD_laneField (sx : Bool) (x : Word) (sb : Dword) {j : Nat} (hj : j < 32) :
    (laneField sx x sb).getLsbD j =
      if j < sb.toNat / 32 % 32 + 1 then extendedBit sx x (sb.toNat % 32 + j)
      else sx && extendedBit sx x (sb.toNat % 32 + (sb.toNat / 32 % 32 + 1) - 1) := by
  have hp : sb.toNat % 32 < 32 := Nat.mod_lt _ (by decide)
  have hw : sb.toNat / 32 % 32 < 32 := Nat.mod_lt _ (by decide)
  have hsrc {k : Nat} (hk : k < 32) := getLsbD_extended_shift sx x (p := sb.toNat % 32) (k := k) (by omega)
  rw [Nat.add_sub_assoc (by omega), Nat.add_sub_cancel, ← hsrc hj, ← hsrc hw]
  unfold laneField
  simp only [BitVec.ofNat_toNat]
  cases sx with
  | false =>
    simp only [Bool.false_eq_true, if_false, BitVec.getLsbD_setWidth, hj, decide_true, Bool.true_and, Bool.false_and]
    by_cases hlt : j < sb.toNat / 32 % 32 + 1 <;> simp only [hlt, decide_true, decide_false, Bool.true_and, Bool.false_and, if_true, if_false]
  | true =>
    simp only [if_true, BitVec.getLsbD_signExtend, BitVec.msb_eq_getLsbD_last, BitVec.getLsbD_setWidth, hj, decide_true, Bool.true_and, Nat.add_sub_cancel,
      Nat.lt_succ_self]
    by_cases hlt : j < sb.toNat / 32 % 32 + 1 <;> simp only [hlt, decide_true, Bool.true_and, if_true, if_false]

/-! ## Comparison codes (Table 9-11) -/

/-- VCMP's signed conditions, by the integers. -/
theorem laneCond_signed (x y : Nat → Word) :
    ∀ z ∈ [(0, fun l => x l == y l), (1, fun l => x l != y l), (2, fun l => decide ((x l).toInt < (y l).toInt)),
      (3, fun l => decide ((x l).toInt ≤ (y l).toInt)), (4, fun l => decide ((y l).toInt < (x l).toInt)), (5, fun l => decide ((y l).toInt ≤ (x l).toInt))],
    ∀ l, laneCond true z.1 (x l) (y l) = z.2 l := by
  simp only [List.forall_mem_cons]
  exact ⟨fun _ => rfl, fun _ => rfl, fun _ => BitVec.slt_eq_decide, fun _ => BitVec.sle_eq_not_slt.symm.trans BitVec.sle_eq_decide,
    fun _ => BitVec.slt_eq_decide, fun _ => BitVec.sle_eq_not_slt.symm.trans BitVec.sle_eq_decide, List.forall_mem_nil _⟩

/-- VCMP's unsigned conditions, by the naturals. -/
theorem laneCond_unsigned (x y : Nat → Word) :
    ∀ z ∈ [(0, fun l => x l == y l), (1, fun l => x l != y l), (2, fun l => decide ((x l).toNat < (y l).toNat)),
      (3, fun l => decide ((x l).toNat ≤ (y l).toNat)), (4, fun l => decide ((y l).toNat < (x l).toNat)), (5, fun l => decide ((y l).toNat ≤ (x l).toNat))],
    ∀ l, laneCond false z.1 (x l) (y l) = z.2 l := by
  simp only [List.forall_mem_cons]
  exact ⟨fun _ => rfl, fun _ => rfl, fun _ => BitVec.ult_eq_decide, fun _ => (BitVec.ule_eq_not_ult _ _).symm.trans BitVec.ule_eq_decide,
    fun _ => BitVec.ult_eq_decide, fun _ => (BitVec.ule_eq_not_ult _ _).symm.trans BitVec.ule_eq_decide, List.forall_mem_nil _⟩

/-! ## The lanes of a mask -/

/-- The lanes of a mask are its bits. -/
theorem mem_lanesOf {e : Mask} {l : Nat} : l ∈ lanesOf e ↔ l < 32 ∧ e.getLsbD l = true := by rw [lanesOf, List.mem_filter, List.mem_range]

/-- The empty mask has no lane. -/
@[simp] theorem lanesOf_zero : lanesOf 0 = [] := by decide

/-- The first lane of a mask is its lowest one. -/
theorem headD_lanesOf {e : Mask} {k : Nat} (hk : e.getLsbD k = true) (hlow : ∀ l < k, e.getLsbD l = false) (l : Nat) : (lanesOf e).headD l = k := by
  have hk32 : k < 32 := BitVec.lt_of_getLsbD hk
  have hfirst : (lanesOf e).head? = some k := by
    rw [lanesOf, List.head?_filter, List.find?_range_eq_some]
    exact ⟨hk, List.mem_range.mpr hk32, fun l hl => by rw [hlow l hl]; rfl⟩
  rw [List.headD_eq_head?_getD, hfirst, Option.getD_some]

/-- Every word is the first of the list: any two are the same. -/
theorem all_eq_headD_iff (xs : List Word) (x : Word) : (xs.all (· == xs.headD x)) = true ↔ ∀ a ∈ xs, ∀ b ∈ xs, a = b := by
  simp only [List.all_eq_true, beq_iff_eq]
  cases xs with
  | nil => simp
  | cons y ys => exact ⟨fun h a ha b hb => (h a ha).trans (h b hb).symm, fun h a ha => h a ha y List.mem_cons_self⟩

/-- The bits of a lane number, exclusive-or with a 5-bit one, stay a lane number. -/
theorem toNat_lane_xor (l : Nat) (n : BitVec 5) : (BitVec.ofNat 5 l ^^^ n).toNat = (l ^^^ n.toNat) % 32 := by
  rw [BitVec.toNat_xor, BitVec.toNat_ofNat, Nat.xor_mod_two_pow (n := 5), Nat.mod_eq_of_lt n.isLt]

/-- Lanes without flags have none to join. -/
theorem foldl_or_zero (ls : List Nat) (g : Word) : ls.foldl (fun a _ => a ||| 0) g = g := by
  induction ls with
  | nil => rfl
  | cons l ls ih => exact (congrArg (ls.foldl fun a _ => a ||| 0) BitVec.or_zero).trans ih

/-- No flag to join leaves the state as it is. -/
@[simp] theorem State.flag_zero (s : State) : s.flag 0 = s := by simp [State.flag, State.upd, Wave.flag]

end Sys2Proof.Machine

namespace Sys2Proof.Stmt

open Sys2Proof.Machine

/-! ## Shared forms of the vector instructions without flags (R184, R186) -/

section Forms
variable {i : Instr} {s : State} {f : Frag} {t : Tree} {lat : Nat}

/-- An instruction that computes the lanes of E completes with the values of its operation. -/
theorem Ready.completes_lanes (h : Ready i s f t) {d : BitVec 6} {m : BitVec 3} {g : Wave → Nat → Word} (hx : exec i s = s.lanes i lat d m g) {op : Nat → Word}
    (hop : ∀ l, g s.wave l = op l) : Completes i s (s.result lat (.vec d.toNat (overE s f m op))) .seq := by
  have hvals : g s.wave = op := funext hop
  exact hvals ▸ h.completes_plainOp hx

/-- An instruction that writes the bits of the lanes of E in a mask register completes with those its operation chooses, and with its flags. -/
theorem Ready.completes_laneBits (h : Ready i s f t) {d m : BitVec 3} {g : Wave → Nat → Bool × Word} (hx : exec i s = s.laneBits i lat d m g) :
    let e := f.mask &&& s.wave.rm m.toNat
    Completes i s ((s.flag ((lanesOf e).foldl (fun a l => a ||| (g s.wave l).2) 0)).result lat
      (.bits d.toNat (maskOf ((lanesOf e).filter fun l => (g s.wave l).1)) e)) .seq := by
  simpa only [List.foldl_map, List.filter_map, List.map_map, Function.comp_def, List.map_id', Wave.eff] using h.completes_plainOp hx

/-- The same of an instruction without flags. -/
theorem Ready.completes_laneBits_plain (h : Ready i s f t) {d m : BitVec 3} {g : Wave → Nat → Bool} (hx : exec i s = s.laneBits i lat d m fun w l => (g w l, 0))
    {p : Nat → Bool} (hp : ∀ l, g s.wave l = p l) :
    let e := f.mask &&& s.wave.rm m.toNat
    Completes i s (s.result lat (.bits d.toNat (maskOf ((lanesOf e).filter p)) e)) .seq := by
  intro e
  have hbits : g s.wave = p := funext hp
  have hflags (ls : List Nat) : s.flag (ls.foldl (fun a _ => a ||| 0) 0) = s := by rw [foldl_or_zero, State.flag_zero]
  simpa only [hflags, hbits] using h.completes_laneBits hx

/-- A vote that holds writes ones, and one that does not writes zeros. -/
theorem Ready.completes_vote (h : Ready i s f t) {d m : BitVec 3} {a : BitVec 6} {g : List Word → Bool} (hx : exec i s = s.vote i d a m g) {p : Prop}
    (hp : g ((lanesOf (f.mask &&& s.wave.rm m.toNat)).map (s.wave.rv a.toNat)) = true ↔ p) :
    (p → Completes i s (s.result 3 (.msk d.toNat 0xFFFFFFFF)) .seq) ∧ (¬ p → Completes i s (s.result 3 (.msk d.toNat 0)) .seq) := by
  have hrun : Completes i s (s.result 3 (.msk d.toNat
      (if g ((lanesOf (f.mask &&& s.wave.rm m.toNat)).map (s.wave.rv a.toNat)) then 0xFFFFFFFF else 0))) .seq := h.completes_plainOp hx
  exact ⟨fun h1 => by rwa [if_pos (hp.mpr h1)] at hrun, fun h0 => by rwa [if_neg fun hg => h0 (hp.mp hg)] at hrun⟩

/-- An instruction that writes one register completes with it. -/
theorem Ready.completes_regOp (h : Ready i s f t) (g : Wave → Res) (hx : exec i s = s.regOp i lat g) : Completes i s (s.result lat (g s.wave)) .seq :=
  h.completes_plainOp hx

end Forms

/-! ## Integer results (R188 to R191) -/

/-- The operations of the integer instructions of two sources. -/
theorem exec_vectorTwo (d a b : BitVec 6) (m : BitVec 3) (s : State) :
    ∀ x ∈ vectorTwo, exec (x.1 d a b m) s = s.lanes2 (x.1 d a b m) x.2.1 d a b m x.2.2 := by
  simp only [vectorTwo, List.forall_mem_cons, ← clampS_eq, ← clampU_add, ← clampU_sub, ← laneMulHighS_eq, ← laneMulHighU_eq, ← sshiftRight_eq_ofInt_div,
    ← minS_eq, ← maxS_eq, ← minU_eq, ← maxU_eq]
  exact ⟨rfl, rfl, rfl, rfl, rfl, rfl, rfl, rfl, rfl, rfl, rfl, rfl, rfl, rfl, rfl, rfl, rfl, rfl, rfl, rfl, rfl, rfl, rfl, rfl, List.forall_mem_nil _⟩

/-- The operations of the integer instructions of one source. -/
theorem exec_vectorOne (d a : BitVec 6) (m : BitVec 3) (s : State) :
    ∀ x ∈ vectorOne, exec (x.1 d a m) s = s.lanes1 (x.1 d a m) x.2.1 d a m x.2.2 := by
  simp only [vectorOne, List.forall_mem_cons, ← abs_eq_ofNat_natAbs]
  exact ⟨rfl, rfl, rfl, rfl, rfl, rfl, rfl, rfl, rfl, rfl, List.forall_mem_nil _⟩

/-- The operations of the 16-bit forms. -/
theorem exec_shortTwo (d : BitVec 6) (b : BitVec 5) (s : State) :
    ∀ x ∈ shortTwo, exec (x.1 d b) s = s.lanes2 (x.1 d b) x.2.1 d d (b.setWidth 6) 0 x.2.2 := by
  simp only [shortTwo, List.forall_mem_cons, ← sshiftRight_eq_ofInt_div, ← minS_eq, ← maxS_eq]
  exact ⟨rfl, rfl, rfl, rfl, rfl, rfl, rfl, rfl, rfl, rfl, List.forall_mem_nil _⟩

/-- VMOV moves the source's lanes, and leaves a register moved to itself (R144). -/
theorem exec_vmov (d : BitVec 6) (b : BitVec 5) (s : State) :
    exec (.vmov d b) s = if d = b.setWidth 6 then s.plainOp (.vmov d b) fun s _ _ => s else s.lanes1 (.vmov d b) 2 d (b.setWidth 6) 0 fun x => x := rfl

/-- Integer results on the lanes of E. -/
theorem vectorIntegerResults : VectorIntegerResults := by
  unfold VectorIntegerResults
  intro d a b m k sc n i s f t v done
  have hshort (c : BitVec 5) : (c.setWidth 6).toNat = c.toNat := BitVec.toNat_setWidth_of_le (by decide)
  refine ⟨fun x hx h => ?two, fun x hx h => ?one, fun h => ?vmad, fun h => ?vsel, fun h => ?vaddi, fun h => ?vshli, fun h => ?vshri, fun h => ?vsrai,
    fun h => ?vmovs, fun h => ?vlane, fun h => ?vmovi, fun x hx c h => ?short, fun c => ⟨fun hne h => ?vmov, fun heq h => ?vmovSelf⟩⟩
  case two => exact h.completes_lanes (exec_vectorTwo d a b m s x hx) fun _ => rfl
  case one => exact h.completes_lanes (exec_vectorOne d a m s x hx) fun _ => rfl
  case short => exact h.completes_lanes (exec_shortTwo d c s x hx) fun _ => by rw [hshort]
  case vmov => exact h.completes_lanes ((exec_vmov d c s).trans (if_neg hne)) fun _ => by rw [hshort]
  case vmovSelf => exact h.completes_plainOp (k := fun s _ _ => s) ((exec_vmov d c s).trans (if_pos heq))
  case vsrai => exact h.completes_lanes (g := fun w l => (w.rv a.toNat l).sshiftRight n.toNat) rfl fun _ => sshiftRight_eq_ofInt_div _ _
  case vmad => exact h.completes_lanes (g := fun w l => w.rv a.toNat l * w.rv b.toNat l + w.rv d.toNat l) rfl fun _ => rfl
  case vsel => exact h.completes_lanes (g := fun w l => if (w.rm k.toNat).getLsbD l then w.rv a.toNat l else w.rv b.toNat l) rfl fun _ => rfl
  case vaddi => exact h.completes_lanes (g := fun w l => w.rv a.toNat l + i.signExtend 32) rfl fun _ => rfl
  case vshli => exact h.completes_lanes (g := fun w l => w.rv a.toNat l <<< n.toNat) rfl fun _ => rfl
  case vshri => exact h.completes_lanes (g := fun w l => w.rv a.toNat l >>> n.toNat) rfl fun _ => rfl
  case vmovs => exact h.completes_lanes (g := fun w _ => lo32 (w.rs sc.toNat)) rfl fun _ => rfl
  case vlane => exact h.completes_lanes (g := fun _ l => BitVec.ofNat 32 l) rfl fun _ => rfl
  case vmovi => exact h.completes_lanes (g := fun _ _ => i.signExtend 32) rfl fun _ => rfl

/-- Both forms of VBFX are one field extraction. -/
theorem exec_vbfx (sx : Bool) (d a : BitVec 6) (sc : BitVec 5) (m : BitVec 3) (s : State) :
    exec (if sx then .vbfxS32 d a sc m else .vbfxU32 d a sc m) s =
      s.lanes (if sx then .vbfxS32 d a sc m else .vbfxU32 d a sc m) 2 d m fun w l => laneField sx (w.rv a.toNat l) (w.rs sc.toNat) := by
  cases sx <;> rfl

/-- A word with the bits of the field is the field. -/
theorem vectorFieldResults : VectorFieldResults := by
  unfold VectorFieldResults
  intro d a sc m s f t op sx p w x src i hop h
  refine h.completes_lanes (exec_vbfx sx d a sc m s) fun l => BitVec.eq_of_getLsbD_eq fun j hj => ?_
  rw [getLsbD_laneField sx _ _ hj]
  exact (hop l j hj).symm

/-- Settles O10: each integer instruction is the shared form of lanes at the operation that its table lists, and VBFX agrees with its field bit by bit. -/
theorem vectorIntegerAndFieldResults : Obligations.VectorIntegerAndFieldResults := ⟨vectorIntegerResults, vectorFieldResults⟩

/-! ## Comparisons, shuffles, votes and masks (R192, R196, R204 to R209) -/

/-- Comparisons and VBALLOT: the lanes of E where the relation holds. -/
theorem vectorCompareResults : VectorCompareResults := by
  unfold VectorCompareResults
  intro d m c a b s f t e ls x y done
  refine ⟨fun p hp h => ?_, fun p hp h => ?_, fun h => ?_, fun h => ?_⟩
  · exact h.completes_laneBits_plain (g := fun w l => laneCond true c.toNat (w.rv a.toNat l) (w.rv b.toNat l)) rfl (laneCond_signed x y _ hp)
  · exact h.completes_laneBits_plain (g := fun w l => laneCond false c.toNat (w.rv a.toNat l) (w.rv b.toNat l)) rfl (laneCond_unsigned x y _ hp)
  · exact h.completes_laneBits (g := fun w l => laneFcmp c.toNat (w.rv a.toNat l) (w.rv b.toNat l)) rfl
  · exact h.completes_laneBits_plain (g := fun w l => w.rv a.toNat l != 0) rfl fun _ => rfl

section Shuffles
variable {d a : BitVec 6} {m : BitVec 3} {s : State} {f : Frag} {t : Tree}

/-- A shuffle completes with the source's lanes that it names. -/
theorem Ready.completes_shuffle {i : Instr} (h : Ready i s f t) {g : Wave → Nat → Nat} (hx : exec i s = s.shuffle i d a m g) {src : Nat → Nat}
    (hsrc : ∀ l, g s.wave l = src l) : Completes i s (s.result 3 (.vec d.toNat (overE s f m fun l => s.wave.rv a.toNat (src l)))) .seq :=
  h.completes_lanes hx fun l => congrArg _ (hsrc l)

/-- VFIRST completes with the source's lane at the head of the lanes of E. -/
theorem vfirst_completes (h : Ready (.vfirst d a m) s f t) : Completes (.vfirst d a m) s
    (s.result 3 (.vec d.toNat (overE s f m fun _ => s.wave.rv a.toNat ((lanesOf (f.mask &&& s.wave.rm m.toNat)).headD 0)))) .seq :=
  h.completes_plainOp (k := fun s f _ =>
    s.result 3 (.vec d.toNat ((lanesOf (s.wave.eff f m.toNat)).map fun l => (l, s.wave.rv a.toNat ((lanesOf (s.wave.eff f m.toNat)).headD 0))))) rfl

end Shuffles

/-- Shuffles, by the lane that each reads. -/
theorem shuffleResults : ShuffleResults := by
  unfold ShuffleResults
  intro d a b sc n m s f t v done
  refine ⟨fun h => ?vshfl, fun h => ?xor, fun h => ?up, fun h => ?down, fun h => ?vbc, fun k hk hlow h => ?first, fun hnone h => ?firstNone⟩
  case vshfl => exact h.completes_shuffle (g := fun w l => (w.rv b.toNat l).toNat % 32) rfl fun _ => rfl
  case xor => exact h.completes_shuffle (g := fun _ l => (BitVec.ofNat 5 l ^^^ n).toNat) rfl fun l => toNat_lane_xor l n
  case up =>
    refine h.completes_shuffle (g := fun _ l => if l < n.toNat then l else l - n.toNat) rfl fun l => ?_
    split <;> split <;> omega
  case down =>
    refine h.completes_shuffle (g := fun _ l => if 31 < l + n.toNat then l else l + n.toNat) rfl fun l => ?_
    split <;> split <;> omega
  case vbc => exact h.completes_shuffle (g := fun w _ => (w.rs sc.toNat).toNat % 32) rfl fun _ => rfl
  case first =>
    have hrun := vfirst_completes h
    rwa [headD_lanesOf hk hlow] at hrun
  case firstNone =>
    have hrun := vfirst_completes h
    rwa [hnone, lanesOf_zero] at hrun

/-- Votes, by what they say of the lanes of E; mask logic and moves. -/
theorem voteAndMaskResults : VoteAndMaskResults := by
  unfold VoteAndMaskResults
  intro d a b m va sd s f t e x vote done p q
  refine ⟨fun h => h.completes_vote (g := fun xs => xs.all (· != 0)) rfl ?all, fun h => h.completes_vote (g := fun xs => xs.any (· != 0)) rfl ?any,
    fun h => h.completes_vote (g := fun xs => xs.all (· == 0)) rfl ?none, fun h => h.completes_vote (g := fun xs => xs.all (· == xs.headD 0)) rfl ?uni,
    fun h => h.completes_regOp (fun w => .msk d.toNat (w.rm a.toNat &&& w.rm b.toNat)) rfl,
    fun h => h.completes_regOp (fun w => .msk d.toNat (w.rm a.toNat ||| w.rm b.toNat)) rfl,
    fun h => h.completes_regOp (fun w => .msk d.toNat (w.rm a.toNat ^^^ w.rm b.toNat)) rfl,
    fun h => h.completes_regOp (fun w => .msk d.toNat (~~~ (w.rm a.toNat))) rfl,
    fun h => h.completes_regOp (fun w => .msk d.toNat (w.rm a.toNat &&& ~~~ (w.rm b.toNat))) rfl,
    fun h => h.completes_regOp (fun w => .sca sd.toNat ((w.rm a.toNat).setWidth 64)) rfl,
    fun h => h.completes_regOp (fun w => .msk d.toNat (lo32 (w.rs sd.toNat))) rfl,
    fun h => h.completes_regOp (fun w => .sca sd.toNat (BitVec.ofNat 64 (onesCount (w.rm a.toNat)))) rfl⟩
  case all => simp [mem_lanesOf, x, e]
  case any => simp [mem_lanesOf, x, e, and_assoc]
  case none => simp [mem_lanesOf, x, e]
  case uni =>
    simp only [all_eq_headD_iff, List.forall_mem_map, mem_lanesOf, and_imp]
    exact ⟨fun hall l hl k hk hle hke => hall l hl hle k hk hke, fun hall l hl hle k hk hke => hall l hl k hk hle hke⟩

/-- Settles O14: comparisons by the relation of each lane, shuffles by the lane they read, votes by what they say of the lanes of E. -/
theorem compareShuffleAndVoteResults : Obligations.CompareShuffleAndVoteResults := ⟨vectorCompareResults, shuffleResults, voteAndMaskResults⟩

end Sys2Proof.Stmt
end
